-- ==== Sys2Proof/Word.lean ====
section
/-! DEFINITION. The words of the machine (00 R4) and the identifiers of its units (00 R3). -/

namespace Sys2Proof

/-- A byte. -/
abbrev Byte := BitVec 8
/-- A 32-bit word: an instruction word, an FP32 pattern, a stream element. -/
abbrev W32 := BitVec 32
/-- A 64-bit word: a register of the control core, a generic address (01 R13). -/
abbrev Word := BitVec 64
/-- A 256-bit vector value (02 R48). -/
abbrev V256 := BitVec 256

/-- Register g0 to g31 (09 R292). -/
abbrev GReg := Fin 32
/-- Register f0 to f15 (09 R292). -/
abbrev FReg := Fin 16
/-- Cluster 0 to 71 (00 R3). -/
abbrev ClusterId := Fin 72
/-- Strand 0 to 3 of a control core (05 R166). -/
abbrev StrandIx := Fin 4
/-- Region 0 to 3 of a cluster (05 R167). -/
abbrev RegionIx := Fin 4
/-- Die 0 to 3 (00 R3). -/
abbrev DieId := Fin 4
/-- Partition 0 to 7 (00 R2). -/
abbrev PartId := Fin 8
/-- Queue 0 to 6: ce0 to ce3, MG0, MG1, the step sequencer (07 R235). -/
abbrev QueueIx := Fin 7
/-- Copy engine 0 to 3. -/
abbrev CeIx := Fin 4
/-- Merge unit 0 or 1. -/
abbrev MgIx := Fin 2
/-- Matrix node mx0 to mx11 (10 R321). -/
abbrev NodeIx := Fin 12
/-- Operand memory node mn0 to mn23 (02 R59). -/
abbrev MnIx := Fin 24
/-- Address generator ag0 to ag7 (02 R73). -/
abbrev AgIx := Fin 8
/-- Stream port sp0 to sp15 (05 R178). -/
abbrev PortIx := Fin 16
/-- Ralva link port 0 to 11 (00 R3). -/
abbrev LinkIx := Fin 12
/-- Ingress window 0 to 63 (13 R401). -/
abbrev WindowIx := Fin 64
/-- PCI Express function 0 to 8 (17 R472). -/
abbrev FuncIx := Fin 9

end Sys2Proof
end

