-- ==== Sys2Proof/Config.lean ====
section
/-! DEFINITION. What the manual leaves open: each constant here is a free value (no body), so that nothing can be proved of it
beyond its type. A call takes the data the value depends on, and where the manual lets it differ from one moment to the
next, the counter State.free. -/

namespace Sys2Proof.Config

/-- Where both neighbours of an exact value of EXP2, LOG2, SIGM or TANH are within 0.51 ulp (06 R209): the operand, by its place in the
order of values, from which on the upper neighbour of `below` is the result (log 7). -/
opaque specialFrom : (fn : Nat) → (below : W32) → W32

/-- Which of the patterns within a relative 2^-14 a seed of RCPA or RSQA is (06 R210; log 7). -/
opaque seedResult : (fn : Nat) → (operand : W32) → W32

/-- The 16 tweak bytes of AES-XTS-256 for the place of an atom: in the row region its stack and its offset in the frame, elsewhere its
physical address (03 R102 gives what the tweak is made from and not its bytes; log 8). -/
opaque tweak : (place : Nat) → BitVec 128

/-- The byte form of a partition's measured memory configuration (17 R488; log 9). -/
opaque configBytes : (content : List Nat) → List Byte

/-- The row-repair table of the base die of a stack (03 R117), which no instruction reads or changes (log 9). -/
opaque rowRepair : (stack : Nat) → List Nat

/-- Which way of a TLB set is refilled when every allowed way holds an entry (01 R35: replacement at times the device does
not define; log 11). -/
opaque tlbVictim : (free : Nat) → Nat

/-- The value of an AtomicOp, register or data word for which the manual states no result (each use names its log entry). -/
opaque freeWord : (free : Nat) → Word

/-- A free 32-bit value. -/
opaque freeW32 : (free : Nat) → W32

/-- A free byte. -/
opaque freeByte : (free : Nat) → Byte

/-- The SHA-384 measurements of the firmware images and fuses (17 R488, indices 1 to 5). -/
opaque imageMeasurement : (index : Nat) → BitVec 384

/-- The signature of a measurement report under the device identity key, over the indices and values reported (17 R488; log 126). -/
opaque identitySignature : (blocks : List (Nat × BitVec 384)) → BitVec 768

/-- The image (1 to 5) whose check fails in bring-up phase 1; any other value: none fails (17 R488, R492; log 53). -/
opaque failedImage : (free : Nat) → BitVec 8

/-- Whether a Ralva port trains to UP in bring-up phase 4, or to DOWN (17 R492; log 53). -/
opaque portTrains : (port : Nat) → (free : Nat) → Bool

end Sys2Proof.Config
end

