-- ==== Sys2Proof/Syntax.lean ====
section
/-! DEFINITION. The steps of the machine: one constructor per row of spec/opcode_table.json. The first 111 are the
control-core instructions (07 R230 to R236); the others are the steps of the other agents, whose operands say which unit
moves and what the outside world sends. -/

namespace Sys2Proof

/-- How an access is made (01 R30: READ, WRITE or FETCH). -/
inductive AccKind where
  | read
  | write
  | fetch
deriving DecidableEq, Repr

/-- What the ECC of a bank or slice found on the atoms that a home request read from DRAM (03 R97). -/
inductive Ecc where
  | clean
  | corrected
  | uncorrectable
deriving DecidableEq, Repr

/-- The agent on whose behalf a translation is made (01 R20, R38). -/
inductive Unit' where
  | strand (k : StrandIx)
  | region (r : RegionIx)
  | queue (q : QueueIx)
deriving DecidableEq, Repr

/-- The read-modify-writes of AMO (09 R305) and of PCI Express AtomicOps (17 R471, R476). -/
inductive AmoOp where
  | add | and | or | xor | min | max | minu | maxu | swap
deriving DecidableEq, Repr

/-- PCI Express AtomicOps (17 R471): FetchAdd, Swap, CAS with its compare value. -/
inductive HostAtomic where
  | fetchAdd (v : Word)
  | swap (v : Word)
  | cas (compare new : Word)
deriving DecidableEq, Repr

/-- An access that arrives from another member of the domain (17 R482, 04 R161). -/
inductive PeerAccess where
  | read (n : Nat)
  | write (data : List Byte)
  | atomic (op : AmoOp) (n : Nat) (v : Word)
  | cas (n : Nat) (compare new : Word)
  | put (v : Word)
  /-- Elements of a format combined with those stored (11 R355). -/
  | reduce (fmt op : Nat) (data : List Byte) (poison : Bool)
  /-- A request of another device, with its sequence number (17 R481). -/
  | numbered (seq : BitVec 16) (act : PeerAccess)
deriving DecidableEq, Repr

/-- The kinds of system step of 17 R488: which function's session asks for a measurement report. -/
abbrev SessionId := Nat

/-- One step of the machine. -/
inductive Instr where
  -- OPR (09 R301)
  | add (d a b : GReg) | sub (d a b : GReg) | and (d a b : GReg) | or (d a b : GReg) | xor (d a b : GReg)
  | sll (d a b : GReg) | srl (d a b : GReg) | sra (d a b : GReg) | slt (d a b : GReg) | sltu (d a b : GReg)
  | mul (d a b : GReg) | mulh (d a b : GReg) | mulhu (d a b : GReg) | div (d a b : GReg) | divu (d a b : GReg)
  | rem (d a b : GReg) | remu (d a b : GReg) | min (d a b : GReg) | max (d a b : GReg) | minu (d a b : GReg)
  | maxu (d a b : GReg) | clz (d a : GReg) | ctz (d a : GReg) | popc (d a : GReg)
  -- immediate forms (07 R231)
  | addi (d a : GReg) (i : BitVec 16) | andi (d a : GReg) (i : BitVec 16) | ori (d a : GReg) (i : BitVec 16)
  | xori (d a : GReg) (i : BitVec 16) | slti (d a : GReg) (i : BitVec 16) | sltiu (d a : GReg) (i : BitVec 16)
  | slli (d a : GReg) (sh : BitVec 6) | srli (d a : GReg) (sh : BitVec 6) | srai (d a : GReg) (sh : BitVec 6)
  | lih (d a : GReg) (i : BitVec 16)
  -- loads and stores (09 R303)
  | ldb (d a : GReg) (i : BitVec 16) | ldh (d a : GReg) (i : BitVec 16) | ldw (d a : GReg) (i : BitVec 16)
  | ldd (d a : GReg) (i : BitVec 16) | ldbu (d a : GReg) (i : BitVec 16) | ldhu (d a : GReg) (i : BitVec 16)
  | ldwu (d a : GReg) (i : BitVec 16)
  | stb (base b : GReg) (o : BitVec 16) | sth (base b : GReg) (o : BitVec 16) | stw (base b : GReg) (o : BitVec 16)
  | std (base b : GReg) (o : BitVec 16)
  -- MEMX (07 R234): scope s, order o, width w (true: eight bytes)
  | lda (d a : GReg) (sc : BitVec 3) (w : Bool) | stl (a b : GReg) (sc : BitVec 3) (w : Bool)
  | amoAdd (d a b : GReg) (sc : BitVec 3) (o : BitVec 2) (w : Bool)
  | amoAnd (d a b : GReg) (sc : BitVec 3) (o : BitVec 2) (w : Bool)
  | amoOr (d a b : GReg) (sc : BitVec 3) (o : BitVec 2) (w : Bool)
  | amoXor (d a b : GReg) (sc : BitVec 3) (o : BitVec 2) (w : Bool)
  | amoMin (d a b : GReg) (sc : BitVec 3) (o : BitVec 2) (w : Bool)
  | amoMax (d a b : GReg) (sc : BitVec 3) (o : BitVec 2) (w : Bool)
  | amoMinu (d a b : GReg) (sc : BitVec 3) (o : BitVec 2) (w : Bool)
  | amoMaxu (d a b : GReg) (sc : BitVec 3) (o : BitVec 2) (w : Bool)
  | amoSwap (d a b : GReg) (sc : BitVec 3) (o : BitVec 2) (w : Bool)
  | cas (d a b : GReg) (sc : BitVec 3) (o : BitVec 2) (w : Bool)
  | put (a b : GReg) (sc : BitVec 3) | take (d a : GReg) (sc : BitVec 3) | rdf (d a : GReg) (sc : BitVec 3)
  | clrp (a : GReg) | prb (d a : GReg) | fence (sc : BitVec 3) (o : BitVec 2) | monarm (a : GReg) | monwait
  -- branches (09 R308)
  | beq (a b : GReg) (o : BitVec 16) | bne (a b : GReg) (o : BitVec 16) | blt (a b : GReg) (o : BitVec 16)
  | bge (a b : GReg) (o : BitVec 16) | bltu (a b : GReg) (o : BitVec 16) | bgeu (a b : GReg) (o : BitVec 16)
  | jal (o : BitVec 26) | jalr (d a : GReg) (i : BitVec 16)
  -- SYS (07 R235): system register number n * 256 + r
  | srd (d : GReg) (n : BitVec 5) (r : BitVec 8) | swr (a : GReg) (n : BitVec 5) (r : BitVec 8)
  | trap (n : BitVec 8) | brk (n : BitVec 8) | rte | wfi | snap
  -- ADR (01 R21)
  | acvtTo (d a : GReg) (id : BitVec 3) | acvtFrom (d a : GReg) (id : BitVec 3) | atst (d a : GReg)
  -- FAB (09 R310 to R315)
  | fload (d a b : GReg) (sync sw : Bool) | krun (a b : GReg) | kstop (a : GReg) (wait : Bool)
  | ksave (d a b : GReg) | krest (a b : GReg) | kstat (d a : GReg) | glaunch (d a : GReg)
  -- ENG (09 R316)
  | enq (d a : GReg) (q : BitVec 3) | enqs (d a : GReg) (q : BitVec 3) | qstat (d : GReg) (q : BitVec 3)
  -- BAR (09 R317)
  | binit (a b : GReg) (sc : BitVec 3) | barr (d a : GReg) (sc : BitVec 3) | bexp (a b : GReg) (sc : BitVec 3)
  | bwait (d a b : GReg) (sc : BitVec 3)
  -- MSG (09 R319)
  | sigst (a b : GReg) (put : Bool) (sc : BitVec 3) | msgsend (d a b : GReg) (sc : BitVec 3)
  | msgrecv (d : GReg) (sc : BitVec 3)
  -- FOP (09 R320)
  | fadd (d a b : FReg) (m : BitVec 3) | fsub (d a b : FReg) (m : BitVec 3) | fmul (d a b : FReg) (m : BitVec 3)
  | ffma (d a b : FReg) (m : BitVec 3) | fdiv (d a b : FReg) (m : BitVec 3) | fsqrt (d a : FReg) (m : BitVec 3)
  | fcvt (d a : GReg) (x : BitVec 3) (m : BitVec 3) | fcmp (d : GReg) (a b : FReg) (c : BitVec 3) (sig : Bool)
  | fmvgf (d : FReg) (a : GReg) | fmvfg (d : GReg) (a : FReg)
  -- EXT (07 R236)
  | li64 (d : GReg) (h : Bool) (i : BitVec 32)
  -- steps of strands and memory that no instruction word names
  | asyncTrapEntry (c : ClusterId) (k : StrandIx) | monitorWake (c : ClusterId) (k : StrandIx)
  | replyPlacement (c : ClusterId) (tag : Nat) (data : List Byte)
  | homeRequest (c : ClusterId) (i : Nat) (ecc : Ecc)
  | pageWalk (c : ClusterId) (u : Unit') (row : Bool) (va : BitVec 52) (kind : AccKind)
  | presenceReissue (c : ClusterId) (tag : Nat) | deferTimeout (c : ClusterId) (tag : Nat)
  | mnChunkWrite (c : ClusterId) (n : MnIx) (off : Nat) (chunk : List Byte) (poisoned : Bool)
  | refresh (stack : Fin 12) (pc : Fin 96) (bank : Fin 64) (held : Bool)
  -- regions
  | regionCycle (c : ClusterId) (r : RegionIx) | regionResume (c : ClusterId) (r : RegionIx)
  | regionStop (c : ClusterId) (r : RegionIx) | drainWrite (c : ClusterId) (r : RegionIx) (i : Nat)
  | drainComplete (c : ClusterId) (r : RegionIx) | agRunAheadIssue (c : ClusterId) (g : AgIx) (b : Fin 4)
  | streamPacketArrival (c : ClusterId) (p : PortIx)
  -- matrix nodes
  | mma (c : ClusterId) (n : NodeIx) | mmas (c : ClusterId) (n : NodeIx) | mzero (c : ClusterId) (n : NodeIx)
  | mlda (c : ClusterId) (n : NodeIx) | mscale (c : ClusterId) (n : NodeIx) | mswap (c : ClusterId) (n : NodeIx)
  | mgang (c : ClusterId) (n : NodeIx) | matrixInstanceComplete (c : ClusterId) (n : NodeIx)
  -- engine commands: the oldest QUEUED command of the queue starts
  | copy (c : ClusterId) (q : CeIx) | copy2d (c : ClusterId) (q : CeIx) | copy3d (c : ClusterId) (q : CeIx)
  | gather (c : ClusterId) (q : CeIx) | scatter (c : ClusterId) (q : CeIx) | fill (c : ClusterId) (q : CeIx)
  | mcast (c : ClusterId) (q : CeIx) | reduce (c : ClusterId) (q : CeIx) | stamp (c : ClusterId) (q : CeIx)
  | signal (c : ClusterId) (q : CeIx) | prefetch (c : ClusterId) (q : CeIx) | llsclean (c : ClusterId) (q : CeIx)
  | llsinv (c : ClusterId) (q : CeIx) | llsflush (c : ClusterId) (q : CeIx) | bankcfg (c : ClusterId) (q : CeIx)
  | rowcopy (c : ClusterId) (q : CeIx) | rowfill (c : ClusterId) (q : CeIx) | rowand (c : ClusterId) (q : CeIx)
  | rowor (c : ClusterId) (q : CeIx) | rowxor (c : ClusterId) (q : CeIx) | rownot (c : ClusterId) (q : CeIx)
  | rowmaj (c : ClusterId) (q : CeIx) | update (c : ClusterId) (m : MgIx) | uflush (c : ClusterId) (m : MgIx)
  | stepset (c : ClusterId) | sigcmp (c : ClusterId) | shdupd (c : ClusterId) | steprd (c : ClusterId)
  -- the work of started commands; the word names a command by the place it was put in its queue (04 R155), which is its sequence number less 1
  -- but for restored commands (14 R452)
  | sector (c : ClusterId) (q : QueueIx) (seq : Word) (j : Fin 5) | frame (c : ClusterId) (q : QueueIx) (seq : Word)
  | sigcmpGroup (c : ClusterId) (seq : Word) | tokenEntry (c : ClusterId) (m : MgIx)
  | groupIssue (c : ClusterId) (m : MgIx) (g : Nat) | completionPublish (c : ClusterId) (q : QueueIx) (seq : Word)
  -- messages
  | messageArrival (c : ClusterId) (sender : ClusterId) (k : StrandIx) (w1 w2 w3 : Word)
  | msgsendRetry (c : ClusterId) (k : StrandIx)
  -- registers of the partition blocks
  | fqctl (n : PartId) (v : Word) | fqtail (n : PartId) (v : Word) | fqclose (n : PartId) (v : Word)
  | fqretry (n : PartId) (v : Word) | tlbinvVa (n : PartId) (asid : BitVec 16) (vpn : BitVec 36)
  | tlbinvAsid (n : PartId) (asid : BitVec 16) | tlbinvAll (n : PartId) | invalidationComplete (n : PartId)
  | accsync (n : PartId) (v : Word) | accsyncComplete (n : PartId) | chretire (n : PartId) (v : Word)
  | retirementComplete (n : PartId) | hold (c : ClusterId) (q : QueueIx) (v : Word)
  | holdRelease (c : ClusterId) (q : QueueIx) (v : Word) | held (c : ClusterId) (q : QueueIx)
  | engxferSave (c : ClusterId) (q : QueueIx) (v : Word) | engxferRestore (c : ClusterId) (q : QueueIx) (v : Word)
  | engxferDone (c : ClusterId) (q : QueueIx)
  | setup (n : PartId) (v : Word) | setupDone (n : PartId) | reset (n : PartId) (v : Word)
  | release (n : PartId) (v : Word) | pwdkick (n : PartId) (v : Word) | watchdogFirstStage (n : PartId)
  | watchdogSecondStage (n : PartId) | hostirq (n : PartId) (v : Word) | trig (n : PartId) (v : Word)
  | counterTrigger (c : ClusterId) | snapin | snapLatch | registerWrite (f : FuncIx) (off : Nat) (v : Word)
  | memerrRead (n : PartId) | peererrRead (n : PartId) | disperrRead (n : PartId)
  | ingstatRead (n : PartId) (w : WindowIx) | linkstatRead (p : LinkIx)
  -- tokens and instances
  | ingressTokenWrite (n : PartId) (w : WindowIx) (off : Nat) (data : List Byte) (poisoned : Bool)
  | tokenRelease (n : PartId) (w : WindowIx) | launch (die : DieId) | edit (die : DieId) | preempt (die : DieId)
  | data (die : DieId) | dependenceRead (die : DieId) (inst : Nat) | dependencePoll (die : DieId)
  | readyWaitLimit (die : DieId) (inst : Nat) | placement (die : DieId) | configurationLoad (die : DieId) (inst : Nat)
  | controlStrandWake (die : DieId) (inst : Nat) | instanceRetire (die : DieId) (inst : Nat)
  | quantumEnd (c : ClusterId) (r : RegionIx) | aging (c : ClusterId) (r : RegionIx) (i : Fin 4)
  | contextSwitch (c : ClusterId) (r : RegionIx)
  -- the host, the platform and the domain
  | bar4Write (n : PartId) (off : BitVec 40) (data : List Byte) | bar4Read (n : PartId) (off : BitVec 40) (len : Nat)
  | atomicop (n : PartId) (off : BitVec 40) (w : Bool) (op : HostAtomic)
  | notifyWrite (n : PartId) (off : Nat) (data : List Byte) | flr (n : PartId) | d3hotEntry (n : PartId) | perst
  | bringUpPhaseDone (ph : Fin 5) | thermtrip | flitReceive (p : LinkIx) (crcOk : Bool) (src : Nat) (seq : BitVec 16)
  | incomingPeerAccess (src : Fin 4096) (n : PartId) (off : BitVec 40) (acc : PeerAccess)
  | linkDown (p : LinkIx) | pathTimeout (c : ClusterId) (tag : Nat) | setkey (n : PartId) (session : Nat) (key : BitVec 512)
  | measurementReport (f : FuncIx) (session : Nat) | partitionResetComplete (n : PartId) | linkDegraded (p : LinkIx)
  | illegalInstruction (w : W32) | fetchFault
deriving DecidableEq, Repr

end Sys2Proof
end

