-- ==== Sys2Proof/Machine/State.lean ====
section
/-! DEFINITION. The state of the machine as plain data (INVENTORY.md, State): every piece of state the manual gives, the two
fields of the model's own scheduling (turns, cur), and the counter behind free values. -/

namespace Sys2Proof.Machine

/-- A sparse table: key and value pairs, keys rising. -/
abbrev Table (α : Type) := List (Nat × α)

/-- Memory: address and byte pairs, addresses strictly rising, no entry zero (an unlisted address reads as 0; log 5). -/
abbrev Memory := List Host.Cell

/-- Why the machine stops. -/
inductive Fault where
  /-- Raised by step when pin THERMTRIP has stopped every clock and the turn is not PERST (17 R493). Safe: nothing runs. -/
  | clocksStopped
deriving DecidableEq, Repr

/-- Why an instruction has no meaning here. -/
inductive Refusal where
  /-- An instruction that this model does not describe yet; raised by its arm of exec. Safe. -/
  | notModelled (mnemonic : String)
deriving DecidableEq, Repr

/-- The names of 14 R425. -/
inductive Cause where
  | illegal | misaligned | pageFault | protection | aperture | presenceDoublePut | deferTimeout | poison | bulkAlign
  | queueSpillFull | staleToken | bankMoved | fpTrap | watchdog | engineFault | syscall | break_ | preempt | configInvalid
deriving DecidableEq, Repr

/-- The codes of 14 R425. -/
def Cause.code : Cause → BitVec 8
  | .illegal => 0x01 | .misaligned => 0x02 | .pageFault => 0x03 | .protection => 0x04 | .aperture => 0x05
  | .presenceDoublePut => 0x06 | .deferTimeout => 0x07 | .poison => 0x08 | .bulkAlign => 0x09 | .queueSpillFull => 0x0A
  | .staleToken => 0x0B | .bankMoved => 0x0C | .fpTrap => 0x0D | .watchdog => 0x0E | .engineFault => 0x0F
  | .syscall => 0x10 | .break_ => 0x11 | .preempt => 0x12 | .configInvalid => 0x13

/-- The six aperture windows (01 R14, R15): index n - 1 for window n. -/
structure Apertures where
  base : Vector (BitVec 40) 6
  limit : Vector (BitVec 40) 6
deriving DecidableEq, Repr

def Apertures.reset : Apertures := ⟨Vector.replicate 6 0xFFFFFFFFFF, Vector.replicate 6 0⟩

/-- Privilege, ASID and PTROOT, as a strand holds them or as KRUN and ENQ capture them (01 R20). -/
structure Ident where
  sup : Bool
  asid : BitVec 16
  root : BitVec 40
  en : Bool
deriving DecidableEq, Repr

def Ident.reset : Ident := ⟨true, 0, 0, false⟩

/-- What an address reaches. -/
inductive Target where
  /-- Scratchpad of a cluster at a LOCAL offset below 0xC0_0000. -/
  | scratch (c : ClusterId) (o : Nat)
  /-- Memory-node window: node, offset (02 R63). -/
  | node (c : ClusterId) (n : Nat) (f : Nat)
  /-- Physical address of a partition, with the leaf's CACHE and ENC. -/
  | phys (p : PartId) (pa cache : Nat) (enc : Bool)
  /-- Another device's member and export offset. -/
  | peer (m off : Nat)
  | mmio (off : Nat)
deriving DecidableEq, Repr

/-- A record of a fabric load that takes effect with the plane switch (09 R311). -/
structure Rec where
  /-- Offset in the image, and image cluster. -/
  off : Nat
  cl : Nat
  ty : Nat
  unit : Nat
  sub : Nat
  rgn : Nat
  data : List Byte
deriving DecidableEq, Repr

/-- A parsed fabric-load image (07 R242): clusters, LOADID, PVER and records. -/
structure FabLoad where
  ncl : Nat
  loadId : W32
  pver : BitVec 8
  recs : List Rec
deriving DecidableEq, Repr

/-- Where a fabric load was read: GLOBAL (an address translated under an identity) or LOCAL of a cluster, and the physical cluster of
image cluster 0. -/
structure LoadSrc where
  global : Bool
  addr : Nat
  c : ClusterId
  id : Ident
  base : Nat
deriving DecidableEq, Repr

/-- A FLOAD with SYNC that waits for its switches (09 R311): what takes effect when it completes, where its image cluster 0 lies, and
where it was read. -/
structure SyncLoad where
  load : FabLoad
  base : Nat
  src : Option LoadSrc
  /-- What waited for a switch in its regions before it: region, token and records, put back where it is interrupted (09 R299). -/
  undo : List (Nat × Option (BitVec 8 × W32) × List Rec)
deriving DecidableEq, Repr

/-- A FLOAD that waits (09 R311): its strand, the strand's program counter, and the clusters it names. -/
structure LoadTurn where
  c : ClusterId
  k : StrandIx
  pc : Word
  cs : List ClusterId
deriving DecidableEq, Repr

/-- What a strand in WAIT waits for (05 R166). -/
inductive WaitFor where
  | wfi
  | monwait
  /-- A deferred or refused RDF or TAKE, by its request tag. -/
  | presence (tag : Nat)
  /-- An access to another device, by its request tag. -/
  | remote (tag : Nat)
  /-- ENQ on a full queue, BWAIT, MSGRECV, KSTOP with WAIT, FLOAD with SYNC, a fence waiting for peers, or an access held at its home:
  the instruction is attempted again at a later turn, under the aperture set of its issue (01 R16). -/
  | retry (ap : Apertures)
  /-- FLOAD with SYNC has written standby planes and waits for the switches of these regions (cluster * 4 + region): its destination
  and the load whose other records take effect when it completes (09 R311). -/
  | sync (d : GReg) (x : SyncLoad) (regions : List Nat)
  /-- MSGSEND between attempts: attempts made, the cycle of the next, destination register, receiving cluster, message (09 R319). -/
  | msgsend (tries next : Nat) (d : GReg) (t : ClusterId) (w : Vector Word 4)
deriving DecidableEq, Repr

/-- 05 R166. -/
inductive StrandState where
  | idle
  | run
  /-- What it waits for, and whether it was in its trap handler. -/
  | wait (w : WaitFor) (handler : Bool)
  | trap
deriving DecidableEq, Repr

/-- One strand (09 R292, R295). -/
structure Strand where
  pc : Word
  g : Vector Word 32
  f : Vector W32 16
  /-- STATUS (09 R293). -/
  dbl : Bool
  pie : Bool
  ppriv : Bool
  ie : Bool
  priv : Bool
  /-- TRAPCAUSE.CAUSE and SUB, TRAPPC, TRAPVAL, TRAPVEC[63:2] (09 R297). -/
  trapCause : BitVec 8
  trapSub : BitVec 8
  trapPc : Word
  trapVal : Word
  trapVec : BitVec 62
  tscratch : Word
  asid : BitVec 16
  ptRoot : BitVec 40
  ptEn : Bool
  slfsr : W32
  roundLen : BitVec 17
  state : StrandState
  /-- The next fetch is the one at TRAPVEC (09 R298). -/
  atVector : Bool
  /-- Words fetched ahead, by address (04 R126). -/
  ahead : Table W32
  /-- The instance this strand controls, if the dispatcher woke it (13 R417). -/
  instance_ : Option Nat
  /-- Writes of other agents of the cluster that happen before the strand's next release: those with a tag below this one, the next tag
  at its last acquire (04 R130, R133). -/
  acqTag : Nat := 0
  /-- Writes of other agents of the cluster that happen before the strand's last release fence and so come before its next write: those with a
  tag below this one (04 R131, R133, R135). -/
  relTag : Nat := 0
deriving DecidableEq, Repr

def Strand.reset : Strand where
  pc := 0
  g := Vector.replicate 32 0
  f := Vector.replicate 16 0
  dbl := false
  pie := false
  ppriv := false
  ie := false
  priv := true
  trapCause := 0
  trapSub := 0
  trapPc := 0
  trapVal := 0
  trapVec := 0
  tscratch := 0
  asid := 0
  ptRoot := 0
  ptEn := false
  slfsr := 1
  roundLen := 1
  state := .idle
  atVector := false
  ahead := []
  instance_ := none

/-- The source of an asynchronous report (14 R427), in the order of its list. -/
inductive Source where
  | watchdog (p : PartId)
  | preempt (inst : Nat)
  | region (c : ClusterId) (r : RegionIx)
  | engine (c : ClusterId) (q : QueueIx)
  | spill (c : ClusterId)
  | sigst (c : ClusterId) (k : StrandIx)
  | peer (c : ClusterId) (k : StrandIx)
deriving DecidableEq, Repr

/-- A report held at its source until its strand takes it (14 R427). -/
structure Report where
  src : Source
  c : ClusterId
  k : StrandIx
  cause : Cause
  sub : BitVec 8
  val : Word
deriving DecidableEq, Repr

/-- Who waits for a presence reply or a peer reply (02 R70). -/
inductive Who where
  | strand (k : StrandIx)
  /-- Element e (of the vector) with ordinal ord of block b of a generator. -/
  | gen (g : AgIx) (b : Fin 4) (ord : Nat)
  | queue (q : QueueIx) (seq : Word)
  /-- A write of a half of a region that drains. -/
  | drain (r : RegionIx)
deriving DecidableEq, Repr

/-- What an outstanding request is (04 R142, R161). -/
inductive ReqKind where
  /-- RDF (take = false) or TAKE of a scratchpad word: cluster, LOCAL offset, destination register. -/
  | presence (take : Bool) (c : ClusterId) (off : Nat) (d : GReg)
  /-- A load from another device: destination, size, sign extension. -/
  | load (d : GReg) (n : Nat) (signed : Bool)
  /-- AMO or CAS on another device: destination and size. -/
  | atomic (d : GReg) (n : Nat)
  /-- A read of n bytes by an engine or generator at an export offset of a member; the reply is kept until it is used. -/
  | read (member off n : Nat)
  /-- A write, or the signal operation of SIGST, awaiting its acknowledgement. -/
  | store
deriving DecidableEq, Repr

/-- An outstanding request of a cluster's agent (04 R142 to R144). -/
structure Req where
  tag : Nat
  who : Who
  kind : ReqKind
  addr : Word
  first : Nat
  limit : Nat
  /-- Refused for a full table: the cycle of the next issue (04 R142); none: deferred at the bank, or at the target. -/
  reissue : Option Nat
  /-- The answer, kept until its requester uses it. -/
  reply : Option (List Byte)
  /-- The access of another device that carries it, sent again if a port goes down (17 R483). -/
  member : Nat
  port : Option LinkIx
  act : Option PeerAccess
  /-- Its sequence number between the issuing partition and the target (17 R481). -/
  seq : Nat := 0
  /-- The export offset of a write to another device. -/
  off : Nat := 0
  /-- The round of a region's write (04 R146). -/
  round : Nat := 0
  /-- The read is an acquire of its strand (04 R130). -/
  acq : Bool := false
deriving DecidableEq, Repr

/-- A wait-table entry (02 R70), oldest first in the list of its cluster. -/
structure WaitEntry where
  bank : Nat
  /-- The word, as cluster storage key / 8 (physical). -/
  word : Nat
  take : Bool
  reqCluster : ClusterId
  tag : Nat
deriving DecidableEq, Repr

/-- BKCFGn (02 R66). -/
structure BankCfg where
  epoch : BitVec 8
  busy : Bool
  owner : BitVec 4
  glog : BitVec 3
  mode : BitVec 2
deriving DecidableEq, Repr

def BankCfg.reset : BankCfg := ⟨0, false, 0xF, 0, 0⟩

/-- Where a buffered write goes (04 R121). -/
inductive Dest where
  /-- Physical address of a partition, with the leaf's CACHE and ENC. -/
  | phys (p : PartId) (cache : BitVec 2) (enc : Bool)
  /-- Another device: member and export offset of the granule. -/
  | peer (member : Nat)
deriving DecidableEq, Repr

/-- One write in the cluster's outbound buffer (04 R123): bytes by physical address or export offset, within one 64-byte atom. -/
structure Pending where
  dest : Dest
  cells : List (Nat × Byte)
  poison : Bool
  who : Who
  addr : Word
  /-- Its place in the order of the cluster's requests, given when it enters the buffer. -/
  tag : Nat := 0
  /-- The GLOBAL virtual address that its access counter is found by (01 R45). -/
  va : Option Nat := none
  /-- The round of a region's write (04 R146). -/
  round : Nat := 0
deriving DecidableEq, Repr

/-- The signal operation of a SIGST that waits until the writes with these tags are acknowledged (09 R319, 04 R161): strand, address,
target, value, and whether it is a PUT. -/
structure Signal where
  k : StrandIx
  ga : Word
  t : Target
  v : Word
  put : Bool
  after : List Nat
  /-- The GLOBAL virtual address that its access counter is found by (01 R45). -/
  va : Option Nat
deriving DecidableEq, Repr

/-- An increment of an access counter (01 R45): the partition, and the virtual and the physical address of the access. -/
structure Count where
  part : PartId
  va : Nat
  pa : Nat
deriving DecidableEq, Repr

/-- An armed monitor (09 R307): the 64-byte granule, as a storage key / 64 or none where the arm triggers at once. -/
structure Monitor where
  c : ClusterId
  k : StrandIx
  granule : Nat
  triggered : Bool
deriving DecidableEq, Repr

/-- Who a chunk on its way into a memory node belongs to. -/
inductive ChunkOwner where
  | cmd (c : ClusterId) (q : QueueIx) (seq : Word)
  | drain (c : ClusterId) (r : RegionIx)
deriving DecidableEq, Repr

/-- A 32-byte chunk that waits to be written into a memory node (02 R61). -/
structure NodeChunk where
  off : Nat
  data : List Byte
  poison : Bool
  owner : ChunkOwner
deriving DecidableEq, Repr

/-- The chunk written last into a memory node: its storage key, its producer, and whether it was poisoned. -/
structure LastChunk where
  key : Nat
  owner : ChunkOwner
  poison : Bool
deriving DecidableEq, Repr

/-- MNCFGn and MNSTATn (02 R59, R60), and the chunks that wait for room, oldest first. -/
structure MemNode where
  fillu : BitVec 13
  bufu : BitVec 6
  nb : BitVec 5
  full : BitVec 16
  fptr : BitVec 4
  fcnt : BitVec 13
  wait : List NodeChunk
  /-- Buffers released in this cycle, whose full bits clear with its end (02 R62, 10 R331). -/
  freeing : BitVec 16 := 0
  /-- The chunk written last: with the next it may make a whole atom (03 R98). -/
  last : Option LastChunk := none
deriving DecidableEq, Repr

def MemNode.reset : MemNode := ⟨0, 0, 0, 0, 0, 0, [], 0, none⟩

/-- The state of an engine command (11 R342); a DONE command is in no queue. -/
inductive CmdState where
  | queued | active | suspended
deriving DecidableEq, Repr

/-- The progress of a DIGEST (14 R448): working hash, bytes digested, unprocessed message bytes. -/
structure Digest where
  h : Vector Word 8
  bytes : Word
  rest : List Byte
deriving DecidableEq, Repr

/-- Who sent a command, for ENGINE_FAULT (11 R348) and for retirement (13 R418). -/
structure Sender where
  c : ClusterId
  k : StrandIx
  /-- The instance whose control strand or kernel sent it. -/
  inst : Option Nat
deriving DecidableEq, Repr

/-- One page translated and kept by a row command (03 R104, R105): virtual 64 KiB page, physical page, ENC. -/
structure KeptPage where
  /-- Generic address of the page. -/
  page : Nat
  pa : Nat
  cache : Nat
  enc : Bool
deriving DecidableEq, Repr

/-- A command in a queue, with the items of its resumable record (11 R359, 14 R448). -/
structure Cmd where
  w : Vector Word 8
  seq : Word
  state : CmdState
  /-- It entered refused: BAD_CMD at the head of QUEUED (11 R343). -/
  refused : Bool
  next : Nat
  done : BitVec 4
  faulted : Bool
  path : Nat
  pend : BitVec 40
  nfast : Nat
  nnear : Nat
  count : Word
  digest : Option Digest
  id : Ident
  sender : Sender
  /-- The aperture set in effect at the command's start (01 R16). -/
  ap : Apertures
  /-- Place among the commands put in this queue (04 R155), by which the queue names it. -/
  place : Nat
  /-- Sent by a cell with REL: region and round whose writes it waits for (04 R154). -/
  after : Option (RegionIx × Nat)
  pages : List KeptPage
  /-- It ends with this error code (R347) when what it has begun is done. -/
  finish : Option Nat
  /-- A digest read met poison (11 R361). -/
  digestPoison : Bool
  /-- Places below this one count as complete for its AFTER (04 R155). -/
  floor : Nat
  /-- What of its publication has gone to another device and is not acknowledged yet: 0 the stamp, 1 the digest before it. -/
  pub : Option Nat
  /-- The map that SHDUPD read at its start (12 R397). -/
  map : Option (List Byte)
  /-- Granules of its source or of its indices that two of its sectors share, read once (04 R122): the last sector that needs it, the granule's
  address / 64, and its 64 bytes with their poison. -/
  shared : List (Nat × Nat × List (Byte × Bool)) := []
  /-- Computed tiles of the frame in progress that SHDUPD has copied (12 R397). -/
  tilesDone : Nat := 0
deriving DecidableEq, Repr

/-- A token in a group of an eddy window (11 R371). -/
structure MergeTok where
  /-- The key of its command in the queue. -/
  cmd : Word
  index : Nat
  off : Word
  val : W32
  tag : W32
deriving DecidableEq, Repr

/-- A group of an eddy window: its location, format and operation, members in arrival order, the cycle its first token
entered, and the page-translated place of the target (11 R371, R375). -/
structure MergeGroup where
  addr : Word
  c : ClusterId
  /-- The storage place: false, LOCAL offset of c in scratchpad; true, physical address. -/
  phys : Bool
  place : Nat
  cache : BitVec 2
  enc : Bool
  fmt : BitVec 4
  op : BitVec 3
  opened : Nat
  toks : List MergeTok
  /-- The GLOBAL virtual address that its access counter is found by (01 R45). -/
  va : Option Nat := none
deriving DecidableEq, Repr

/-- ENGXFERq (14 R450). -/
structure Xfer where
  busy : Bool
  op : BitVec 2
  err : BitVec 3
  base : BitVec 46
deriving DecidableEq, Repr

/-- One of the seven queues (11). -/
structure EngQueue where
  cmds : List Cmd
  nextSeq : Word
  err : Bool
  placed : Nat
  hold : Bool
  held : Bool
  errTrap : Bool
  log : Table Word
  xfer : Xfer
  groups : List MergeGroup
deriving DecidableEq, Repr

def EngQueue.reset : EngQueue where
  cmds := []
  nextSeq := 1
  err := false
  placed := 0
  hold := false
  held := false
  errTrap := true
  log := []
  xfer := ⟨false, 0, 0, 0⟩
  groups := []

abbrev Engines := Vector EngQueue 7
def Engines.reset : Engines := Vector.replicate 7 EngQueue.reset

/-- A 256-bit value with its poison mark for each byte (06 R215) and VER (05 R186). -/
structure VecVal where
  bits : V256
  mark : BitVec 32
  ver : BitVec 2
deriving DecidableEq, Repr

def VecVal.zero : VecVal := ⟨0, 0, 0⟩

/-- A slot of an opcode plane (07 R222). -/
structure PSlot where
  word : BitVec 40
  const : W32
deriving DecidableEq, Repr

/-- An opcode plane and its route plane (05 R185, 07 R223). -/
structure Plane where
  ops : Vector PSlot 32
  routes : Vector W32 8
deriving DecidableEq, Repr

def Plane.reset : Plane := ⟨Vector.replicate 32 ⟨0, 0⟩, Vector.replicate 8 0⟩

/-- A LIVE record (07 R243): the rotating window and what is live at a weir. -/
structure Live where
  rog : Nat
  rsz : Nat
  v : BitVec 16
  p : BitVec 7
  links : BitVec 4
  prev : Bool
  lfsr : Bool
  w : BitVec 40
deriving DecidableEq, Repr

def Live.none : Live := ⟨0, 0, 0, 0, 0, false, false, 0⟩

/-- A vector in a cell's command port (08 R286): a half or whole packet part, the round and kernel that sent it, whether some of
its lanes were disabled (07 R239), and whether its round is sealed. -/
structure CmdVec where
  val : VecVal
  round : Nat
  kern : Fin 4
  refused : Bool
  ready : Bool
deriving DecidableEq, Repr

/-- One cell (02 R48, 07). p holds p1 to p7 at indices 1 to 7. -/
structure Cell where
  v : Vector VecVal 16
  w : Vector VecVal 40
  p : Vector W32 8
  /-- Link outputs n, e, s, w, and which of them hold a value that was placed there (05 R186). -/
  out : Vector VecVal 4
  driven : BitVec 4
  prev : VecVal
  lfsr : Vector W32 4
  act : Plane
  stb : Plane
  live : Vector Live 4
  rimTap : Bool
  cmdPort : BitVec 3
  cmds : List CmdVec
deriving DecidableEq, Repr

def Cell.reset : Cell where
  v := Vector.replicate 16 VecVal.zero
  w := Vector.replicate 40 VecVal.zero
  p := Vector.replicate 8 0
  out := Vector.replicate 4 VecVal.zero
  driven := 0
  prev := VecVal.zero
  lfsr := Vector.replicate 4 0
  act := Plane.reset
  stb := Plane.reset
  live := Vector.replicate 4 Live.none
  rimTap := false
  cmdPort := 0
  cmds := []

/-- Where an operation in flight writes (02 R49). -/
inductive FlightDst where
  | none
  | v (i : Nat)
  | w (i : Nat)
  /-- A predicate, with the bits written. -/
  | pred (i : Nat) (bits mask : W32)
deriving DecidableEq, Repr

/-- An operation issued and not yet written: the region cycle at whose end it writes, its cell and kernel, destination, value,
the bits it writes, whether prev takes it, the outputs n, e, s, w that take the routed result, its rim injection (lane, OFS) and
VER (02 R49, 08 R253, 07 R224). -/
structure Flight where
  due : Nat
  cell : Nat
  kern : Nat
  dst : FlightDst
  val : V256
  mark : BitVec 32
  mask : V256
  toPrev : Bool
  links : BitVec 4
  rim : Option (Nat × Nat)
  ver : BitVec 2
deriving DecidableEq, Repr

/-- A value on the rim (02 R54, 14 R442): lane, present and destination station, cycles left before it stands at its injecting
station, and whether it reached its destination in the last cycle. -/
structure RimVal where
  val : VecVal
  /-- The bytes of elements that a loader delivered masked (02 R75). -/
  mask : BitVec 32
  lane : Nat
  station : Nat
  dest : Nat
  ofs : Nat
  arrived : Bool
deriving DecidableEq, Repr

/-- A stream packet (05 R177, 14 R439). -/
structure Packet where
  hdr : W32
  elems : List W32
  marks : BitVec 16
deriving DecidableEq, Repr

/-- A PORT record (07 R243). -/
structure PortCfg where
  out : Bool
  merge : Bool
  punct : Bool
  acq : Bool
  ver : BitVec 2
  region : RegionIx
  cell : Nat
deriving DecidableEq, Repr

/-- A stream port (05 R178 to R184). -/
structure Port where
  cfg : Option PortCfg
  /-- The expected VER before the last switch (05 R186). -/
  oldVer : BitVec 2
  /-- The other end: for an output its destination, for an input its source (07 R243, STREAM). -/
  peer : Option (ClusterId × PortIx)
  /-- Input: packets from the oldest retained element on; index of that element in the first packet; elements delivered in the
  current round; elements dropped (05 R182). -/
  inq : List Packet
  first : Nat
  taken : Nat
  drop : Nat
  /-- Output: packets of the current round in order (an RMARK's MARKER among them), the open MERGE packet, packets that may leave,
  and MARKERs of sealed rounds that wait for their drain. -/
  held : List Packet
  open_ : Option Packet
  ready : List Packet
  marks : List Packet
deriving DecidableEq, Repr

def Port.reset : Port where
  cfg := none
  oldVer := 0
  peer := none
  inq := []
  first := 0
  taken := 0
  drop := 0
  held := []
  open_ := none
  ready := []
  marks := []

/-- The position of a pattern block (02 R81): vector q, index position, tile, ended, map snapshot, ordinal (04 R144). -/
structure AgPos where
  q : Nat
  idx : Nat
  tile : Nat
  ended : Bool
  map : List Byte
  ord : Nat
deriving DecidableEq, Repr

def AgPos.zero : AgPos := ⟨0, 0, 0, false, [], 0⟩

/-- A vector that a loader has issued ahead (02 R80): the value gathered, its presence elements with no reply yet (element,
request tag), its count of elements, and the position after it. -/
structure AgVec where
  val : VecVal
  /-- The bytes of masked elements (02 R75 to R77). -/
  mask : BitVec 32
  /-- The aligned 64-byte granules that its plain accesses read, indices and skip map among them. -/
  reads : List Word
  pend : List (Nat × Nat)
  n : Nat
  after : AgPos
  /-- A fault met by its accesses: cause code, value (14 R434). -/
  fault : Option (Nat × Word)
  /-- The fault is a translation fault, recorded: walk cause (01 R32). -/
  walk : Bool
deriving DecidableEq, Repr

/-- A pattern block (02 R74). -/
structure AgBlock where
  words : Vector Word 8
  pos : AgPos
  /-- The position recorded at the round start. -/
  saved : AgPos
  /-- The run-ahead, oldest first, and the position after it. -/
  ahead : List AgVec
  issue : AgPos
deriving DecidableEq, Repr

/-- A served TAKE element (04 R144). -/
structure TakeRec where
  val : Word
  ord : Nat
  block : Nat
  mark : Bool
deriving DecidableEq, Repr

structure Agen where
  region : Option RegionIx
  blocks : Vector (Option AgBlock) 4
  takes : List TakeRec
  /-- A translation fault of this generator waits for FQRETRY (01 R44). -/
  suspended : Bool
deriving DecidableEq, Repr

def Agen.reset : Agen := ⟨none, Vector.replicate 4 none, [], false⟩

/-- One granule of a round store buffer (14 R442): 64-byte aligned generic address, byte mask, PUT mask, data, poison, the
kernel that stored it. -/
structure Granule where
  addr : Word
  mask : BitVec 64
  puts : BitVec 8
  data : BitVec 512
  poison : Bool
  kern : Fin 4
  /-- A translation fault of its write is recorded and waits for FQRETRY (02 R84). -/
  waiting : Bool
deriving DecidableEq, Repr

/-- A sealed half that drains (02 R83): its granules not yet written, round, drain scope, and the aperture set of the round. -/
structure Half where
  grans : List Granule
  round : Nat
  scope : Nat
  ap : Apertures
deriving DecidableEq, Repr

/-- 05 R174. -/
inductive KState where
  | loaded | running | exiting | retiring | retired | stopped | faulted | starting
deriving DecidableEq, Repr

/-- A KERNEL record (07 R243). -/
structure KernCfg where
  slots : BitVec 32
  wm1 : Nat
  s : Nat
  scope : Nat
  rlen : Nat
  seed : W32
deriving DecidableEq, Repr

/-- One kernel of a region (05 R170, R174, 14 R440). -/
structure Kernel where
  cfg : Option KernCfg
  st : KState
  /-- The state it returns to when its stopped or faulted region resumes (14 R429). -/
  was : KState
  exit_ : Bool
  /-- p8 to p15. -/
  sp : BitVec 8
  iters : Word
  trips : W32
  noTrip : Bool
  periods : Nat
  id : Ident
  c : ClusterId
  k : StrandIx
  inst : Option Nat
  /-- It is RETIRED once this many halves of its region have drained (05 R151). -/
  need : Nat
  /-- Its first wrap falls no earlier than this cycle of the device, and not while an access that its strand made before the KRUN, whose
  tag in the strand's cluster is below `fence`, is outstanding (09 R312). -/
  earliest : Nat
  fence : Nat
deriving DecidableEq, Repr

def Kernel.reset : Kernel where
  cfg := none
  st := .loaded
  was := .loaded
  exit_ := false
  sp := 0
  iters := 0
  trips := 0
  noTrip := true
  periods := 0
  id := Ident.reset
  c := 0
  k := 0
  inst := none
  need := 0
  earliest := 0
  fence := 0

/-- REGSTAT.STATE (05 R173). -/
inductive RState where
  | idle | running | frozen | stopping | stopped | faulted
deriving DecidableEq, Repr

/-- REGFLTn and REGFLTVn (14 R432). -/
structure RegFlt where
  round : W32
  pend : Bool
  valid : Bool
  kern : BitVec 2
  slot : BitVec 5
  unit : BitVec 6
  src : BitVec 3
  cls : BitVec 2
  cause : BitVec 8
  value : Word
deriving DecidableEq, Repr

def RegFlt.reset : RegFlt := ⟨0, false, false, 0, 0, 0, 0, 0, 0, 0⟩

/-- A commit-stop to come (14 R428): cause, source, unit, round, slot, value. -/
structure CommitStop where
  cause : Cause
  src : Nat
  unit : Nat
  round : Nat
  slot : Nat
  value : Word
deriving DecidableEq, Repr

/-- What is due at the next slot 0 (05 R168, R189): nothing; the whole weir; or its wrap only (the round's end is settled). -/
inductive WeirPart where
  | none | whole | wrap
deriving DecidableEq, Repr

/-- An entry of the step table (12 R382): its eight words as STEPSET wrote them and the counters it keeps. -/
structure StepEntry where
  valid : Bool
  words : Vector Word 8
  step : Nat
  reval : Nat
deriving DecidableEq, Repr

/-- An entry of the step table that its region took into its weir image as it stood at the stop (12 R398): number, map and staleness
bytes, whether a read failed, and the entry. -/
structure TiedRec where
  num : Nat
  map : List Byte
  stale : List Byte
  failed : Bool
  entry : StepEntry
deriving DecidableEq, Repr

/-- A placed context of a region (13 R421 to R423). -/
structure RegCtx where
  inst : Nat
  /-- The fabric load of the context. -/
  loadId : W32
  pver : BitVec 8
  src : Option LoadSrc
  base : Nat
  /-- Levels risen while it waits, and whole quanta waited since the last rise (13 R423). -/
  boost : Nat
  waited : Nat
  waitFrom : Nat
  /-- Its 16-MiB slot holds its weir image. -/
  slot : Option Nat
  /-- Saved with every kernel LOADED or RETIRED (13 R418). -/
  quiet : Bool
  /-- A PREEMPT named its instance while it waited: the packets are injected when it is restored (13 R420). -/
  pre : Bool
  running : Bool
  /-- Stopped by a supervisor or a PREEMPT: it does not rotate (13 R420, R424). -/
  stoppedBySup : Bool
  /-- Rounds that its wheel had sealed when it was saved (09 R314). -/
  round : Nat
deriving DecidableEq, Repr

/-- The parts of a shadow image that are taken at its capture (14 R430). Flights are due relative to the capture. -/
structure Shadow where
  weir : WeirPart
  period : Nat
  round : Nat
  fp : BitVec 8
  kernels : Vector Kernel 4
  cells : Vector Cell 64
  rim : List RimVal
  ports : Vector Port 16
  agens : Vector Agen 8
  fill : List Granule
  flights : List Flight
  /-- The active plane version and the cycles left after a switch. -/
  ver : BitVec 8
  left : Nat
deriving DecidableEq, Repr

/-- One region (05). -/
structure Region where
  configured : Bool
  st : RState
  fcause : Nat
  slot : Nat
  w : Nat
  roundLen : Nat
  period : Nat
  round : Nat
  /-- Unfrozen cycles executed. -/
  cyc : Nat
  weir : WeirPart
  fp : BitVec 8
  ap : Apertures
  loadId : W32
  ver : BitVec 8
  /-- A switch: the token has come; version before; cycles left of the W after the switch (05 R185, R186). -/
  token : Option (BitVec 8 × W32)
  oldVer : BitVec 8
  left : Nat
  recs : List Rec
  kernels : Vector Kernel 4
  flights : List Flight
  rim : List RimVal
  fill : List Granule
  drain : Option Half
  /-- Halves sealed and drained since reset. -/
  sealedN : Nat
  drainedN : Nat
  /-- Flags of the round's cell operations, and of completed matrix instances (06 R206). -/
  flags : BitVec 5
  nflags : BitVec 5
  stop : Bool
  commit : Option CommitStop
  /-- A PREEMPT stops it (05 R192). -/
  preempted : Bool
  /-- PREEMPTs have been injected at the ingress ports of the graph of its running context (05 R192, 13 R420). -/
  graphPre : Bool := false
  shadow : Option Shadow
  /-- Its stopped image is a shadow image (14 R437, ORIGIN). -/
  origin : Bool
  /-- Its node outputs of the waiting slot are settled: vectors to inject (node, lane, delay, value), by node. -/
  outs : List (Nat × Nat × Nat × VecVal)
  settled : List Nat
  tied : List TiedRec
  tiedCmds : List Cmd
  flt : RegFlt
  /-- Where the load that configured it was read. -/
  src : Option LoadSrc
  ctxs : List RegCtx
  /-- The cycle in which the quantum began, and its length in units of 1,024 cycles (13 R422, R423). -/
  quantumFrom : Nat
  quantumLen : BitVec 20
  /-- The scheduler has asked for the stop of the running context (13 R423). -/
  rotate : Bool
  pin : Bool
deriving DecidableEq, Repr

def Region.reset : Region where
  configured := false
  st := .idle
  fcause := 0
  slot := 0
  w := 1
  roundLen := 1
  period := 0
  round := 0
  cyc := 0
  weir := .none
  fp := 0
  ap := Apertures.reset
  loadId := 0
  ver := 0
  token := none
  oldVer := 0
  left := 0
  recs := []
  kernels := Vector.replicate 4 Kernel.reset
  flights := []
  rim := []
  fill := []
  drain := none
  sealedN := 0
  drainedN := 0
  flags := 0
  nflags := 0
  stop := false
  commit := none
  preempted := false
  graphPre := false
  shadow := none
  origin := false
  outs := []
  settled := []
  tied := []
  tiedCmds := []
  flt := RegFlt.reset
  src := none
  ctxs := []
  quantumFrom := 0
  quantumLen := 64
  rotate := false
  pin := false

/-- A queued matrix instance (10 R322, R325, R330): schedule entry, progress P, entry number, the region's RND of its round, cycle it
became due, cycle it started and P then, and the flags it has raised. -/
structure MInst where
  entry : Word
  p : Nat
  num : Nat
  rnd : Nat
  due : Nat
  began : Option (Nat × Nat)
  flags : BitVec 5
  /-- The region and kernel in whose slot it became due (10 R324). -/
  rg : RegionIx := 0
  kern : Fin 4 := 0
deriving DecidableEq, Repr

/-- One matrix node (10): accumulators as sparse tables by 128 r + c, with poison marks; its queue, output positions and replay
record (R337): instances due in the round, how many of them this run of the round has met, and the same for the recorded
vectors, with both counts at the point a void returns to. -/
structure MNode where
  region : Option RegionIx
  act : Vector Word 16
  acc : Vector (Table W32) 4
  marks : Vector (List Nat) 4
  queue : List MInst
  opos : Vector Nat 16
  replay : Nat
  seen : Nat
  seen0 : Nat
  recorded : List VecVal
  rpos : Nat
  rpos0 : Nat
  lfsr : W32
  gang : Vector Nat 16
  doneCnt : W32
  /-- The cycle in which the last instance completed. -/
  lastDone : Nat
deriving DecidableEq, Repr

def MNode.reset : MNode where
  region := none
  act := Vector.replicate 16 0
  acc := Vector.replicate 4 []
  marks := Vector.replicate 4 []
  queue := []
  opos := Vector.replicate 16 0
  replay := 0
  seen := 0
  seen0 := 0
  recorded := []
  rpos := 0
  rpos0 := 0
  lfsr := 0
  gang := Vector.replicate 16 0
  doneCnt := 0
  lastDone := 0

/-- The fabric of a cluster. -/
structure Fabric where
  cells : Vector Cell 64
  regions : Vector Region 4
  ports : Vector Port 16
  agens : Vector Agen 8
  nodes : Vector MNode 12
deriving DecidableEq, Repr

def Fabric.reset : Fabric where
  cells := Vector.replicate 64 Cell.reset
  regions := Vector.replicate 4 Region.reset
  ports := Vector.replicate 16 Port.reset
  agens := Vector.replicate 8 Agen.reset
  nodes := Vector.replicate 12 MNode.reset

structure StepSeq where
  entries : Vector StepEntry 16
deriving DecidableEq, Repr
def StepSeq.reset : StepSeq := ⟨Vector.replicate 16 ⟨false, Vector.replicate 8 0, 0, 0⟩⟩

/-- A message in a receive queue: its four words, and the ring index it was read from where that atom was poisoned (11 R377). -/
structure InMsg where
  w : Vector Word 4
  bad : Option Nat
deriving DecidableEq, Repr

/-- One compute cluster. -/
structure Cluster where
  strands : Vector Strand 4
  /-- The strand that issued last (05 R166; log 4). -/
  last : StrandIx
  ap : Apertures
  /-- FPMODE, FPFLAGS, FPTRAPEN (06 R202, R206, R207). -/
  fpMode : Word
  fpFlags : Word
  fpTrapEn : Word
  quantum : BitVec 20
  prio : Word
  deferLimit : W32
  poisonEn : Bool
  poisonCount : W32
  spillBase : BitVec 46
  spillTrapEn : Bool
  spillUsed : Nat
  spillEntries : BitVec 20
  /-- Ring index of the oldest message in the ring (11 R377). -/
  spillHead : Nat
  snapUen : Bool
  snapCmen : Bool
  cmatch : BitVec 48
  buffer : List Pending
  /-- The receive queue, oldest first (11 R377). -/
  inbox : List InMsg
  banks : Vector BankCfg 32
  waits : List WaitEntry
  reqs : List Req
  nextTag : Nat
  /-- Signal operations that wait, oldest first (09 R319). -/
  signals : List Signal := []
  memNodes : Vector MemNode 24
  rimOwn : BitVec 24
  layout : BitVec 2
  eng : Engines
  fab : Fabric
  step : StepSeq
deriving DecidableEq, Repr

/-- Strand 0 begins at reset (05 R165), the others are IDLE (log 4). -/
def Cluster.reset : Cluster where
  strands := (Vector.replicate 4 Strand.reset).set 0 { Strand.reset with state := .run }
  last := 3
  ap := Apertures.reset
  fpMode := 0
  fpFlags := 0
  fpTrapEn := 0
  quantum := 64
  prio := 0
  deferLimit := 0x4000
  poisonEn := false
  poisonCount := 0
  spillBase := 0
  spillTrapEn := false
  spillUsed := 0
  spillEntries := 0
  spillHead := 0
  snapUen := false
  snapCmen := false
  cmatch := 0
  buffer := []
  inbox := []
  banks := Vector.replicate 32 BankCfg.reset
  waits := []
  reqs := []
  nextTag := 0
  memNodes := Vector.replicate 24 MemNode.reset
  rimOwn := 0x924924
  layout := 0
  eng := Engines.reset
  fab := Fabric.reset
  step := StepSeq.reset

/-- A cached leaf entry of a TLB slice (01 R34). -/
structure TlbEntry where
  slice : Nat
  set : Nat
  way : Nat
  part : PartId
  asid : BitVec 16
  level : Nat
  /-- VA >> (16 + 9 level). -/
  vpn : Nat
  entry : Word
deriving DecidableEq, Repr

/-- A cached non-leaf entry (01 R34): the entry read at this level for this index path. -/
structure WalkEntry where
  part : PartId
  asid : BitVec 16
  level : Nat
  vpn : Nat
  entry : Word
deriving DecidableEq, Repr

/-- An invalidation written and not yet complete (01 R36). -/
structure Inval where
  kind : BitVec 2
  asid : BitVec 16
  vpn : BitVec 36
deriving DecidableEq, Repr

/-- A record of the merge table (01 R41). -/
structure MergeRec where
  seq : Word
  asid : BitVec 16
  blk : BitVec 30
  aper : BitVec 3
  cause : BitVec 4
deriving DecidableEq, Repr

/-- One ingress window (13 R401, R403): the FIFO's tokens, oldest first. -/
structure Window where
  fifo : List (Vector Word 8)
  en : Bool
  die : DieId
  pmax : BitVec 2
  kmask : BitVec 4
  acc : W32
  bad : BitVec 16
  drop : BitVec 16
deriving DecidableEq, Repr

/-- The command state of a partition (17 R485). -/
inductive PartState where
  | off | setting | ready | resetting
deriving DecidableEq, Repr

/-- What a partition reset in progress ends in (17 R485): READY or OFF as the command says that asked for it, or READY after one that no command has
asked for, which leaves ERR as it is. -/
inductive AfterReset where
  | ready | off | kept
deriving DecidableEq, Repr

/-- What waits until a partition is in a settled state (17 R472, R485). -/
inductive HeldCmd where
  | pctl (v : Word)
  | functionReset
deriving DecidableEq, Repr

/-- A partition's blocks and its state (01, 03, 13, 14, 17). -/
structure Translation where
  fqEn : Bool
  fqLog2 : BitVec 5
  fqBase : BitVec 46
  fqTail : Word
  fqClose : Word
  fqHead : Word
  fqOvfCount : Word
  terr : Bool
  accErr : Bool
  qErr : Bool
  ovf : Bool
  merge : List MergeRec
  invals : List Inval
  accMode : BitVec 2
  accBase : BitVec 46
  accFirst : BitVec 30
  accBlocks : BitVec 24
  accSync : Bool
deriving DecidableEq, Repr

def Translation.reset : Translation where
  fqEn := false
  fqLog2 := 8
  fqBase := 0
  fqTail := 0
  fqClose := 0
  fqHead := 0
  fqOvfCount := 0
  terr := false
  accErr := false
  qErr := false
  ovf := false
  merge := []
  invals := []
  accMode := 0
  accBase := 0
  accFirst := 0
  accBlocks := 0
  accSync := false

/-- The memory block and the channel map (03). Pseudo-channels by global index. -/
structure MemBlock where
  ways : BitVec 16
  ceCnt : W32
  ueCnt : W32
  chSpare : BitVec 11
  chPcx : BitVec 11
  chErr : BitVec 3
  mapVer : BitVec 16
  retiring : Option (Nat × Nat)
  cmap : List Nat
  /-- Row-region pieces replaced by a spare (03 R114). -/
  pieces : Table Nat
  /-- The retirement table: PCX, SPARE, MAPVER (03 R118). -/
  retired : List (Nat × Nat × Nat)
deriving DecidableEq, Repr

def MemBlock.reset : MemBlock := ⟨0, 0, 0, 0, 0, 0, 0, none, [], [], []⟩

def Window.reset : Window := ⟨[], false, 0, 0, 0, 0, 0, 0⟩

/-- The dispatch block (13 R403, R408, R419, R421, 14 R453). -/
structure DispatchBlock where
  windows : Vector Window 64
  gtBase : BitVec 40
  gtSize : BitVec 17
  ctxBase : BitVec 28
  ctxCnt : BitVec 16
  /-- Context slots that hold an image (13 R421). -/
  ctxUsed : List Nat
  errInst : W32
  errGraph : BitVec 16
  errCount : BitVec 8
  errCause : BitVec 8
  wdEn : Bool
  wdAction : BitVec 2
  exp1 : Bool
  exp2 : Bool
  wdTcl : BitVec 7
  wdTstr : BitVec 2
  wdLimit : W32
  /-- The cycle of the last kick, or of the write that set EN (14 R454), and the stages that the count has reached since. -/
  wdFrom : Nat
  wdStage : Nat
deriving DecidableEq, Repr

def DispatchBlock.reset : DispatchBlock where
  windows := Vector.replicate 64 Window.reset
  gtBase := 0
  gtSize := 0
  ctxBase := 0
  ctxCnt := 0
  ctxUsed := []
  errInst := 0
  errGraph := 0
  errCount := 0
  errCause := 0
  wdEn := false
  wdAction := 0
  exp1 := false
  exp2 := false
  wdTcl := 0
  wdTstr := 0
  wdLimit := 0
  wdFrom := 0
  wdStage := 0

/-- The platform block (17 R475 to R490). -/
structure Platform where
  expEn : Bool
  expWr : Bool
  expSp : Bool
  expLimit : BitVec 36
  peerErr : W32
  ntfFull : Bool
  ntfBad : Bool
  ntfOff : BitVec 40
  snArm : Bool
  snFired : Bool
  snSrc : BitVec 2
  snPin : Bool
  snCluster : BitVec 7
  hwBase : Vector (BitVec 52) 4
  hwEn : Vector Bool 4
  hwLimit : Vector (BitVec 52) 4
  domMap : BitVec 4096
deriving DecidableEq, Repr

def Platform.reset : Platform where
  expEn := false
  expWr := false
  expSp := false
  expLimit := 0
  peerErr := 0
  ntfFull := false
  ntfBad := false
  ntfOff := 0
  snArm := false
  snFired := false
  snSrc := 0
  snPin := false
  snCluster := 0
  hwBase := Vector.replicate 4 0
  hwEn := Vector.replicate 4 false
  hwLimit := Vector.replicate 4 0
  domMap := 0

structure Partition where
  tr : Translation
  mb : MemBlock
  db : DispatchBlock
  pf : Platform
  /-- PCTL (17 R485). -/
  state : PartState
  err : BitVec 3
  pid : BitVec 12
  kpol : BitVec 2
  /-- Commands written while SETTING or RESETTING (17 R485), and resets asked for by its function meanwhile (R472), in order. -/
  heldCmds : List HeldCmd
  after : AfterReset
  key : Option (BitVec 512)
  /-- Measurement 16 + n (17 R488), and the sessions that reported it since the last SETUP (R489). -/
  measured : BitVec 384
  reported : List Nat
  /-- In D3hot (17 R493). -/
  d3hot : Bool
deriving DecidableEq, Repr

def Partition.reset : Partition where
  tr := Translation.reset
  mb := MemBlock.reset
  db := DispatchBlock.reset
  pf := Platform.reset
  state := .off
  err := 0
  pid := 0
  kpol := 0
  heldCmds := []
  after := .ready
  key := none
  measured := 0
  reported := []
  d3hot := false

/-- Where a token came from (13 R413). -/
inductive TokSource where
  | window (p : PartId) (w : WindowIx)
  | strand (c : ClusterId) (k : StrandIx)
deriving DecidableEq, Repr

/-- The life of an instance in its dispatcher (13 R412 to R418). -/
inductive InstState where
  | waiting | placed | loaded | running
deriving DecidableEq, Repr

/-- A graph instance: the copies bound (13 R410), its state, its placement and its control strand. -/
structure Instance where
  id : Nat
  part : PartId
  graph : BitVec 16
  token : Vector Word 8
  gentry : Vector Word 8
  vrec : Vector Word 8
  version : BitVec 16
  prio : BitVec 2
  src : TokSource
  /-- Order of binding (13 R412). -/
  order : Nat
  met : BitVec 2
  readySince : Option Nat
  state : InstState
  base : ClusterId
  strand : StrandIx
  /-- It is the oldest ready LAUNCH of its priority and has waited 2^20 cycles: younger ones wait for it (13 R415). -/
  blocked : Bool
  /-- A PREEMPT named it before its load was complete (13 R420). -/
  pre : Bool
  /-- Where its dependence words lie, as binding translated them: physical address, CACHE and ENC (13 R407, R410). -/
  watch : Vector (Option (Nat × Nat × Bool)) 2
  /-- A write was found to have set bit 63 of a dependence word, or poisoned its atom (13 R414). -/
  depFault : Bool
deriving DecidableEq, Repr

/-- A DATA token in a dispatcher queue (13 R406). -/
structure DataTok where
  token : Vector Word 8
  part : PartId
  prio : BitVec 2
  src : TokSource
  order : Nat
deriving DecidableEq, Repr

/-- A token at the hand of the dispatcher: taken from a window and not yet performed or queued (13 R402, R413). -/
structure HandTok where
  token : Vector Word 8
  part : PartId
  src : TokSource
  pmax : BitVec 2
  kmask : BitVec 4
  user : Bool
deriving DecidableEq, Repr

structure Die where
  tlb : List TlbEntry
  walk : List WalkEntry
  hand : Option HandTok
  insts : List Instance
  datas : List DataTok
  bindCount : BitVec 30
  /-- Where its dispatcher's rotation stands: the ingress window (partition * 64 + window) that it serves first (13 R402; log 127). -/
  winNext : Nat
deriving DecidableEq, Repr

def Die.reset : Die := ⟨[], [], none, [], [], 0, 0⟩

/-- A 128-byte line of a superblock (03 R90). -/
structure LlsLine where
  valid : Bool
  dirty : Bool
  data : BitVec 1024
  poison : BitVec 2
  /-- The key under which each atom is encrypted (03 R102). -/
  enc : Vector (Option (BitVec 512)) 2
deriving DecidableEq, Repr

/-- A superblock in the LLS (03 R90): slice 0 to 127, set, way, partition, pa >> 9, four lines. -/
structure LlsWay where
  slice : Nat
  set : Nat
  way : Nat
  part : PartId
  tag : Nat
  lines : Vector LlsLine 4
deriving DecidableEq, Repr

/-- LINKSTATp (17 R483). -/
structure Link where
  retry : W32
  lanes : BitVec 4
  state : BitVec 2
deriving DecidableEq, Repr

/-- A snapshot latch pending (17 R491): partitions reached (with source and cluster), the device block, the cycle it latches. -/
structure Latch where
  due : Nat
  parts : List (PartId × BitVec 2 × BitVec 7)
  device : Bool
deriving DecidableEq, Repr

/-- What the device answered to a host or peer request, oldest first (17): the outside's view. -/
inductive HostMsg where
  | readData (data : List Byte)
  | unsupported
  | completerAbort
  | msix (f : FuncIx) (vector : Nat)
  | atomicOld (v : Word)
  | peerData (src : Nat) (data : List Byte)
  | peerRefused (src : Nat)
  | peerDone (src : Nat)
  /-- A peer read met a poisoned atom. -/
  | peerPoison (src : Nat)
  | keyAccepted (n : PartId)
  | keyError (n : PartId)
  | measurement (index : Nat) (v : BitVec 384)
  /-- The signature of a report under the device identity key (17 R488). -/
  | signature (v : BitVec 768)
  | snapOut
deriving DecidableEq, Repr

/-- One turn of an agent: the model's schedule (log 2). -/
inductive Turn where
  /-- The core of a cluster issues one instruction, or takes a pending asynchronous cause (05 R166, 14 R426). -/
  | core (c : ClusterId)
  /-- A strand waiting under WaitFor.retry attempts its instruction again. -/
  | retry (c : ClusterId) (k : StrandIx)
  /-- A step of another agent. -/
  | event (i : Instr)
  /-- One cycle passes. -/
  | tick
  /-- A strand fetches n words ahead of its program counter (04 R126). -/
  | fetchAhead (c : ClusterId) (k : StrandIx) (n : Nat)
  /-- The host stores a byte in its own memory. -/
  | hostStore (addr : BitVec 48) (b : Byte)
  /-- A cached translation leaves by replacement: the n-th entry of a die's slices or walk cache (01 R35). -/
  | tlbDrop (die : DieId) (walkCache : Bool) (n : Nat)
  /-- A superblock is evicted: the n-th entry (03 R92). -/
  | evict (n : Nat)
  /-- The cells of a DRAM code word (storage key / 16) suffer an error, found when it is next read (03 R97). -/
  | dramError (word : Nat) (uncorrectable : Bool)
  /-- A line of the n-th superblock has an uncorrectable error (03 R97). -/
  | llsError (n : Nat) (line : Fin 4)
  /-- The host reads n bytes of BAR0 of a function, whatever their size and place (04 R137). -/
  | bar0Read (f : FuncIx) (off n : Nat)
  /-- The host writes bytes at an offset of BAR0 of a function (04 R137). -/
  | bar0Write (f : FuncIx) (off : Nat) (data : List Byte)
  /-- The host reads n bytes of BAR2 of a partition's function (13 R401, 17 R478). -/
  | bar2Read (p : PartId) (off n : Nat)
deriving DecidableEq, Repr

/-- The device. -/
structure Dev where
  clusters : Vector Cluster 72
  parts : Vector Partition 8
  dies : Vector Die 4
  /-- All bytes: HBM, scratchpads, memory nodes and host memory in disjoint key ranges (Mem.lean). -/
  mem : Memory
  /-- Poisoned 64-byte atoms, by storage key / 64. -/
  poison : List Nat
  /-- Encrypted DRAM atoms, by storage key / 64: the key they are encrypted under (03 R102; log 8). -/
  enc : Table (BitVec 512)
  /-- Full presence words, by storage key / 8 (02 R69). -/
  full : List Nat
  lls : List LlsWay
  /-- Tree pseudo-LRU bits by slice * 256 + set (03 R91). -/
  plru : Table (BitVec 15)
  /-- Latent DRAM errors by code word of 16 bytes, storage key / 16; true: uncorrectable (03 R97). -/
  dramErr : Table Bool
  /-- Postponed refreshes by bank index (03 R99). -/
  refresh : Table Nat
  reports : List Report
  /-- Armed monitors, oldest first, at most 16 of a cluster (09 R307). -/
  monitors : List Monitor
  links : Vector Link 12
  /-- Messages that have come in a good flit and whose request has not been performed yet: source member and sequence number (17 R481). -/
  received : List (Nat × Nat)
  /-- Requests from other devices that have been performed or refused: source member * 8 + target partition, and sequence number (17 R481). -/
  performed : List (Nat × Nat) := []
  /-- Maps of the device block (17 R484): cluster owners, channel groups, ways, row splits. -/
  cmapClusters : Vector (BitVec 4) 72
  groups : Vector (BitVec 8) 144
  pways : Vector (BitVec 16) 8
  psplit : Vector (BitVec 5) 12
  /-- ROWSPLIT of each stack (03 R86): OWNER, RETD, RSUB. -/
  splitOwner : Vector (BitVec 4) 12
  splitRetd : Vector Bool 12
  splitRsub : Vector (BitVec 5) 12
  /-- Owner of each channel group when it was last set up (17 R486 step 3). -/
  groupSet : Vector (BitVec 4) 144
  bootErr : BitVec 8
  /-- Bring-up phases done (17 R492), phase 1 at bit 0. -/
  phases : BitVec 5
  /-- Bring-up has begun since PERST# and has not stopped on a failed image (17 R488). -/
  running : Bool
  snaps : Table Word
  latch : Option Latch
  sent : List HostMsg
  stopped : Bool
  /-- Cycles since device reset (09 R295). -/
  now : Nat
  /-- The counter behind free values (log 6): the model's own field. -/
  free : Nat
  /-- Bytes of scratchpads, by storage key, that an access of another cluster or from outside has written in this cycle: such a write is performed
  last (02 R64; log 103). The model's own field. -/
  remoteNow : List Nat := []
  /-- A request of the turn met a map fence (03 R114): step withdraws what the turn did. The model's own field, false between turns. -/
  fenceMet : Bool := false
  /-- Accesses from outside that a map fence holds, oldest first (03 R115). -/
  held : List Turn := []
  /-- The next sequence number of outgoing requests, by issuing partition * 4096 + target (17 R481; log 34). -/
  seqs : Table Nat := []
  /-- Writes of PCTL before bring-up phase 2 ended, in the order of their arrival (17 R485, R492). -/
  heldPctl : List (PartId × Word) := []
  /-- FLOADs that have been issued and wait, in issue order (09 R311). -/
  loadQ : List LoadTurn := []
  /-- Increments of access counters for the reads of this turn, which follow them (01 R46; log 17). The model's own field, empty
  between turns. -/
  counts : List Count := []
deriving DecidableEq, Repr

def Link.reset : Link := ⟨0, 0, 0⟩

def Dev.reset : Dev where
  clusters := Vector.replicate 72 Cluster.reset
  parts := Vector.replicate 8 Partition.reset
  dies := Vector.replicate 4 Die.reset
  mem := []
  poison := []
  enc := []
  full := []
  lls := []
  plru := []
  dramErr := []
  refresh := []
  reports := []
  monitors := []
  links := Vector.replicate 12 Link.reset
  received := []
  cmapClusters := Vector.replicate 72 0xF
  groups := Vector.replicate 144 0x0F
  pways := Vector.replicate 8 0
  psplit := Vector.replicate 12 0
  splitOwner := Vector.replicate 12 0xF
  splitRetd := Vector.replicate 12 false
  splitRsub := Vector.replicate 12 0
  groupSet := Vector.replicate 144 0xF
  bootErr := 0
  phases := 0
  running := true
  snaps := []
  latch := none
  sent := []
  stopped := false
  now := 0
  free := 0

/-- The machine. -/
structure State where
  dev : Dev
  /-- The agents that move next, first first; when it is empty one whole cycle of turns is laid out (log 2). -/
  turns : List Turn
  /-- The strand whose instruction exec runs. -/
  curC : ClusterId
  curK : StrandIx
deriving DecidableEq, Repr

/-- Right after reset (17 R492; logs 3, 4). -/
def State.reset : State := ⟨Dev.reset, [], 0, 0⟩

end Sys2Proof.Machine
end

