-- ==== Sys2Proof/Machine/Mem.lean ====
section
/-! DEFINITION. Named operations over tables, sets, vectors and memory, and the storage keys under which Dev.mem holds HBM,
scratchpads, memory nodes and host memory. -/

namespace Sys2Proof.Machine

/-- The entry of a table at a key. -/
def tget {α : Type} : Table α → Nat → Option α
  | [], _ => none
  | (k, v) :: t, i => if k = i then some v else tget t i

/-- Set the entry of a table at a key, keys rising. -/
def tset {α : Type} : Table α → Nat → α → Table α
  | [], i, x => [(i, x)]
  | (k, v) :: t, i, x => if i < k then (i, x) :: (k, v) :: t else if i = k then (i, x) :: t else (k, v) :: tset t i x

/-- Remove the entry of a table at a key. -/
def terase {α : Type} : Table α → Nat → Table α
  | [], _ => []
  | (k, v) :: t, i => if k = i then t else (k, v) :: terase t i

/-- Set or remove the entry of a table at a key. -/
def tput {α : Type} (t : Table α) (i : Nat) : Option α → Table α
  | some x => tset t i x
  | none => terase t i

/-- Membership in a rising list. -/
def smem : List Nat → Nat → Bool
  | [], _ => false
  | k :: t, i => k = i || smem t i

/-- Insert into a rising list. -/
def sins : List Nat → Nat → List Nat
  | [], i => [i]
  | k :: t, i => if i < k then i :: k :: t else if i = k then k :: t else k :: sins t i

/-- Remove from a rising list. -/
def sdel : List Nat → Nat → List Nat
  | [], _ => []
  | k :: t, i => if k = i then t else k :: sdel t i

/-- Insert or remove. -/
def sput (l : List Nat) (i : Nat) (b : Bool) : List Nat := if b then sins l i else sdel l i

/-- Element i of a vector. -/
def vget {α : Type} {n : Nat} (v : Vector α n) (i : Fin n) : α := v[i.val]'i.isLt
/-- Replace element i. -/
def vset {α : Type} {n : Nat} (v : Vector α n) (i : Fin n) (x : α) : Vector α n := v.set i.val x i.isLt
/-- Change element i. -/
def vmod {α : Type} {n : Nat} (v : Vector α n) (i : Fin n) (f : α → α) : Vector α n := vset v i (f (vget v i))

/-- Element i by number, with a default. -/
def vgetD {α : Type} {n : Nat} (v : Vector α n) (i : Nat) (x : α) : α := if h : i < n then v[i]'h else x
/-- Replace element i by number; out of range changes nothing. -/
def vsetD {α : Type} {n : Nat} (v : Vector α n) (i : Nat) (x : α) : Vector α n := if h : i < n then v.set i x h else v

/-- Bit field [hi:lo] of a number. -/
def bits (x hi lo : Nat) : Nat := x / 2 ^ lo % 2 ^ (hi + 1 - lo)
/-- Bit i of a number. -/
def bit (x i : Nat) : Bool := x / 2 ^ i % 2 = 1
/-- A Bool as a number. -/
def b2n (b : Bool) : Nat := if b then 1 else 0

/-- The low n bytes of a number, least significant first (00 R4). -/
def leBytes : Nat → Nat → List Byte
  | 0, _ => []
  | n + 1, v => BitVec.ofNat 8 v :: leBytes n (v / 256)

/-- The number that bytes hold, least significant first (00 R4). -/
def leNat : List Byte → Nat
  | [] => 0
  | b :: t => b.toNat + 256 * leNat t

/-- Bytes as words of eight. -/
def leWord (l : List Byte) : Word := BitVec.ofNat 64 (leNat l)

/-- One byte of memory; an unlisted address reads as 0 (log 5). -/
def memRead : Memory → Nat → Byte
  | [], _ => 0
  | (k, b) :: t, a => if k = a then b else memRead t a

/-- Store one byte, keeping the canonical form: a zero removes the entry. -/
def memWrite : Memory → Nat → Byte → Memory
  | [], a, x => if x = 0 then [] else [(a, x)]
  | (k, b) :: t, a, x =>
    if a < k then (if x = 0 then (k, b) :: t else (a, x) :: (k, b) :: t)
    else if a = k then (if x = 0 then t else (a, x) :: t)
    else (k, b) :: memWrite t a x

/-- n bytes from address a. -/
def memReadN (m : Memory) : Nat → Nat → List Byte
  | _, 0 => []
  | a, n + 1 => memRead m a :: memReadN m (a + 1) n

/-- Store bytes from address a on. -/
def memWriteN (m : Memory) (a : Nat) : List Byte → Memory
  | [] => m
  | x :: t => memWriteN (memWrite m a x) (a + 1) t

/-- Store single bytes. -/
def memWriteCells (m : Memory) (cs : List Host.Cell) : Memory := cs.foldl (fun m c => memWrite m c.1 c.2) m

/-- The canonical form: addresses strictly rising, no zero byte listed. -/
def memWfFrom : Nat → Memory → Bool
  | _, [] => true
  | lo, (k, b) :: t => decide (lo ≤ k) && decide (b ≠ 0) && memWfFrom (k + 1) t

/-- Memory is in its canonical form. -/
def Memory.wf (m : Memory) : Bool := memWfFrom 0 m

/-- Storage key of a DRAM byte: global pseudo-channel, bank, row, byte of the row (03 R85). -/
def dramKey (pcx bank row byte : Nat) : Nat := ((pcx * 64 + bank) * 8192 + row) * 1024 + byte
/-- Storage key of a scratchpad byte: cluster, physical bank, line, byte (02 R63). -/
def scratchKey (c bank line byte : Nat) : Nat := 2 ^ 50 + ((c * 32 + bank) * 6144 + line) * 64 + byte
/-- Storage key of a memory-node byte (02 R59): 256 KiB for each node. -/
def nodeKey (c n off : Nat) : Nat := 2 ^ 51 + (c * 24 + n) * 2 ^ 18 + off
/-- Storage key of a byte of host memory (01 R26, class 2). -/
def hostKey (a : Nat) : Nat := 2 ^ 52 + a

/-- Remove every key of a range from a rising list. -/
def sdelRange (l : List Nat) (lo hi : Nat) : List Nat := l.filter (fun k => decide (k < lo) || decide (hi ≤ k))
/-- Zero a range of memory. -/
def memZeroRange (m : Memory) (lo hi : Nat) : Memory := m.filter (fun c => decide (c.1 < lo) || decide (hi ≤ c.1))

/-- The cluster with its state. -/
def Dev.cl (d : Dev) (c : ClusterId) : Cluster := vget d.clusters c
def Dev.setCl (d : Dev) (c : ClusterId) (x : Cluster) : Dev := { d with clusters := vset d.clusters c x }
def Dev.modCl (d : Dev) (c : ClusterId) (f : Cluster → Cluster) : Dev := d.setCl c (f (d.cl c))
def Dev.strand (d : Dev) (c : ClusterId) (k : StrandIx) : Strand := vget (d.cl c).strands k
def Dev.setStrand (d : Dev) (c : ClusterId) (k : StrandIx) (x : Strand) : Dev :=
  d.modCl c (fun cl => { cl with strands := vset cl.strands k x })
def Dev.modStrand (d : Dev) (c : ClusterId) (k : StrandIx) (f : Strand → Strand) : Dev := d.setStrand c k (f (d.strand c k))
def Dev.part (d : Dev) (p : PartId) : Partition := vget d.parts p
def Dev.setPart (d : Dev) (p : PartId) (x : Partition) : Dev := { d with parts := vset d.parts p x }
def Dev.modPart (d : Dev) (p : PartId) (f : Partition → Partition) : Dev := d.setPart p (f (d.part p))
def Dev.die (d : Dev) (i : DieId) : Die := vget d.dies i
def Dev.modDie (d : Dev) (i : DieId) (f : Die → Die) : Dev := { d with dies := vset d.dies i (f (d.die i)) }
def Dev.modTr (d : Dev) (p : PartId) (f : Translation → Translation) : Dev := d.modPart p (fun x => { x with tr := f x.tr })
def Dev.modMb (d : Dev) (p : PartId) (f : MemBlock → MemBlock) : Dev := d.modPart p (fun x => { x with mb := f x.mb })
def Dev.modDb (d : Dev) (p : PartId) (f : DispatchBlock → DispatchBlock) : Dev := d.modPart p (fun x => { x with db := f x.db })
def Dev.modPf (d : Dev) (p : PartId) (f : Platform → Platform) : Dev := d.modPart p (fun x => { x with pf := f x.pf })

/-- The partition that owns a cluster (17 R484). -/
def Dev.partOf (d : Dev) (c : ClusterId) : Option PartId :=
  let v := (vget d.cmapClusters c).toNat
  if h : v < 8 then some ⟨v, h⟩ else none

/-- A cluster by number. -/
def clusterNo (n : Nat) : Option ClusterId := if h : n < 72 then some ⟨n, h⟩ else none
/-- The die of a cluster (00 R3). -/
def dieOf (c : ClusterId) : DieId := ⟨c.val / 18, by omega⟩

/-- A saturating count. -/
def satAdd (x : W32) (n : Nat) : W32 := BitVec.ofNat 32 (Nat.min (x.toNat + n) 0xFFFFFFFF)

/-- A write or presence change was performed on a 64-byte granule: every armed monitor on it, but the writer's own, triggers
(09 R307). -/
def Dev.notify (d : Dev) (by_ : Option (ClusterId × StrandIx)) (granule : Nat) : Dev :=
  { d with monitors := d.monitors.map fun m =>
      if m.granule = granule && by_ != some (m.c, m.k) then { m with triggered := true } else m }

end Sys2Proof.Machine
end

