-- ==== Sys2Proof/Machine/CellWord.lean ====
section
/-! DEFINITION. Cell control words: their fields (07 R218 to R221), the opcode map and field classes (R226 to R229), latencies
(08 R253) and the static checks of one word. -/

namespace Sys2Proof.Machine

/-- The 86 cell operations (07 R226). -/
inductive CellOp where
  | nop | iadd | isub | imul | imulh | imad | imin | imax | iabs | ineg | isad | icmp
  | shl | shr | sha | rotl | fshl | fshr | bfx | bfi | and | or | andn | not | bperm | brev | xor
  | clz | ctz | ffs | popc
  | fadd | fsub | fmul | ffma | ffms | fnma | fmin | fmax | fminn | fmaxn | fabs | fcmp | fclass | frint | fscal | fexpo | fmant | fneg
  | exp2 | log2 | rcp | rcpa | rsq | rsqa | sqrt | sigm | tanh
  | cvtff | cvtfi | cvtif | cvtii | cvtmx | pack | unpk | lswz | lrot | lred | lscan | lbc
  | mov | movk | sel | vpred | pand | por | pxor | pnot | pset | pmov
  | send | steer | cmpct | expnd | exit | rmark
deriving DecidableEq, Repr

/-- The value of OP and its operation (07 R226). -/
def cellOpMap : List (Nat × CellOp) :=
  [(0x00, .nop), (0x01, .iadd), (0x02, .isub), (0x03, .imul), (0x04, .imulh), (0x05, .imad), (0x06, .imin), (0x07, .imax),
   (0x08, .iabs), (0x09, .ineg), (0x0A, .isad), (0x0B, .icmp), (0x10, .shl), (0x11, .shr), (0x12, .sha), (0x13, .rotl),
   (0x14, .fshl), (0x15, .fshr), (0x16, .bfx), (0x17, .bfi), (0x18, .and), (0x19, .or), (0x1A, .andn), (0x1B, .not),
   (0x1C, .bperm), (0x1D, .brev), (0x1E, .xor), (0x20, .clz), (0x21, .ctz), (0x22, .ffs), (0x23, .popc)] ++
  [(0x28, .fadd), (0x29, .fsub), (0x2A, .fmul), (0x2B, .ffma), (0x2C, .ffms), (0x2D, .fnma), (0x2E, .fmin), (0x2F, .fmax),
   (0x30, .fminn), (0x31, .fmaxn), (0x32, .fabs), (0x33, .fcmp), (0x34, .fclass), (0x35, .frint), (0x36, .fscal),
   (0x37, .fexpo), (0x38, .fmant), (0x39, .fneg), (0x40, .exp2), (0x41, .log2), (0x42, .rcp), (0x43, .rcpa), (0x44, .rsq),
   (0x45, .rsqa), (0x46, .sqrt), (0x47, .sigm), (0x48, .tanh)] ++
  [(0x50, .cvtff), (0x51, .cvtfi), (0x52, .cvtif), (0x53, .cvtii), (0x54, .cvtmx), (0x55, .pack), (0x56, .unpk),
   (0x58, .lswz), (0x59, .lrot), (0x5A, .lred), (0x5B, .lscan), (0x5C, .lbc), (0x60, .mov), (0x61, .movk), (0x62, .sel),
   (0x63, .vpred), (0x68, .pand), (0x69, .por), (0x6A, .pxor), (0x6B, .pnot), (0x6C, .pset), (0x6D, .pmov), (0x70, .send),
   (0x71, .steer), (0x72, .cmpct), (0x73, .expnd), (0x74, .exit), (0x75, .rmark)]

/-- The operation of an OP value (07 R226). -/
def cellOpOf (op : Nat) : Option CellOp := tget cellOpMap op

/-- A control word, fields pulled apart (07 R218, R221). -/
structure CellWord where
  op : CellOp
  fmt : Nat
  dst : Nat
  sa : Nat
  sb : Nat
  pneg : Bool
  pidx : Nat
  route : Nat
  mod : Nat
deriving DecidableEq, Repr

/-- Pull the fields of a control word apart; none: an unassigned OP. -/
def cellWord (w : BitVec 40) : Option CellWord :=
  let x := w.toNat
  (cellOpOf (bits x 39 33)).map fun op =>
    ⟨op, bits x 32 30, bits x 29 24, bits x 23 18, bits x 17 12, bit x 11, bits x 10 7, bits x 6 4, bits x 3 0⟩

def CellWord.nop : CellWord := ⟨.nop, 0, 0, 0, 0, false, 0, 0, 0⟩

/-- Bytes of an element of a format (07 R218). -/
def fmtB (fmt : Nat) : Nat := if fmt = 0 || fmt = 3 then 4 else if fmt = 1 || fmt = 4 || fmt = 5 then 2 else 1

/-- Field classes (07 R227). -/
inductive FieldClass where
  | v | c | p | x | q | t | z
deriving DecidableEq, Repr

/-- The classes of DST, SA and SB (07 R227). -/
def CellOp.fields : CellOp → FieldClass × FieldClass × FieldClass
  | .nop | .send => (.z, .x, .z)
  | .iadd | .isub | .imul | .imulh | .imin | .imax | .shl | .shr | .sha | .rotl | .bfx | .and | .or | .xor | .andn | .bperm
  | .fadd | .fsub | .fmul | .fmin | .fmax | .fminn | .fmaxn | .fscal | .pack | .lswz | .lrot | .sel => (.v, .x, .x)
  | .imad | .isad | .fshl | .fshr | .bfi | .ffma | .ffms | .fnma => (.c, .x, .x)
  | .icmp | .fcmp => (.p, .x, .x)
  | .iabs | .ineg | .not | .brev | .clz | .ctz | .ffs | .popc | .frint | .fexpo | .fmant | .fabs | .fneg | .fclass
  | .exp2 | .log2 | .rcp | .rcpa | .rsq | .rsqa | .sqrt | .sigm | .tanh | .unpk | .lred | .lscan | .lbc | .mov | .cmpct
  | .expnd | .steer => (.v, .x, .z)
  | .cvtff | .cvtfi | .cvtif | .cvtii | .cvtmx => (.v, .x, .t)
  | .movk => (.v, .z, .z)
  | .vpred => (.p, .x, .z)
  | .pand | .por | .pxor => (.p, .q, .q)
  | .pnot | .pmov => (.p, .q, .z)
  | .pset => (.p, .z, .z)
  | .exit | .rmark => (.z, .z, .z)

/-- The result can be routed (07 R227). -/
def CellOp.routable : CellOp → Bool
  | .nop | .icmp | .fcmp | .cvtmx | .vpred | .pand | .por | .pxor | .pnot | .pmov | .pset | .send | .exit | .rmark => false
  | _ => true

/-- A predicate-writing operation (07 R220). -/
def CellOp.predWriter (o : CellOp) : Bool := o.fields.1 == .p

/-- FMT is in the operation's set (07 R227, R229). -/
def CellOp.fmtOk (o : CellOp) (f : Nat) : Bool :=
  match o with
  | .nop | .exit | .rmark => f = 0
  | .iadd | .isub | .imul | .imulh | .imin | .imax | .imad | .isad | .iabs | .ineg | .icmp
  | .shl | .shr | .sha | .rotl | .bfx | .and | .or | .xor | .andn | .bperm | .fshl | .fshr | .bfi
  | .not | .brev | .clz | .ctz | .ffs | .popc | .cvtif | .cvtii => f ≤ 2
  | .fadd | .fsub | .fmul | .fmin | .fmax | .fminn | .fmaxn | .fscal | .ffma | .ffms | .fnma | .frint | .fexpo | .fmant
  | .exp2 | .log2 | .rcp | .rcpa | .rsq | .rsqa | .sqrt | .sigm | .tanh => 3 ≤ f && f ≤ 5
  | .fabs | .fneg | .fclass | .fcmp | .cvtff | .cvtfi => 3 ≤ f
  | .cvtmx => f = 3
  | .pack | .unpk | .lswz | .lrot | .lred | .lscan | .lbc | .mov | .cmpct | .expnd | .movk | .sel | .vpred | .pand | .por
  | .pxor | .pnot | .pmov | .pset | .send | .steer => true

/-- The operations whose MOD is a rounding mode and SAT (07 R228): they step the stochastic-rounding register under SR. -/
def CellOp.rounds : CellOp → Bool
  | .fadd | .fsub | .fmul | .ffma | .ffms | .fnma | .fmin | .fmax | .fminn | .fmaxn | .fabs | .fneg | .frint | .fscal | .fexpo
  | .fmant | .rcp | .rsq | .sqrt | .exp2 | .log2 | .sigm | .tanh | .cvtff | .cvtfi | .cvtif | .cvtmx => true
  | _ => false

/-- The special functions (08 R254, R271). -/
def CellOp.special : CellOp → Bool
  | .exp2 | .log2 | .rcp | .rcpa | .rsq | .rsqa | .sqrt | .sigm | .tanh => true
  | _ => false

/-- MOD is assigned (07 R228, 08 R260 to R291). -/
def CellOp.modOk (o : CellOp) (f m : Nat) : Bool :=
  match o with
  | .iadd | .isub | .imul | .imad | .isad | .cvtii => bits m 2 1 = 0
  | .imulh | .imin | .imax | .bfx | .movk | .vpred | .send | .cmpct | .expnd => m ≤ 1
  | .iabs | .ineg => m % 8 = 0
  | .icmp => m ≤ 9
  | .exp2 | .log2 | .sigm | .tanh => m % 8 = 0
  | .fadd | .fsub | .fmul | .ffma | .ffms | .fnma | .fmin | .fmax | .fminn | .fmaxn | .fabs | .fneg | .frint | .fscal | .fexpo
  | .fmant | .rcp | .rsq | .sqrt | .cvtff | .cvtfi | .cvtif => m % 8 != 7
  | .cvtmx => m ≤ 6
  | .fcmp => true
  | .pack => m ≤ 2
  | .unpk => (m % 4 = 0 && m / 4 ≤ 1) || m % 4 = 1
  | .lrot => m ≤ 3
  | .lred => m ≤ 2
  | .lscan => m < 4 / fmtB f
  | .lbc => m < 32 / fmtB f
  | .nop | .shl | .shr | .sha | .rotl | .fshl | .fshr | .bfi | .and | .or | .andn | .not | .bperm | .brev | .xor
  | .clz | .ctz | .ffs | .popc | .fclass | .rcpa | .rsqa | .lswz | .mov | .sel | .pand | .por | .pxor | .pnot | .pset | .pmov
  | .steer | .exit | .rmark => m = 0

/-- The target code of a conversion is allowed (07 R229). -/
def CellOp.targetOk (o : CellOp) (t : Nat) : Bool :=
  match o with
  | .cvtff | .cvtif => 3 ≤ t && t ≤ 7
  | .cvtfi => t ≤ 2
  | .cvtii => t ≤ 2 || t = 9
  | .cvtmx => 6 ≤ t && t ≤ 8
  | _ => true

/-- The register group fields of CVTMX (07 R229). -/
def mxRegsOk (dst sa : Nat) : Bool :=
  sa % 4 = 0 && (sa ≤ 12 || (16 ≤ sa && sa ≤ 52)) && dst % 2 = 0 && (dst ≤ 14 || (16 ≤ dst && dst ≤ 54))

/-- One word obeys R226 to R229 as far as its own bits show. -/
def CellWord.ok (x : CellWord) : Bool :=
  let field := fun (k : FieldClass) (v : Nat) => match k with
    | .z => decide (v = 0)
    | .p => 1 ≤ v && v ≤ 7
    | .q => v ≤ 15
    | .t => v ≤ 15 && x.op.targetOk v
    | _ => true
  let (cd, ca, cb) := x.op.fields
  field cd x.dst && field ca x.sa && field cb x.sb && x.op.fmtOk x.fmt && x.op.modOk x.fmt x.mod &&
    (x.op != .cvtmx || mxRegsOk x.dst x.sa)

/-- Latency (08 R253); 0: acts in its issue cycle and writes nothing. -/
def CellOp.latency : CellOp → Nat
  | .isad | .bperm | .fmin | .fmax | .fminn | .fmaxn | .fabs | .fneg | .fcmp | .fclass | .cmpct | .expnd => 2
  | .imul | .imulh | .imad | .frint | .fscal | .fexpo | .fmant | .cvtff | .cvtfi | .cvtif | .cvtii => 3
  | .fadd | .fsub | .fmul | .ffma | .ffms | .fnma | .rcpa | .rsqa | .cvtmx => 4
  | .lred => 6
  | .lscan => 7
  | .exp2 | .log2 | .sigm | .tanh => 8
  | .rcp | .rsq | .sqrt => 10
  | .send | .exit | .rmark => 0
  | _ => 1

/-- Source operands read as vectors, as field values (07 R219, R220): the three operands' source codes. -/
def CellWord.sources (x : CellWord) : List Nat :=
  let (cd, ca, cb) := x.op.fields
  (if ca == .x then (if x.op = .cvtmx then [x.sa, x.sa + 1, x.sa + 2, x.sa + 3] else [x.sa]) else []) ++
  (if cb == .x then [x.sb] else []) ++ (if cd == .c then [x.dst] else [])

/-- Registers written, as field values. -/
def CellWord.dests (x : CellWord) : List Nat :=
  let cd := x.op.fields.1
  if cd == .v || cd == .c then (if x.op = .cvtmx then [x.dst, x.dst + 1] else if x.dst ≤ 55 then [x.dst] else []) else []

end Sys2Proof.Machine
end

