-- ==== Sys2Proof/Machine/Float.lean ====
section
/-! DEFINITION. Number formats and rounding (06 R194 to R201, R204, R205): exact dyadic values, RoundTo, and the arithmetic of
the formats. -/

namespace Sys2Proof.Machine

/-- Floating-point formats (06 R194). -/
inductive Fmt where
  | f32 | f16 | bf16 | e4m3 | e5m2 | e2m1
deriving DecidableEq, Repr

/-- The floating-point format of an element format code (07 R218). -/
def inFmt (c : Nat) : Fmt := if c = 3 then .f32 else if c = 4 then .bf16 else if c = 5 then .f16 else if c = 6 then .e4m3 else .e5m2

/-- Widths of the whole, of the fraction, and the bias. -/
def Fmt.width : Fmt → Nat
  | .f32 => 32 | .f16 => 16 | .bf16 => 16 | .e4m3 => 8 | .e5m2 => 8 | .e2m1 => 4
def Fmt.frac : Fmt → Nat
  | .f32 => 23 | .f16 => 10 | .bf16 => 7 | .e4m3 => 3 | .e5m2 => 2 | .e2m1 => 1
def Fmt.expBits (f : Fmt) : Nat := f.width - 1 - f.frac
def Fmt.bias : Fmt → Nat
  | .f32 => 127 | .f16 => 15 | .bf16 => 127 | .e4m3 => 7 | .e5m2 => 15 | .e2m1 => 1
/-- The largest exponent field of a finite value, and the pattern of the largest finite value, sign clear. -/
def Fmt.maxFinite : Fmt → Nat
  | .f32 => 0x7F7FFFFF | .f16 => 0x7BFF | .bf16 => 0x7F7F | .e4m3 => 0x7E | .e5m2 => 0x7B | .e2m1 => 0x7
/-- Canonical NaN; E2M1 has none and takes 0. -/
def Fmt.nan : Fmt → Nat
  | .f32 => 0x7FC00000 | .f16 => 0x7E00 | .bf16 => 0x7FC0 | .e4m3 => 0x7F | .e5m2 => 0x7E | .e2m1 => 0
def Fmt.hasInf : Fmt → Bool
  | .e4m3 => false | .e2m1 => false | _ => true
/-- Pattern of +infinity. -/
def Fmt.inf (f : Fmt) : Nat := (2 ^ f.expBits - 1) * 2 ^ f.frac
/-- Sign bit weight. -/
def Fmt.sign (f : Fmt) : Nat := 2 ^ (f.width - 1)

/-- A value: NaN, an infinity, or (-1)^neg * m * 2^e. -/
inductive FV where
  | nan
  | inf (neg : Bool)
  | num (neg : Bool) (m : Nat) (e : Int)
deriving DecidableEq, Repr

/-- The value of a pattern (06 R194). -/
def Fmt.decode (f : Fmt) (x : Nat) : FV :=
  let s := bit x (f.width - 1)
  let ex := bits x (f.width - 2) f.frac
  let fr := x % 2 ^ f.frac
  let top := 2 ^ f.expBits - 1
  if f.hasInf && ex = top then (if fr = 0 then .inf s else .nan)
  else if f = .e4m3 && ex = 15 && fr = 7 then .nan
  else if ex = 0 then .num s fr (1 - (f.bias : Int) - f.frac)
  else .num s (2 ^ f.frac + fr) ((ex : Int) - f.bias - f.frac)

/-- Is the pattern a subnormal? -/
def Fmt.subnormal (f : Fmt) (x : Nat) : Bool := bits x (f.width - 2) f.frac = 0 && x % 2 ^ f.frac != 0

/-- The value read with FTZ: a subnormal operand is the zero of its sign (06 R201). -/
def Fmt.read (f : Fmt) (ftz : Bool) (x : Nat) : FV :=
  if ftz && f.subnormal x then .num (bit x (f.width - 1)) 0 0 else f.decode x

/-- Bits needed for a number. -/
def bitLen (n : Nat) : Nat := if n = 0 then 0 else Nat.log2 n + 1

/-- Flags of 06 R205: NV, DZ, OF, UF, NX at bits 0 to 4. -/
abbrev Flags := BitVec 5
def flagNV : Flags := 1
def flagDZ : Flags := 2
def flagOF : Flags := 4
def flagUF : Flags := 8
def flagNX : Flags := 16

/-- Round m * 2^e (plus something below the last bit where sticky) to a multiple of 2^q: the multiple, and inexactness
(06 R197, R204). -/
def roundAt (mode : Nat) (draw : W32) (neg : Bool) (m : Nat) (e q : Int) (sticky : Bool) : Nat × Bool :=
  if q ≤ e then (m * 2 ^ (e - q).toNat + (if sticky && ((mode = 2 && !neg) || (mode = 3 && neg)) then 1 else 0), sticky)
  else
    let sh := (q - e).toNat
    let t := m / 2 ^ sh
    let r := m % 2 ^ sh
    let inex := r != 0 || sticky
    let half := 2 ^ (sh - 1)
    let up :=
      if !inex then false
      else if mode = 0 then decide (half < r) || (r = half && (sticky || t % 2 = 1))
      else if mode = 1 then false
      else if mode = 2 then !neg
      else if mode = 3 then neg
      else if mode = 4 then decide (half ≤ r)
      else decide (draw.toNat / 256 < 2 ^ 24 * r / 2 ^ sh)
    (if up then t + 1 else t, inex)

/-- The sign of a zero sum whose terms have these signs (06 R200). -/
def zeroSign (mode : Nat) (n1 n2 : Bool) : Bool := if n1 = n2 then n1 else mode = 3

/-- RoundTo (06 R197, R198, R201, R205): pattern and flags of (-1)^neg * m * 2^e, plus something smaller where sticky. -/
def Fmt.round (f : Fmt) (mode : Nat) (sat ftz : Bool) (draw : W32) (neg : Bool) (m : Nat) (e : Int) (sticky : Bool) : Nat × Flags :=
  let sg := if neg then f.sign else 0
  if m = 0 && !sticky then (sg, 0)
  else
    let lead : Int := (bitLen m : Int) - 1 + e
    let emin : Int := 1 - f.bias
    let qu := lead - f.frac
    let q := max qu (emin - f.frac)
    let (tu, _) := roundAt mode draw neg m e qu sticky
    -- tiny after rounding with unbounded exponent: tu * 2^qu below 2^emin
    let tiny := decide ((bitLen tu : Int) + qu ≤ emin)
    let (t, inex) := roundAt mode draw neg m e q sticky
    if tiny && ftz then (sg, flagUF ||| flagNX)
    else
      -- t * 2^q with t below 2^(frac+1), or 2^(frac+1) after a carry
      let (t, q) := if t = 2 ^ (f.frac + 1) then (2 ^ f.frac, q + 1) else (t, q)
      let expo : Int := q + f.frac + f.bias
      let pat := if t < 2 ^ f.frac then (t : Int) else expo * 2 ^ f.frac + (t - 2 ^ f.frac : Nat)
      if (f.maxFinite : Int) < pat then
        let big := sg + f.maxFinite
        let infp := sg + f.inf
        let res :=
          if sat then big
          else match f with
            | .e4m3 => f.nan
            | .e2m1 => big
            | _ =>
              if mode = 1 then big
              else if mode = 2 then (if neg then big else infp)
              else if mode = 3 then (if neg then infp else big)
              else infp
        (res, flagOF ||| flagNX)
      else
        (sg + pat.toNat, (if tiny && inex then flagUF else 0) ||| (if inex then flagNX else 0))

/-- The pattern of a NaN or infinity converted to a format (06 R198): an infinity that the format lacks is the overflow of it. -/
def Fmt.special (f : Fmt) (sat : Bool) (v : FV) : Nat :=
  match v with
  | .nan => f.nan
  | .inf n =>
    if f = .e4m3 && !sat then f.nan
    else (if n then f.sign else 0) + (if sat || !f.hasInf then f.maxFinite else f.inf)
  | .num _ _ _ => 0

/-- How results are rounded: mode, SAT, FTZ, and the draw of 06 R204. -/
structure Rnd where
  mode : Nat
  sat : Bool
  ftz : Bool
  draw : W32
deriving DecidableEq, Repr

/-- RoundTo of an exact sum of two dyadic numbers (06 R200). -/
def Fmt.roundSum (f : Fmt) (r : Rnd) (n1 : Bool) (m1 : Nat) (e1 : Int) (n2 : Bool) (m2 : Nat) (e2 : Int) : Nat × Flags :=
  let e0 := min e1 e2
  let a : Int := (m1 : Int) * 2 ^ (e1 - e0).toNat
  let b : Int := (m2 : Int) * 2 ^ (e2 - e0).toNat
  let s := (if n1 then -a else a) + (if n2 then -b else b)
  if s = 0 then
    let neg := if m1 = 0 && m2 = 0 then zeroSign r.mode n1 n2 else decide (r.mode = 3)
    ((if neg then f.sign else 0), 0)
  else f.round r.mode r.sat r.ftz r.draw (decide (s < 0)) s.natAbs e0 false

/-- The negation of a value. -/
def FV.neg : FV → FV
  | .nan => .nan
  | .inf n => .inf (!n)
  | .num n m e => .num (!n) m e

/-- a + b (06 R266). -/
def fvAdd (f : Fmt) (r : Rnd) (a b : FV) : Nat × Flags :=
  match a, b with
  | .nan, _ => (f.nan, 0)
  | _, .nan => (f.nan, 0)
  | .inf n1, .inf n2 => if n1 = n2 then (f.inf + (if n1 then f.sign else 0), 0) else (f.nan, flagNV)
  | .inf n1, _ => (f.inf + (if n1 then f.sign else 0), 0)
  | _, .inf n2 => (f.inf + (if n2 then f.sign else 0), 0)
  | .num n1 m1 e1, .num n2 m2 e2 => f.roundSum r n1 m1 e1 n2 m2 e2

/-- a * b (06 R266). -/
def fvMul (f : Fmt) (r : Rnd) (a b : FV) : Nat × Flags :=
  match a, b with
  | .nan, _ => (f.nan, 0)
  | _, .nan => (f.nan, 0)
  | .inf n1, .inf n2 => (f.inf + (if n1 != n2 then f.sign else 0), 0)
  | .inf n1, .num n2 m2 _ => if m2 = 0 then (f.nan, flagNV) else (f.inf + (if n1 != n2 then f.sign else 0), 0)
  | .num n1 m1 _, .inf n2 => if m1 = 0 then (f.nan, flagNV) else (f.inf + (if n1 != n2 then f.sign else 0), 0)
  | .num n1 m1 e1, .num n2 m2 e2 => f.round r.mode r.sat r.ftz r.draw (n1 != n2) (m1 * m2) (e1 + e2) false

/-- a * b + c, rounded once (06 R266): NV for 0 times infinity whatever c holds. -/
def fvFma (f : Fmt) (r : Rnd) (a b c : FV) : Nat × Flags :=
  let zeroInf : Bool := match a, b with
    | .inf _, .num _ m _ => decide (m = 0)
    | .num _ m _, .inf _ => decide (m = 0)
    | _, _ => false
  if zeroInf then (f.nan, flagNV)
  else
    let p : FV := match a, b with
      | .nan, _ => .nan
      | _, .nan => .nan
      | .inf n1, .inf n2 => .inf (n1 != n2)
      | .inf n1, .num n2 _ _ => .inf (n1 != n2)
      | .num n1 _ _, .inf n2 => .inf (n1 != n2)
      | .num n1 m1 e1, .num n2 m2 e2 => .num (n1 != n2) (m1 * m2) (e1 + e2)
    fvAdd f r p c

/-- a / b under IEEE 754-2019 (09 R320, 06 R205). -/
def fvDiv (f : Fmt) (r : Rnd) (a b : FV) : Nat × Flags :=
  match a, b with
  | .nan, _ => (f.nan, 0)
  | _, .nan => (f.nan, 0)
  | .inf _, .inf _ => (f.nan, flagNV)
  | .inf n1, .num n2 _ _ => (f.inf + (if n1 != n2 then f.sign else 0), 0)
  | .num n1 _ _, .inf n2 => ((if n1 != n2 then f.sign else 0), 0)
  | .num n1 m1 e1, .num n2 m2 e2 =>
    if m2 = 0 then
      if m1 = 0 then (f.nan, flagNV) else (f.inf + (if n1 != n2 then f.sign else 0), flagDZ)
    else
      -- 96 extra bits beyond those of the divisor
      let k := 96 + bitLen m2
      f.round r.mode r.sat r.ftz r.draw (n1 != n2) (m1 * 2 ^ k / m2) (e1 - e2 - k) (m1 * 2 ^ k % m2 != 0)

/-- The integer square root, two bits at a time: n digits of base 4. -/
def isqrtN : Nat → Nat → Nat
  | 0, _ => 0
  | n + 1, x =>
    let r := 2 * isqrtN n (x / 4)
    if (r + 1) * (r + 1) ≤ x then r + 1 else r
def isqrt (x : Nat) : Nat := isqrtN (bitLen x / 2 + 1) x

/-- Correctly rounded square root (06 R209). -/
def fvSqrt (f : Fmt) (r : Rnd) (a : FV) : Nat × Flags :=
  match a with
  | .nan => (f.nan, 0)
  | .inf n => if n then (f.nan, flagNV) else (f.inf, 0)
  | .num n m e =>
    if m = 0 then ((if n then f.sign else 0), 0)
    else if n then (f.nan, flagNV)
    else
      -- make the exponent even and give 128 extra bits
      let m' := if e % 2 = 0 then m * 2 ^ 128 else m * 2 ^ 129
      let e' : Int := if e % 2 = 0 then e - 128 else e - 129
      let s := isqrt m'
      f.round r.mode r.sat r.ftz r.draw false s (e' / 2) (s * s != m')

/-- Correctly rounded reciprocal (06 R209). -/
def fvRcp (f : Fmt) (r : Rnd) (a : FV) : Nat × Flags :=
  match a with
  | .nan => (f.nan, 0)
  | .inf n => ((if n then f.sign else 0), 0)
  | .num n m e =>
    if m = 0 then (f.inf + (if n then f.sign else 0), flagDZ)
    else
      let k := 96 + bitLen m
      f.round r.mode r.sat r.ftz r.draw n (2 ^ k / m) (-e - k) (2 ^ k % m != 0)

/-- Correctly rounded reciprocal square root (06 R209). -/
def fvRsq (f : Fmt) (r : Rnd) (a : FV) : Nat × Flags :=
  match a with
  | .nan => (f.nan, 0)
  | .inf n => if n then (f.nan, flagNV) else (0, 0)
  | .num n m e =>
    if m = 0 then (f.inf + (if n then f.sign else 0), flagDZ)
    else if n then (f.nan, flagNV)
    else
      let m' := if e % 2 = 0 then m else 2 * m
      let e' : Int := if e % 2 = 0 then e else e - 1
      -- 1 / sqrt(m' 2^e') = sqrt(2^(2k) / m') * 2^(-k - e'/2)
      let k := 96 + bitLen m'
      let s := isqrt (2 ^ (2 * k) / m')
      f.round r.mode r.sat r.ftz r.draw false s (-(k : Int) - e' / 2) (s * s * m' != 2 ^ (2 * k))

/-- Compare two numbers; none: unordered. -/
def fvCmp (a b : FV) : Option Ordering :=
  match a, b with
  | .nan, _ => none
  | _, .nan => none
  | .inf n1, .inf n2 => some (if n1 = n2 then .eq else if n1 then .lt else .gt)
  | .inf n1, _ => some (if n1 then .lt else .gt)
  | _, .inf n2 => some (if n2 then .gt else .lt)
  | .num n1 m1 e1, .num n2 m2 e2 =>
    let e0 := min e1 e2
    let a : Int := (if n1 then -1 else 1) * ((m1 : Int) * 2 ^ (e1 - e0).toNat)
    let b : Int := (if n2 then -1 else 1) * ((m2 : Int) * 2 ^ (e2 - e0).toNat)
    some (compare a b)

/-- The condition of an FCMP (08 R269). -/
def fcmpCond (c : Nat) (o : Option Ordering) : Bool :=
  match c with
  | 0 => o = some .eq
  | 1 => o != some .eq
  | 2 => o = some .lt
  | 3 => o = some .lt || o = some .eq
  | 4 => o = some .gt
  | 5 => o = some .gt || o = some .eq
  | 6 => o.isNone
  | _ => o.isSome

/-- The sign of a value. -/
def FV.isNeg : FV → Bool
  | .nan => false
  | .inf n => n
  | .num n _ _ => n

/-- Is a below b, with -0 below +0 (06 R213, 08 R267)? For numbers. -/
def fvBelow (a b : FV) : Bool :=
  match fvCmp a b with
  | some .lt => true
  | some .eq => a.isNeg && !b.isNeg
  | _ => false

/-- Float to n-bit integer (06 R199): the result and its flags. -/
def fvToInt (n mode : Nat) (draw : W32) (sat : Bool) (a : FV) : Int × Flags :=
  let lo : Int := -(2 ^ (n - 1))
  let hi : Int := 2 ^ (n - 1) - 1
  match a with
  | .nan => (if sat then 0 else lo, flagNV)
  | .inf neg => (if neg then lo else if sat then hi else lo, flagNV)
  | .num neg m e =>
    let (t, inex) := roundAt mode draw neg m e 0 false
    let v : Int := if neg then -(t : Int) else t
    if v < lo then (lo, flagNV)
    else if hi < v then (if sat then hi else lo, flagNV)
    else (v, if inex then flagNX else 0)

/-- Integer to float: RoundTo of the exact integer (06 R199). -/
def intToFv (f : Fmt) (r : Rnd) (v : Int) : Nat × Flags := f.round r.mode r.sat r.ftz r.draw (decide (v < 0)) v.natAbs 0 false

/-- RoundTo of any value into a format, as a conversion does (06 R198, R200): an infinite input that is delivered as anything else is
inexact (R205), and does not overflow (DESIGN CHOICE, log 123). -/
def fvConvert (f : Fmt) (r : Rnd) (a : FV) : Nat × Flags :=
  match a with
  | .num n m e => f.round r.mode r.sat r.ftz r.draw n m e false
  | .nan => (f.nan, 0)
  | .inf n => (f.special r.sat (.inf n), if r.sat || !f.hasInf then flagNX else 0)

/-- One step of the linear feedback shift register (06 R203). -/
def lfsrStep (s : W32) : W32 :=
  let x := s.toNat
  let b := b2n (bit x 31) ^^^ b2n (bit x 21) ^^^ b2n (bit x 1) ^^^ b2n (bit x 0)
  BitVec.ofNat 32 (x * 2 + b)

end Sys2Proof.Machine
end

