-- ==== Sys2Proof/Machine/Special.lean ====
section
/-! DEFINITION. The special functions to the accuracy that 06 R209 and R210 give: the exact functions by fixed-point series, the zone in
which either neighbour is within 0.51 ulp, and the range of a seed. -/

namespace Sys2Proof.Machine

/-- Fraction bits of the fixed-point numbers of this file. -/
def fixP : Nat := 320
def fixOne : Nat := 2 ^ fixP

/-- The terms pw / (2i + 1) of the inverse hyperbolic tangent, with the square of its argument. -/
def atanhSum : Nat → Nat → Nat → Nat → Nat
  | 0, _, _, _ => 0
  | n + 1, sq, pw, i => pw / (2 * i + 1) + atanhSum n sq (pw * sq / fixOne) (i + 1)
/-- The natural logarithm of 1 to 2: 2 artanh ((v - 1) / (v + 1)). -/
def lnFix (v : Nat) : Nat :=
  let z := (v - fixOne) * fixOne / (v + fixOne)
  2 * atanhSum 110 (z * z / fixOne) z 0
def ln2Fix : Nat := lnFix (2 * fixOne)
/-- The terms y^i / i! of the exponential, from the term t on. -/
def expSum : Nat → Nat → Nat → Nat → Nat
  | 0, _, _, _ => 0
  | n + 1, y, t, i => t + expSum n y (t * y / fixOne / (i + 1)) (i + 1)

/-- An approximation (-1)^neg * m * 2^e, to about 300 bits. -/
structure Approx where
  neg : Bool
  m : Nat
  e : Int
deriving DecidableEq, Repr

/-- 2^t for a fixed-point t. -/
def exp2Fix (t : Int) : Approx :=
  ⟨false, expSum 80 ((t % (fixOne : Int)).toNat * ln2Fix / fixOne) fixOne 0, t / (fixOne : Int) - (fixP : Int)⟩
/-- A number as a fixed-point one; beyond 4,096, where every function here has settled, 4,096. -/
def toFix (neg : Bool) (m : Nat) (e : Int) : Int :=
  let l : Int := (bitLen m : Int) + e
  let v : Nat := if 12 < l then 4096 * fixOne
    else if 0 ≤ e + (fixP : Int) then m * 2 ^ (e + (fixP : Int)).toNat else m / 2 ^ (-(e + (fixP : Int))).toNat
  if neg then -(v : Int) else v
/-- e^x as 2^(x / ln 2). -/
def expFix (x : Int) : Approx := exp2Fix (x * (fixOne : Int) / (ln2Fix : Int))
/-- An approximation below 2 as a fixed-point number. -/
def Approx.fix (a : Approx) : Nat :=
  if 0 ≤ a.e + (fixP : Int) then a.m * 2 ^ (a.e + (fixP : Int)).toNat else a.m / 2 ^ (-(a.e + (fixP : Int))).toNat

/-- log2 of m * 2^e. -/
def log2Approx (m : Nat) (e : Int) : Approx :=
  let k := bitLen m - 1
  let l := lnFix (m * fixOne / 2 ^ k) * fixOne / ln2Fix
  let t : Int := ((k : Int) + e) * (fixOne : Int) + (l : Int)
  ⟨decide (t < 0), t.natAbs, -(fixP : Int)⟩
/-- 1 / (1 + e^-x): for a negative x, e^x / (1 + e^x). -/
def sigmApprox (neg : Bool) (m : Nat) (e : Int) : Approx :=
  let b := expFix (toFix true m e)
  if neg then ⟨false, b.m * fixOne / (fixOne + b.fix), b.e⟩
  else ⟨false, fixOne * fixOne / (fixOne + b.fix), -(fixP : Int)⟩
/-- tanh x: (1 - e^-2|x|) / (1 + e^-2|x|), with the sign of x. -/
def tanhApprox (neg : Bool) (m : Nat) (e : Int) : Approx :=
  let b := (expFix (toFix true m (e + 1))).fix
  ⟨neg, (fixOne - b) * fixOne / (fixOne + b), -(fixP : Int)⟩

/-- Both neighbours of a value that is no number of the format lie within 0.51 ulp of it (06 R209). -/
def Approx.between (a : Approx) (f : Fmt) : Bool :=
  let q := max ((bitLen a.m : Int) - 1 + a.e - f.frac) (1 - (f.bias : Int) - f.frac)
  let s := (q - a.e).toNat
  let r := a.m % 2 ^ s
  decide (a.e < q) && decide (49 * 2 ^ s ≤ 100 * r) && decide (100 * r ≤ 51 * 2 ^ s)

/-- The place of an operand's pattern in the order of values. -/
def Fmt.order (f : Fmt) (x : Nat) : Int := if bit x (f.width - 1) then -((x % f.sign : Nat) : Int) else x

/-- The result of a rising function within 0.51 ulp (06 R209): the nearer neighbour, and where both are allowed the upper one from a
free operand on, so that the function is monotonic (log 7). A result past the largest finite value's successor overflows (06 R198, 08 R271). -/
def boundedResult (f : Fmt) (sat ftz : Bool) (fn x : Nat) (a : Approx) : Nat × Flags :=
  let round := fun (mode : Nat) (ftz : Bool) => f.round mode sat ftz 0 a.neg a.m a.e true
  if a.between f && (round 3 false).2 &&& flagOF = 0 then
    let from_ := (Config.specialFrom fn (BitVec.ofNat 32 (round 3 false).1)).toInt
    round (if from_ ≤ f.order x then 2 else 3) ftz
  else round 0 ftz

/-- The positive patterns within a relative 2^-14 of m * 2^e (06 R210); where the format has none, the two neighbours (log 7). -/
def seedRange (f : Fmt) (m : Nat) (e : Int) : Nat × Nat :=
  let round := fun (mode k : Nat) => (f.round mode false false 0 false (m * k) (e - 14) true).1
  let lo := round 2 (2 ^ 14 - 1)
  let hi := round 3 (2 ^ 14 + 1)
  if lo ≤ hi then (Nat.max lo (2 ^ f.frac), hi) else (Nat.max (round 3 (2 ^ 14)) (2 ^ f.frac), round 2 (2 ^ 14))
/-- A seed in its range: a free value (log 7). -/
def boundedSeed (f : Fmt) (fn x m : Nat) (e : Int) : Nat :=
  let r := seedRange f m e
  r.1 + (Config.seedResult fn (BitVec.ofNat 32 x)).toNat % (r.2 - r.1 + 1)

end Sys2Proof.Machine
end

