-- ==== Sys2Proof/Machine/CellOps.lean ====
section
/-! DEFINITION. What each cell operation computes (08 R255 to R291) from its operands, guard, constant and rounding: elements,
poison marks (R257), the bytes enabled (R49), flags (06 R205). -/

namespace Sys2Proof.Machine

/-- What a word has read when it issues (08 R252), with DYN resolved and the stochastic-rounding register before it. -/
structure CellIn where
  w : CellWord
  a : VecVal
  b : VecVal
  c : VecVal
  /-- SA + 1, SA + 2, SA + 3 of CVTMX. -/
  quad : List VecVal
  guard : W32
  p : W32
  q : W32
  const : W32
  mode : Nat
  ftz : Bool
  lfsr : W32
deriving DecidableEq, Repr

/-- What a word computes: bits, marks, the bits that its destination and prev take, the second register of CVTMX, the predicate
bits and those written, flags, and whether a predicate writer met poison. -/
structure CellRes where
  val : V256
  mark : BitVec 32
  mask : V256
  second : Option (V256 × BitVec 32)
  pred : W32
  predMask : W32
  flags : Flags
  badPoison : Bool
deriving DecidableEq, Repr

def CellRes.none : CellRes := ⟨0, 0, 0, Option.none, 0, 0, 0, false⟩

/-- Elements of b bytes. -/
def elems (b : Nat) (v : V256) : List Nat := (List.range (32 / b)).map (fun j => v.toNat / 2 ^ (8 * b * j) % 2 ^ (8 * b))
/-- A number from elements of w bits. -/
def joinEls (w : Nat) : List Nat → Nat
  | [] => 0
  | x :: t => x % 2 ^ w + 2 ^ w * joinEls w t
/-- Poison of elements of b bytes (08 R257). -/
def markEls (b : Nat) (m : BitVec 32) : List Bool :=
  (List.range (32 / b)).map (fun j => m.toNat / 2 ^ (b * j) % 2 ^ b != 0)
/-- Marks of the bytes of elements of b bytes. -/
def markBytes (b : Nat) (l : List Bool) : BitVec 32 := BitVec.ofNat 32 (joinEls b (l.map (fun x => if x then 2 ^ b - 1 else 0)))
/-- Guard bits of elements of b bytes (02 R49). -/
def guardEls (b : Nat) (g : W32) : List Bool := (List.range (32 / b)).map (fun j => g.getLsbD (j * b))
/-- The bits of the enabled elements. -/
def enableBits (b : Nat) (l : List Bool) : V256 :=
  BitVec.ofNat 256 (joinEls (8 * b) (l.map (fun x => if x then 2 ^ (8 * b) - 1 else 0)))
/-- The bits of the bytes of a byte mask. -/
def byteBits (m : BitVec 32) : V256 := enableBits 1 ((List.range 32).map (fun i => m.getLsbD i))
def allBits : V256 := BitVec.allOnes 256

/-- Register states for n draws, in order (06 R204). -/
def lfsrRun : Nat → W32 → List W32
  | 0, _ => []
  | n + 1, s => lfsrStep s :: lfsrRun n (lfsrStep s)

/-- Bits of an element of a conversion target code (07 R229). -/
def targetBits (t : Nat) : Nat := if t = 9 || t = 8 then 4 else 8 * fmtB t

/-- Elements whose rounding steps the register (06 R204). -/
def CellWord.draws (x : CellWord) : Nat :=
  let e := 32 / fmtB x.fmt
  if x.op = .cvtmx then 32
  else if x.op = .cvtff || x.op = .cvtfi || x.op = .cvtif then Nat.min e (256 / targetBits (x.sb % 16)) else e

/-- An n-bit pattern read as signed or unsigned. -/
def intOf (u : Bool) (w x : Nat) : Int := if u || x < 2 ^ (w - 1) then x else (x : Int) - 2 ^ w
/-- An integer as a w-bit pattern. -/
def intBits (w : Nat) (x : Int) : Nat := (x % 2 ^ w).toNat
/-- Clamp to a w-bit range (06 R196, 08 R260). -/
def intClamp (u : Bool) (w : Nat) (x : Int) : Int :=
  let lo : Int := if u then 0 else -(2 ^ (w - 1))
  let hi : Int := if u then 2 ^ w - 1 else 2 ^ (w - 1) - 1
  if x < lo then lo else if hi < x then hi else x

/-- The exact value of an integer operation (08 R260). -/
def intExact (o : CellOp) (w : Nat) (a b c : Int) : Int :=
  match o with
  | .iadd => a + b
  | .isub => a - b
  | .imul => a * b
  | .imulh => a * b / 2 ^ w
  | .imad => a * b + c
  | .imin => min a b
  | .imax => max a b
  | .iabs => a.natAbs
  | .ineg => -a
  | _ => (a - b).natAbs + c

/-- An element of an integer operation (08 R260). -/
def intEl (o : CellOp) (m w a b c : Nat) : Nat :=
  let u := bit m 0
  let x := intExact o w (intOf u w a) (intOf u w b) (intOf u w c)
  intBits w (if bit m 3 then intClamp u w x else x)

/-- The condition of an ICMP (08 R261). -/
def icmpCond (m w a b : Nat) : Bool :=
  let x := intOf (decide (6 ≤ m)) w a
  let y := intOf (decide (6 ≤ m)) w b
  match m with
  | 0 => x = y
  | 1 => x != y
  | 2 | 6 => x < y
  | 3 | 7 => x ≤ y
  | 4 | 8 => y < x
  | _ => y ≤ x

/-- An element of a shift (08 R262). -/
def shiftEl (o : CellOp) (w a n c : Nat) : Nat :=
  let m := n % w
  match o with
  | .shl => if w ≤ n then 0 else a * 2 ^ n % 2 ^ w
  | .shr => if w ≤ n then 0 else a / 2 ^ n
  | .sha => intBits w (intOf false w a / 2 ^ Nat.min n w)
  | .rotl => (a * 2 ^ m + a / 2 ^ (w - m)) % 2 ^ w
  | .fshl => (a * 2 ^ w + c) * 2 ^ m / 2 ^ w % 2 ^ w
  | _ => (c * 2 ^ w + a) / 2 ^ m % 2 ^ w

/-- The field position of BFX and BFI (08 R263): offset and length. -/
def bitField (w n : Nat) : Nat × Nat :=
  let l := Nat.log2 w
  let off := bits n (l - 1) 0
  (off, Nat.min (bits n (2 * l) l) (w - off))

def bfxEl (s : Bool) (w a n : Nat) : Nat :=
  let (off, len) := bitField w n
  let f := a / 2 ^ off % 2 ^ len
  if s && 0 < len then intBits w (intOf false len f) else f

def bfiEl (w a n c : Nat) : Nat :=
  let (off, len) := bitField w n
  c - c / 2 ^ off % 2 ^ len * 2 ^ off + a % 2 ^ len * 2 ^ off

/-- A number with its w bits in reverse order. -/
def revBits : Nat → Nat → Nat
  | 0, _ => 0
  | w + 1, x => x % 2 * 2 ^ w + revBits w (x / 2)

/-- Zero bits below the lowest one, of w bits. -/
def cellCtz : Nat → Nat → Nat
  | 0, _ => 0
  | w + 1, x => if x % 2 = 1 then 0 else 1 + cellCtz w (x / 2)
/-- One bits among w bits. -/
def cellPop : Nat → Nat → Nat
  | 0, _ => 0
  | w + 1, x => x % 2 + cellPop w (x / 2)

/-- A bit or count element (08 R264, R265). -/
def countEl (o : CellOp) (w a : Nat) : Nat :=
  match o with
  | .brev => revBits w a
  | .not => 2 ^ w - 1 - a
  | .clz => w - bitLen a
  | .ctz => cellCtz w a
  | .ffs => if a = 0 then 0 else 1 + cellCtz w a
  | _ => cellPop w a

/-- A logic element (08 R264). -/
def logicEl (o : CellOp) (w a b : Nat) : Nat :=
  match o with
  | .and => a &&& b
  | .or => a ||| b
  | .xor => a ^^^ b
  | _ => a &&& (2 ^ w - 1 - b)

/-- FRINT, FEXPO, FMANT and FSCAL of a value (08 R270). -/
def frintEl (f : Fmt) (r : Rnd) (a : FV) : Nat × Flags :=
  match a with
  | .num n m e =>
    if 0 ≤ e || m = 0 then ((f.round 0 false false 0 n m e false).1, 0)
    else
      let (t, inex) := roundAt r.mode r.draw n m e 0 false
      ((f.round 0 false false 0 n t 0 false).1, if inex then flagNX else 0)
  | v => (f.special false v, 0)
def fexpoEl (f : Fmt) (a : FV) : Nat × Flags :=
  match a with
  | .num _ m e =>
    if m = 0 then (f.special false (.inf true), flagDZ)
    else
      let x : Int := (bitLen m : Int) - 1 + e
      ((f.round 0 false false 0 (decide (x < 0)) x.natAbs 0 false).1, 0)
  | .inf _ => (f.special false (.inf false), 0)
  | .nan => (f.nan, 0)
def fmantEl (f : Fmt) (a : FV) : Nat × Flags :=
  match a with
  | .num n m _ => ((f.round 0 false false 0 n m (if m = 0 then 0 else 1 - (bitLen m : Int)) false).1, 0)
  | .inf _ => (f.nan, flagNV)
  | .nan => (f.nan, 0)
def fscalEl (f : Fmt) (r : Rnd) (a : FV) (n : Int) : Nat × Flags :=
  match a with
  | .num s m e => f.round r.mode r.sat r.ftz r.draw s m (e + max (-1000) (min 1000 n)) false
  | v => (f.special false v, 0)

/-- The pattern of a value exact in the format. -/
def Fmt.pattern (f : Fmt) (v : FV) : Nat := (fvConvert f ⟨0, false, false, 0⟩ v).1

/-- FMIN, FMAX, FMINN, FMAXN (08 R267). -/
def fminEl (f : Fmt) (o : CellOp) (a b : FV) : Nat :=
  let num := o = .fminn || o = .fmaxn
  if a = .nan then (if num then f.pattern b else f.nan)
  else if b = .nan then (if num then f.pattern a else f.nan)
  else f.pattern (if o = .fmin || o = .fminn then (if fvBelow b a then b else a) else (if fvBelow a b then b else a))

/-- FCLASS (08 R268). -/
def fclassEl (f : Fmt) (ftz : Bool) (x : Nat) : Nat :=
  match f.read ftz x with
  | .nan => 8
  | .inf n => if n then 0 else 7
  | .num n m _ => if m = 0 then (if n then 3 else 4) else if f.subnormal x then (if n then 2 else 5) else (if n then 1 else 6)

/-- FABS and FNEG (08 R268). -/
def fabsEl (f : Fmt) (neg : Bool) (a : FV) : Nat :=
  match a with
  | .nan => f.nan
  | .inf n => f.pattern (.inf (neg && !n))
  | .num n m e => f.pattern (.num (neg && !n) m e)

/-- The power n of an exact 2^n (06 R209). -/
def exactLog2 (m : Nat) (e : Int) : Option Int :=
  let l := Nat.log2 m
  if m = 2 ^ l then some ((l : Int) + e) else none
/-- A number that is an integer. -/
def exactInt (n : Bool) (m : Nat) (e : Int) : Option Int :=
  let sg := fun (k : Nat) => if n then -(k : Int) else k
  if 0 ≤ e then some (sg (m * 2 ^ Nat.min 64 e.toNat))
  else if m % 2 ^ Nat.min 400 (-e).toNat = 0 then some (sg (m / 2 ^ Nat.min 400 (-e).toNat)) else none

/-- EXP2, LOG2, SIGM, TANH (06 R209, 08 R271). -/
def transEl (f : Fmt) (o : CellOp) (fmt : Nat) (r : Rnd) (x : Nat) : Nat × Flags :=
  let one := f.bias * 2 ^ f.frac
  match o, f.read r.ftz x with
  | _, .nan => (f.nan, 0)
  | .exp2, .inf n => (if n then 0 else f.special false (.inf false), 0)
  | .exp2, .num n m e =>
    match exactInt n m e with
    | some k => f.round 0 r.sat r.ftz 0 false 1 (max (-2000) (min 2000 k)) false
    | none => boundedResult f r.sat r.ftz (0x40 * 8 + fmt) x (exp2Fix (toFix n m e))
  | .log2, .inf n => if n then (f.nan, flagNV) else (f.special false (.inf false), 0)
  | .log2, .num n m e =>
    if m = 0 then (f.special false (.inf true), flagDZ)
    else if n then (f.nan, flagNV)
    else match exactLog2 m e with
      | some k => (f.pattern (.num (decide (k < 0)) k.natAbs 0), 0)
      | none => boundedResult f r.sat r.ftz (0x41 * 8 + fmt) x (log2Approx m e)
  | .sigm, .inf n => (if n then 0 else one, 0)
  | .sigm, .num n m e =>
    if m = 0 then (one - 2 ^ f.frac, 0) else boundedResult f r.sat r.ftz (0x47 * 8 + fmt) x (sigmApprox n m e)
  | _, .inf n => (one + (if n then f.sign else 0), 0)
  | _, .num n m e =>
    if m = 0 then ((if n then f.sign else 0), 0)
    else
      -- TANH does not underflow (08 R271)
      let (v, fl) := boundedResult f r.sat false (0x48 * 8 + fmt) x (tanhApprox n m e)
      (v, fl &&& ~~~flagUF)

/-- RCPA and RSQA (06 R210; log 7). -/
def seedEl (f : Fmt) (o : CellOp) (fmt : Nat) (x : Nat) : Nat × Flags :=
  let sg := fun (n : Bool) => if n then f.sign else 0
  match f.decode x with
  | .nan => (f.nan, 0)
  | .inf n => if o = .rcpa then (sg n, 0) else if n then (f.nan, flagNV) else (0, 0)
  | .num n m e =>
    if m = 0 then (sg n + f.inf, flagDZ)
    else if o = .rsqa && n then (f.nan, flagNV)
    else if f.subnormal x then (sg n + f.inf, 0)
    else
      -- 1/|x| is below 2^(1 - bias) when |x| is above 2^(bias - 1)
      let l : Int := (bitLen m : Int) - 1 + e
      let big := decide ((f.bias : Int) - 1 < l) || (decide (l = (f.bias : Int) - 1) && (exactLog2 m e).isNone)
      if o = .rcpa && big then (sg n, 0)
      else if o = .rcpa then
        let k := 96 + bitLen m
        (sg n + boundedSeed f (0x43 * 8 + fmt) x (2 ^ k / m) (-e - k), 0)
      else
        let (m, e) := if e % 2 = 0 then (m, e) else (2 * m, e - 1)
        let k := 96 + bitLen m
        (boundedSeed f (0x45 * 8 + fmt) x (isqrt (2 ^ (2 * k) / m)) (-(k : Int) - e / 2), 0)

/-- An element of a floating-point operation with a vector result (08 R266 to R271). -/
def fpEl (o : CellOp) (fmt : Nat) (r : Rnd) (x y z : Nat) : Nat × Flags :=
  let f := inFmt fmt
  let r : Rnd := { r with ftz := r.ftz && decide (fmt ≤ 5) }
  let a := f.read r.ftz x
  let b := f.read r.ftz y
  let c := f.read r.ftz z
  match o with
  | .fadd => fvAdd f r a b
  | .fsub => fvAdd f r a b.neg
  | .fmul => fvMul f r a b
  | .ffma => fvFma f r a b c
  | .ffms => fvFma f r a b c.neg
  | .fnma => fvFma f r a.neg b c
  | .fmin | .fmax | .fminn | .fmaxn => (fminEl f o a b, 0)
  | .fabs => (fabsEl f false a, 0)
  | .fneg => (fabsEl f true a, 0)
  | .fclass => (fclassEl f r.ftz x, 0)
  | .frint => frintEl f r a
  | .fexpo => fexpoEl f a
  | .fmant => fmantEl f a
  | .fscal => fscalEl f r a (intOf false f.width y)
  | .rcp => fvRcp f r a
  | .rsq => fvRsq f r a
  | .sqrt => fvSqrt f r a
  | .rcpa | .rsqa => seedEl f o fmt x
  | _ => transEl f o fmt r x

/-- The operation converts, or is another than the element-wise floating-point ones. -/
def CellOp.fpElementwise : CellOp → Bool
  | .fadd | .fsub | .fmul | .ffma | .ffms | .fnma | .fmin | .fmax | .fminn | .fmaxn | .fabs | .fneg | .fclass | .frint | .fexpo
  | .fmant | .fscal | .rcp | .rcpa | .rsq | .rsqa | .sqrt | .exp2 | .log2 | .sigm | .tanh => true
  | _ => false

/-- MX block conversion (06 R211): scale, element patterns, flags. -/
def mxBlock (f : Fmt) (mode : Nat) (draws : List W32) (xs : List Nat) : Nat × List Nat × Flags :=
  let vs := xs.map Fmt.f32.decode
  let bad := vs.any (fun v => match v with | .num _ _ _ => false | _ => true)
  if bad then (0xFF, xs.map (fun _ => 0), flagNV)
  else
    let emax : Int := match f with | .e4m3 => 8 | .e5m2 => 15 | _ => 2
    let lead := vs.foldl (fun (acc : Option Int) v => match v with
      | .num _ m e => if m = 0 then acc else
        let l : Int := (bitLen m : Int) - 1 + e
        some (match acc with | none => l | some k => max k l)
      | _ => acc) none
    let x : Int := match lead with
      | none => -127
      | some l => max (-127) (min 127 (l - emax))
    let rs := vs.zipIdx.map (fun v => match v.1 with
      | .num n m e => f.round mode true false (draws.getD v.2 0) n m (e - x) false
      | _ => (0, 0))
    ((x + 127).toNat, rs.map (·.1), if rs.any (fun r => r.2 &&& flagNX != 0) then flagNX else 0)

/-- A conversion of one element (08 R273 to R275): pattern and flags. -/
def convEl (o : CellOp) (fmt t : Nat) (m : Nat) (r : Rnd) (x : Nat) : Nat × Flags :=
  match o with
  | .cvtff =>
    let r : Rnd := { r with ftz := r.ftz && decide (fmt ≤ 5) && decide (t ≤ 5) }
    fvConvert (inFmt t) r ((inFmt fmt).read r.ftz x)
  | .cvtfi =>
    let (v, fl) := fvToInt (targetBits t) r.mode r.draw r.sat ((inFmt fmt).read (r.ftz && decide (fmt ≤ 5)) x)
    (intBits (targetBits t) v, fl)
  | .cvtif => intToFv (inFmt t) { r with ftz := false } (intOf false (8 * fmtB fmt) x)
  | _ =>
    let u := bit m 0
    let v := intOf u (8 * fmtB fmt) x
    (intBits (targetBits t) (if bit m 3 then intClamp u (targetBits t) v else v), 0)

/-- The two-level combination of LRED and LSCAN on FP32 patterns (06 R208, 08 R279): kind 0 add, 1 max, 2 min. -/
def fpStep (kind : Nat) (ftz : Bool) (x y : Nat) : Nat × Flags :=
  let a := Fmt.f32.read ftz x
  let b := Fmt.f32.read ftz y
  if kind = 0 then fvAdd .f32 ⟨0, false, ftz, 0⟩ a b
  else if a = .nan || b = .nan then (Fmt.f32.nan, 0)
  else (Fmt.f32.pattern (if kind = 1 then (if fvBelow a b then b else a) else (if fvBelow b a then b else a)), 0)
/-- The same on INT32 patterns. -/
def intStep (kind x y : Nat) : Nat :=
  if kind = 0 then (x + y) % 2 ^ 32
  else if kind = 1 then (if intOf false 32 x < intOf false 32 y then y else x)
  else (if intOf false 32 y < intOf false 32 x then y else x)
def redStep (fp : Bool) (kind : Nat) (ftz : Bool) (x y : Nat) : Nat × Flags :=
  if fp then fpStep kind ftz x y else (intStep kind x y, 0)

/-- Reduce by the pairwise tree (06 R208). -/
def redTree (step : Nat → Nat → Nat × Flags) : Nat → List Nat → Nat × Flags
  | 0, l => (l.headD 0, 0)
  | n + 1, l =>
    let r := (List.range (l.length / 2)).map (fun i => step (l.getD (2 * i) 0) (l.getD (2 * i + 1) 0))
    let (v, fl) := redTree step n (r.map (·.1))
    (v, r.foldl (fun acc x => acc ||| x.2) fl)

/-- The inclusive prefix by steps d = 1, 2, 4, … (06 R208). -/
def scanSteps (step : Nat → Nat → Nat × Flags) : Nat → Nat → List Nat → List Nat × Flags
  | 0, _, l => (l, 0)
  | n + 1, d, l =>
    let r : List (Nat × Flags) := l.zipIdx.map (fun x => if x.2 < d then (x.1, 0) else step (l.getD (x.2 - d) 0) x.1)
    let (v, fl) := scanSteps step n (2 * d) (r.map (·.1))
    (v, r.foldl (fun acc x => acc ||| x.2) fl)

/-- An element converted to FP32 or INT32 for LRED and LSCAN (06 R208). -/
def redIn (fmt : Nat) (ftz : Bool) (x : Nat) : Nat :=
  if fmt ≤ 2 then intBits 32 (intOf false (8 * fmtB fmt) x)
  else Fmt.f32.pattern ((inFmt fmt).read (ftz && decide (fmt ≤ 5)) x)
/-- The element of a masked position (08 R279). -/
def redIdentity (fmt kind : Nat) : Nat :=
  if fmt ≤ 2 then (if kind = 0 then 0 else if kind = 1 then 0x80000000 else 0x7FFFFFFF)
  else if kind = 0 then 0x80000000 else if kind = 1 then 0xFF800000 else 0x7F800000

/-- Bytes of a value as a list. -/
def vecBytes (v : V256) : List Byte := leBytes 32 v.toNat
def bytesVec (l : List Byte) : V256 := BitVec.ofNat 256 (leNat l)
/-- A 32-lane predicate from element outcomes of b bytes. -/
def predOf (b : Nat) (l : List Bool) : W32 := BitVec.ofNat 32 (joinEls b (l.map (fun x => if x then 2 ^ b - 1 else 0)))

/-- A vector result from elements of b bytes, under the element guard (R255). -/
def elRes (b : Nat) (g : W32) (vals : List (Nat × Flags)) (poison : List Bool) : CellRes :=
  let ge := guardEls b g
  { val := BitVec.ofNat 256 (joinEls (8 * b) (vals.map (·.1)))
    mark := markBytes b poison
    mask := enableBits b ge
    second := none
    pred := 0
    predMask := 0
    flags := (vals.zip ge).foldl (fun acc x => if x.2 then acc ||| x.1.2 else acc) 0
    badPoison := false }

/-- A whole result: every byte of the destination and of prev is written. -/
def wholeRes (v : V256) (mark : BitVec 32) (fl : Flags) : CellRes := ⟨v, mark, allBits, none, 0, 0, fl, false⟩

/-- A predicate result (02 R49). A poisoned source element faults only where the guard enables it (08 R261, R269, R283): that a
poisoned element whose guard is off raises nothing is a DESIGN CHOICE, log 105. -/
def predRes (b : Nat) (g : W32) (vals : List (Bool × Flags)) (poison : List Bool) : CellRes :=
  let ge := guardEls b g
  { val := 0
    mark := 0
    mask := 0
    second := none
    pred := predOf b (vals.map (·.1))
    predMask := predOf b ge
    flags := (vals.zip ge).foldl (fun acc x => if x.2 then acc ||| x.1.2 else acc) 0
    badPoison := (poison.zip ge).any (fun x => x.1 && x.2) }

/-- Element lists of two vectors, combined. -/
def zip3 (a b c : List Nat) : List (Nat × Nat × Nat) := a.zip (b.zip c)

/-- LSWZ, LROT, LBC (08 R278): the element of A that element j copies, or none for zero. -/
def lanePick (x : CellIn) (e j : Nat) (bs : List Nat) : Option Nat :=
  match x.w.op with
  | .lswz => let i := bs.getD j 0
             if i < e then some i else none
  | .lbc => some x.w.mod
  | _ =>
    let n := bs.getD 0 0
    if !bit x.w.mod 0 then some (if bit x.w.mod 1 then (j + e - n % e) % e else (j + n) % e)
    else if bit x.w.mod 1 then (if n ≤ j then some (j - n) else none)
    else if j + n < e then some (j + n) else none

/-- CMPCT (08 R288): the values, with their marks, in order. -/
def compact (idx : Bool) (l : List ((Nat × Bool) × Bool)) : List (Nat × Bool) :=
  l.zipIdx.filterMap (fun x => if x.1.2 then some (if idx then (x.2, false) else x.1.1) else none)

/-- EXPND (08 R288): element j from the guard bits, the next rank r and the elements of A. -/
def expand (rank : Bool) (a : List (Nat × Bool)) : Nat → List Bool → List (Nat × Bool)
  | _, [] => []
  | r, true :: g => (if rank then (r, false) else a.getD r (0, false)) :: expand rank a (r + 1) g
  | r, false :: g => (0, false) :: expand rank a r g

/-- The 32-bit lanes chosen by SEND and STEER (08 R255). -/
def laneSel (g : W32) : List Bool := guardEls 4 g

/-- The conversions CVTFF, CVTFI, CVTIF, CVTII (08 R272): guard at the source width, the rest of the destination zero. -/
def convRes (x : CellIn) (draws : List W32) : CellRes :=
  let w := x.w
  let b := fmtB w.fmt
  let t := w.sb % 16
  let tw := targetBits t
  let n := Nat.min (32 / b) (256 / tw)
  let src := (elems b x.a.bits).take n
  let ge := (guardEls b x.guard).take n
  let po := (markEls b x.a.mark).take n
  let rs := src.zipIdx.map (fun e => convEl w.op w.fmt t w.mod ⟨x.mode, bit w.mod 3, x.ftz, draws.getD e.2 0⟩ e.1)
  let top := allBits <<< (n * tw)
  let en := BitVec.ofNat 256 (joinEls tw (ge.map (fun g => if g then 2 ^ tw - 1 else 0)))
  -- the marks of the bytes that hold a poisoned enabled element
  let mk := BitVec.ofNat 256 (joinEls tw ((ge.zip po).map (fun g => if g.1 && g.2 then 2 ^ tw - 1 else 0)))
  { val := BitVec.ofNat 256 (joinEls tw (rs.map (·.1)))
    mark := BitVec.ofNat 32 (joinEls 1 ((elems 1 mk).map (fun v => if v = 0 then 0 else 1)))
    mask := en ||| top
    second := none
    pred := 0
    predMask := 0
    flags := (rs.zip ge).foldl (fun acc r => if r.2 then acc ||| r.1.2 else acc) 0
    badPoison := false }

/-- CVTMX (08 R276). -/
def mxRes (x : CellIn) (draws : List W32) : CellRes :=
  if !(guardEls 4 x.guard).any id then CellRes.none
  else
    let vs := x.a :: x.quad
    let f : Fmt := if x.w.sb % 16 = 6 then .e4m3 else if x.w.sb % 16 = 7 then .e5m2 else .e2m1
    let (sc, els, fl) := mxBlock f x.mode draws (vs.flatMap (fun v => elems 4 v.bits))
    let po := vs.any (fun v => v.mark != 0)
    { val := BitVec.ofNat 256 (joinEls f.width els)
      mark := if po then (if f.width = 4 then 0xFFFF else 0xFFFFFFFF) else 0
      mask := allBits
      second := some (BitVec.ofNat 256 sc, if po then 1 else 0)
      pred := 0
      predMask := 0
      flags := fl
      badPoison := false }

/-- LRED and LSCAN (08 R279, R280). -/
def redRes (x : CellIn) : CellRes :=
  let w := x.w
  let b := fmtB w.fmt
  let e := 32 / b
  let kind := if w.op = .lred then w.mod % 4 else 0
  let ge := guardEls b x.guard
  let xs := ((elems b x.a.bits).zip ge).map (fun v => if v.2 then redIn w.fmt x.ftz v.1 else redIdentity w.fmt kind)
  let po := ((markEls b x.a.mark).zip ge).map (fun v => v.1 && v.2)
  let step := redStep (decide (3 ≤ w.fmt)) kind x.ftz
  let lv := Nat.log2 e
  if w.op = .lred then
    let (v, fl) := redTree step lv xs
    wholeRes (BitVec.ofNat 256 v) (if po.any id then 0xF else 0) fl
  else
    let (vs, fl) := scanSteps step lv 1 xs
    let g := 8 * (w.mod % 4)
    wholeRes (BitVec.ofNat 256 (joinEls 32 ((vs.drop g).take 8)))
      (markBytes 4 ((List.range 8).map (fun i => (po.take (g + i + 1)).any id))) fl

/-- BPERM (08 R264): result bytes and the poison of the result elements. -/
def bpermRes (x : CellIn) : CellRes :=
  let b := fmtB x.w.fmt
  let aw := vecBytes x.a.bits
  let am := (markBytes b (markEls b x.a.mark))
  let bm := (markBytes b (markEls b x.b.mark))
  let ix := vecBytes x.b.bits
  let out := ix.map (fun i => if i.getLsbD 7 then (0 : Byte) else aw.getD (i.toNat % 32) 0)
  let po := ix.zipIdx.map (fun i => bm.getLsbD i.2 || (!i.1.getLsbD 7 && am.getLsbD (i.1.toNat % 32)))
  elRes b x.guard ((elems b (bytesVec out)).map (·, 0))
    (markEls b (BitVec.ofNat 32 (joinEls 1 (po.map (fun p => if p then 1 else 0)))))

/-- PACK and UNPK (08 R277). -/
def packRes (x : CellIn) : CellRes :=
  let b := fmtB x.w.fmt
  let z := 16 / 2 ^ (x.w.mod % 4)
  let get := fun (v : VecVal) => (vecBytes v.bits).zip (((List.range 32).map (fun i => (markBytes b (markEls b v.mark)).getLsbD i)))
  let out : List (Byte × Bool) :=
    if x.w.op = .pack then (get x.a).take z ++ (get x.b).take z else ((get x.a).drop (x.w.mod / 4 * z)).take z
  let out := out ++ List.replicate (32 - out.length) ((0 : Byte), false)
  elRes b x.guard ((elems b (bytesVec (out.map (·.1)))).map (·, 0))
    (markEls b (BitVec.ofNat 32 (joinEls 1 (out.map (fun p => if p.2 then 1 else 0)))))

/-- The value of a word (08), its rounding draws, and the register after it. -/
def cellCompute (x : CellIn) : CellRes × W32 :=
  let w := x.w
  let b := fmtB w.fmt
  let wd := 8 * b
  let sr := w.op.rounds && decide (x.mode = 5)
  let draws := if sr then lfsrRun w.draws x.lfsr else []
  let lf := draws.getLastD x.lfsr
  let as_ := elems b x.a.bits
  let bs := elems b x.b.bits
  let cs := elems b x.c.bits
  let ge := guardEls b x.guard
  -- only the operands that the operation reads pass their marks on (06 R215, 07 R227)
  let (fc, fa, fb) := w.op.fields
  let seen := fun (reads : Bool) (v : VecVal) => markEls b (if reads then v.mark else 0)
  let po := ((seen (fa == .x) x.a).zip ((seen (fb == .x) x.b).zip (seen (fc == .c) x.c))).map (fun m => m.1 || m.2.1 || m.2.2)
  let each := fun (f : Nat → Nat → Nat → Nat) => elRes b x.guard ((zip3 as_ bs cs).map (fun e => (f e.1 e.2.1 e.2.2, 0))) po
  let res : CellRes :=
    match w.op with
    | .nop | .send | .exit | .rmark => CellRes.none
    | .iadd | .isub | .imul | .imulh | .imad | .imin | .imax | .iabs | .ineg | .isad => each (intEl w.op w.mod wd)
    | .icmp => predRes b x.guard ((as_.zip bs).map (fun e => (icmpCond w.mod wd e.1 e.2, 0))) po
    | .shl | .shr | .sha | .rotl | .fshl | .fshr => each (shiftEl w.op wd)
    | .bfx => each (fun a n _ => bfxEl (bit w.mod 0) wd a n)
    | .bfi => each (bfiEl wd)
    | .and | .or | .xor | .andn => each (fun a n _ => logicEl w.op wd a n)
    | .not | .brev | .clz | .ctz | .ffs | .popc => each (fun a _ _ => countEl w.op wd a)
    | .bperm => bpermRes x
    | .fcmp =>
      let f := inFmt w.fmt
      let ftz := x.ftz && decide (w.fmt ≤ 5)
      predRes b x.guard ((as_.zip bs).map (fun e =>
        let o := fvCmp (f.read ftz e.1) (f.read ftz e.2)
        (fcmpCond (w.mod % 8) o, if o.isNone && bit w.mod 3 then flagNV else 0))) po
    | .cvtff | .cvtfi | .cvtif | .cvtii => convRes x draws
    | .cvtmx => mxRes x draws
    | .pack | .unpk => packRes x
    | .lswz | .lrot | .lbc =>
      let e := 32 / b
      let ma := markEls b x.a.mark
      let mb := markEls b x.b.mark
      let pick := (List.range e).map (fun j => lanePick x e j bs)
      elRes b x.guard (pick.map (fun i => match i with | some i => (as_.getD i 0, 0) | none => (0, 0)))
        (pick.zipIdx.map (fun i =>
          (match i.1 with | some i => ma.getD i false | none => false) ||
            (w.op = .lswz && mb.getD i.2 false) || (w.op = .lrot && mb.getD 0 false)))
    | .lred | .lscan => redRes x
    | .mov => each (fun a _ _ => a)
    | .movk =>
      let k := x.const.toNat
      elRes b x.guard ((List.range (32 / b)).map (fun j =>
        (if bit w.mod 0 then k % 2 ^ wd else k / 2 ^ (wd * j % 32) % 2 ^ wd, 0))) []
    | .sel =>
      let pick := fun (l m : List Nat) => (ge.zip (l.zip m)).map (fun e => if e.1 then e.2.1 else e.2.2)
      let n := fun (l : List Bool) => l.map b2n
      wholeRes (BitVec.ofNat 256 (joinEls wd (pick as_ bs)))
        (markBytes b ((pick (n (markEls b x.a.mark)) (n (markEls b x.b.mark))).map (· != 0))) 0
    | .vpred => predRes b x.guard (as_.map (fun a => (if bit w.mod 0 then bit a (wd - 1) else a != 0, 0))) po
    | .pand => predRes b x.guard (((guardEls b x.p).zip (guardEls b x.q)).map (fun e => (e.1 && e.2, 0))) []
    | .por => predRes b x.guard (((guardEls b x.p).zip (guardEls b x.q)).map (fun e => (e.1 || e.2, 0))) []
    | .pxor => predRes b x.guard (((guardEls b x.p).zip (guardEls b x.q)).map (fun e => (e.1 != e.2, 0))) []
    | .pnot => predRes b x.guard ((guardEls b x.p).map (fun e => (!e, 0))) []
    | .pmov => predRes b x.guard ((guardEls b x.p).map (fun e => (e, 0))) []
    | .pset => predRes b x.guard ((List.range (32 / b)).map (fun j => (x.const.getLsbD j, 0))) []
    | .steer =>
      let keep := (laneSel x.guard).map (!·)
      let en := enableBits 4 keep
      wholeRes (x.a.bits &&& en) (markBytes b (markEls b x.a.mark) &&& predOf 4 keep) 0
    | .cmpct =>
      let l := compact (bit w.mod 0) ((as_.zip (markEls b x.a.mark)).zip ge)
      wholeRes (BitVec.ofNat 256 (joinEls wd (l.map (·.1)))) (markBytes b (l.map (·.2))) 0
    | .expnd =>
      let l := expand (bit w.mod 0) (as_.zip (markEls b x.a.mark)) 0 ge
      wholeRes (BitVec.ofNat 256 (joinEls wd (l.map (·.1)))) (markBytes b (l.map (·.2))) 0
    | o => 
      elRes b x.guard ((zip3 as_ bs cs).zipIdx.map (fun e =>
        fpEl o w.fmt ⟨x.mode, bit w.mod 3, x.ftz, draws.getD e.2 0⟩ e.1.1 e.1.2.1 e.1.2.2)) po
  (res, lf)

end Sys2Proof.Machine
end

