-- ==== Sys2Proof/Machine/Hash.lean ====
section
/-! DEFINITION. CRC-32 of images (07 R242) and SHA-384 (FIPS 180-4; 11 R361, 17 R488). -/

namespace Sys2Proof.Machine

/-- One byte into a reflected CRC-32 register: eight steps of the IEEE 802.3 polynomial. -/
def crcByte (r : Nat) (b : Byte) : Nat :=
  let step := fun (x : Nat) => if x % 2 = 1 then (x / 2) ^^^ 0xEDB88320 else x / 2
  step (step (step (step (step (step (step (step (r ^^^ b.toNat))))))))

/-- CRC-32: initial and final value 0xFFFF_FFFF (07 R242). -/
def crc32 (l : List Byte) : Nat := (l.foldl crcByte 0xFFFFFFFF) ^^^ 0xFFFFFFFF

/-- The greatest r below 2^n with r^e not above x: from its highest bit down. -/
def rootBits (e x : Nat) : Nat → Nat
  | 0 => 0
  | n + 1 =>
    let high := rootBits e (x / 2 ^ e) n * 2
    if (high + 1) ^ e ≤ x then high + 1 else high
/-- The first 64 bits of the fractional part of the e-th root of p. -/
def rootFraction (e p : Nat) : Word := BitVec.ofNat 64 (rootBits e (p * 2 ^ (64 * e)) 72)
/-- The first n primes; the first 80 lie below 410, and each composite there has a factor of at most 19. -/
def firstPrimes (n : Nat) : List Nat :=
  (((List.range 410).drop 2).filter (fun p => ([2, 3, 5, 7, 11, 13, 17, 19] : List Nat).all (fun f => p = f || p % f != 0))).take n
/-- The constants of the 80 rounds: cube roots of the first 80 primes (FIPS 180-4, 4.2.3). -/
def hashKeys : List Word := (firstPrimes 80).map (rootFraction 3)
/-- The initial hash value of SHA-384: square roots of the ninth to the sixteenth prime (FIPS 180-4, 5.3.4). -/
def hashStart : List Word := ((firstPrimes 16).drop 8).map (rootFraction 2)

/-- A word under several right rotations, all added bit by bit. -/
def turned (by_ : List Nat) (x : Word) : Word := by_.foldl (fun y n => y ^^^ x.rotateRight n) 0
/-- Element i of a list of words. -/
def wordIn (l : List Word) (i : Nat) : Word := l.getD i 0

/-- A compression under way: the next 16 words of the schedule, the last four values of a and the last four of e, newest first (FIPS 180-4,
6.4.2 names the last four of each a, b, c, d and e, f, g, h). -/
structure Compression where
  next : List Word
  as_ : List Word
  es : List Word
deriving DecidableEq, Repr

/-- The word of the schedule that follows a window of 16 (FIPS 180-4, 6.4.2 step 1). -/
def wordAfter (l : List Word) : Word :=
  let old := wordIn l 1
  let late := wordIn l 14
  wordIn l 0 + wordIn l 9 + (turned [1, 8] old ^^^ (old >>> 7)) + (turned [19, 61] late ^^^ (late >>> 6))
/-- Where the selector has a one the first word's bit, elsewhere the second's. -/
def chosen (selector one other : Word) : Word := other ^^^ (selector &&& (one ^^^ other))
/-- The value that two of three bits have. -/
def majority (x y z : Word) : Word := (x &&& (y ||| z)) ||| (y &&& z)

/-- One round under a constant. -/
def Compression.round (x : Compression) (key : Word) : Compression :=
  let e := wordIn x.es 0
  let a := wordIn x.as_ 0
  let fresh := key + wordIn x.next 0 + wordIn x.es 3 + turned [14, 18, 41] e + chosen e (wordIn x.es 1) (wordIn x.es 2)
  { next := x.next.drop 1 ++ [wordAfter x.next]
    as_ := (fresh + turned [28, 34, 39] a + majority a (wordIn x.as_ 1) (wordIn x.as_ 2)) :: x.as_.take 3
    es := (wordIn x.as_ 3 + fresh) :: x.es.take 3 }

/-- The 64-bit words of bytes, most significant byte first. -/
def wordsOfBytes (l : List Byte) (n : Nat) : List Word := (List.range n).map (fun i => leWord ((l.drop (8 * i)).take 8).reverse)
/-- The hash value after a block of 128 bytes. -/
def hashBlock (h : Vector Word 8) (block : List Byte) : Vector Word 8 :=
  let start : Compression := ⟨wordsOfBytes block 16, h.toList.take 4, h.toList.drop 4⟩
  let last := hashKeys.foldl Compression.round start
  Vector.ofFn (fun i => vget h i + wordIn (last.as_ ++ last.es) i.val)

def Digest.init : Digest := ⟨Vector.ofFn (fun i => wordIn hashStart i.val), 0, []⟩

/-- Digest the whole blocks of a message; the fuel bounds their number. What is left is shorter than a block. -/
def hashBlocks : Nat → Vector Word 8 → List Byte → Vector Word 8 × List Byte
  | 0, h, l => (h, l)
  | n + 1, h, l => if 128 ≤ l.length then hashBlocks n (hashBlock h (l.take 128)) (l.drop 128) else (h, l)
/-- Digest more bytes (11 R361). -/
def Digest.feed (x : Digest) (l : List Byte) : Digest :=
  let r := hashBlocks ((x.rest.length + l.length) / 128) x.h (x.rest ++ l)
  { h := r.1, bytes := x.bytes + BitVec.ofNat 64 l.length, rest := r.2 }

/-- What ends a message of so many bytes: a one bit, zeros, and its length in bits in 16 bytes, to a whole number of blocks (FIPS 180-4,
5.1.2). -/
def messageEnd (bytes : Nat) : List Byte :=
  [0x80] ++ List.replicate ((256 - 17 - bytes % 128) % 128) 0 ++ (leBytes 16 (8 * bytes)).reverse
/-- The digest of SHA-384: 48 bytes in its standard output order. -/
def Digest.final (x : Digest) : List Byte :=
  let tail := x.rest ++ messageEnd x.bytes.toNat
  ((hashBlocks 2 x.h tail).1.toList.take 6).flatMap (fun w => (leBytes 8 w.toNat).reverse)

/-- SHA-384 of a message. -/
def sha384 (l : List Byte) : List Byte := (Digest.init.feed l).final

end Sys2Proof.Machine
end

