-- ==== Sys2Proof/Machine/Rim.lean ====
section
/-! DEFINITION. The shape of the fabric: regions of a layout (05 R167), stations of the rim (02 R54 to R58), wheels and slot
owners (05 R168, R169), the values a configuration puts on the rim and the units that take them (R55). -/

namespace Sys2Proof.Machine

/-- Regions of a layout (05 R167). -/
def layoutRegions (layout : Nat) : Nat := if layout = 0 then 1 else if layout = 1 then 2 else if layout = 2 then 4 else 0
/-- The region of a cell (05 R167). -/
def cellRegion (layout cell : Nat) : Nat :=
  if layout = 0 then 0 else if layout = 1 then cell % 8 / 4 else cell % 8 / 4 + 2 * (cell / 32)
/-- The cells of a region, rising. -/
def regionCells (layout g : Nat) : List Nat := (List.range 64).filter (fun i => cellRegion layout i = g)
/-- Columns and rows of a cell index. -/
def cellCol (i : Nat) : Nat := i % 8
def cellRow (i : Nat) : Nat := i / 8

/-- The station of an edge cell (02 R56). -/
def cellStation (i : Nat) : Option Nat :=
  let x := i % 8
  let y := i / 8
  if y = 0 then some (x / 2)
  else if y = 7 then some (8 + (7 - x) / 2)
  else if x = 7 then some (4 + y / 2)
  else if x = 0 then some (12 + (7 - y) / 2)
  else none
/-- The station of a generator and of a matrix node (02 R56). -/
def agStation (g : Nat) : Nat := 2 * g
def mxStation (n : Nat) : Nat := n / 3 * 4 + 1 + n % 3

/-- The neighbour that output n, e, s, w (0 to 3) of a cell drives; none at the edge (02 R52). -/
def neighbour (i dir : Nat) : Option Nat :=
  if dir = 0 then (if i < 8 then none else some (i - 8))
  else if dir = 1 then (if i % 8 = 7 then none else some (i + 1))
  else if dir = 2 then (if 56 ≤ i then none else some (i + 8))
  else (if i % 8 = 0 then none else some (i - 1))

/-- The pair of a cluster (10, Gangs): the column number differs in bit 0. -/
def pairCluster (c : ClusterId) : ClusterId :=
  ⟨if c.val % 18 % 6 % 2 = 0 then c.val + 1 else c.val - 1, by split <;> omega⟩

/-- A route word (07 R223). -/
def routeOut (r : W32) (out : Nat) : Nat := bits r.toNat (14 - 3 * out) (12 - 3 * out)
def routeLane (r : W32) : Nat := bits r.toNat 29 27
def routeOfs (r : W32) : Nat := bits r.toNat 26 24
def routeVerl (r : W32) : Nat := bits r.toNat 31 30

/-- The word of a plane's slot; an unassigned one reads as NOP (it fails its load). -/
def Plane.word (p : Plane) (s : Nat) : CellWord := (cellWord (vgetD p.ops s ⟨0, 0⟩).word).getD CellWord.nop
/-- The route word that a slot names. -/
def Plane.route (p : Plane) (s : Nat) : W32 := vgetD p.routes (p.word s).route 0
/-- A slot's word reads port, or passes it on (07 R219, R223). -/
def Plane.readsPort (p : Plane) (s : Nat) : Bool :=
  (p.word s).sources.contains 60 || (List.range 5).any (fun o => routeOut (p.route s) o = 7)

/-- The stage predicates of a kernel's own S stages (05 R171). -/
def KernCfg.stages (c : KernCfg) (sp : BitVec 8) : BitVec 8 := sp &&& BitVec.ofNat 8 (2 ^ c.s - 1)
/-- The state that a kernel of a stopped or faulted region returns to. -/
def Kernel.recorded (k : Kernel) : KState := if k.st = .stopped || k.st = .faulted then k.was else k.st
/-- The slots of a kernel number. -/
def Kernel.slots (k : Kernel) : BitVec 32 := match k.cfg with | some c => c.slots | none => 0
def Kernel.owns (k : Kernel) (s : Nat) : Bool := k.slots.getLsbD s
/-- The kernel that owns a slot (05 R169). -/
def Region.owner (r : Region) (s : Nat) : Option (Fin 4) := (List.finRange 4).find? (fun k => (vget r.kernels k).owns s)
/-- The widest wheel that a region's kernels name (log 40). -/
def Region.wheel (r : Region) : Nat :=
  r.kernels.toList.foldl (fun m k => match k.cfg with | some c => Nat.max m (c.wm1 + 1) | none => m) 1

/-- The owner of a rim lane (02 R57). -/
def Cluster.laneOwner (cl : Cluster) (l : Nat) : Nat := bits cl.rimOwn.toNat (3 * l + 2) (3 * l)
def Cluster.region (cl : Cluster) (g : Nat) : Region := vgetD cl.fab.regions g Region.reset
def Cluster.cell (cl : Cluster) (i : Nat) : Cell := vgetD cl.fab.cells i Cell.reset
def Cluster.cellsOf (cl : Cluster) (g : Nat) : List Nat := regionCells cl.layout.toNat g

/-- Fields of a pattern block (02 R74). -/
def AgBlock.w (b : AgBlock) (i : Nat) : Nat := (vgetD b.words i 0).toNat
def AgBlock.kind (b : AgBlock) : Nat := bits (b.w 0) 63 62
def AgBlock.store (b : AgBlock) : Bool := bit (b.w 0) 61
def AgBlock.pres (b : AgBlock) : Nat := bits (b.w 0) 60 59
def AgBlock.esz (b : AgBlock) : Nat := 2 ^ bits (b.w 0) 58 57
def AgBlock.lanes (b : AgBlock) : Nat := let n := bits (b.w 0) 56 52; if n = 0 then 32 else n
def AgBlock.slot (b : AgBlock) : Nat := bits (b.w 0) 51 47
def AgBlock.lane (b : AgBlock) : Nat := bits (b.w 0) 46 44
def AgBlock.wrap (b : AgBlock) : Bool := bit (b.w 0) 43
def AgBlock.gran (b : AgBlock) : Bool := bit (b.w 0) 42
def AgBlock.lead (b : AgBlock) : Nat := let n := bits (b.w 0) 41 36; if n = 0 then 64 else n
def AgBlock.isrcGen (b : AgBlock) : Nat := bits (b.w 0) 35 33
def AgBlock.isrcBlk (b : AgBlock) : Nat := bits (b.w 0) 32 32
def AgBlock.stg (b : AgBlock) : Nat := bits (b.w 0) 31 29
/-- N0 to N3. -/
def AgBlock.n (b : AgBlock) (i : Nat) : Nat := bits (b.w 2) (16 * i + 15) (16 * i)
/-- S0 to S3, as 64-bit steps. -/
def AgBlock.s (b : AgBlock) (i : Nat) : Word := (BitVec.ofNat 32 (bits (b.w (3 + i / 2)) (32 * (i % 2) + 31) (32 * (i % 2)))).signExtend 64

/-- The blocks of a cluster's generators that are bound to a region: generator, block number, block. -/
def Cluster.blocks (cl : Cluster) (g : Nat) : List (Nat × Nat × AgBlock) :=
  (List.range 8).flatMap fun n =>
    let a := vgetD cl.fab.agens n Agen.reset
    match a.region with
    | some r =>
      if r.val = g then (List.range 4).filterMap (fun b => (vgetD a.blocks b none).map (fun x => (n, b, x))) else []
    | none => []
/-- A block is the index source of another (02 R76): it never fires. -/
def Cluster.isIndexSource (cl : Cluster) (g n b : Nat) : Bool :=
  (cl.blocks g).any (fun x => x.2.2.kind = 1 && x.2.2.isrcGen = n && x.2.2.isrcBlk = b)

/-- Fields of a matrix schedule entry (10 R240). -/
def mxMop (e : Word) : Nat := bits e.toNat 63 59
def mxSemi (e : Word) : Nat := bits e.toNat 58 56
def mxAfmt (e : Word) : Nat := bits e.toNat 55 52
def mxBfmt (e : Word) : Nat := bits e.toNat 51 48
def mxAcc (e : Word) : Nat := bits e.toNat 47 46
def mxAbuf (e : Word) : Nat := bits e.toNat 45 42
def mxBbuf (e : Word) : Nat := bits e.toNat 41 38
def mxKch (e : Word) : Nat := bits e.toNat 37 30
def mxQ (e : Word) : Nat := if mxKch e = 0 then 256 else mxKch e
def mxM (e : Word) : Nat := 16 * (bits e.toNat 29 27 + 1)
def mxN (e : Word) : Nat := 16 * (bits e.toNat 26 24 + 1)
def mxFlag (e : Word) (i : Nat) : Bool := bit e.toNat i
def mxSlot (e : Word) : Nat := bits e.toNat 15 11
/-- MSTA, MRD and MCVT (10 R322). -/
def mxOutput (e : Word) : Bool := mxMop e = 5 || mxMop e = 6 || mxMop e = 7

/-- A value put on the rim: station, lane, cycle modulo W. -/
structure Inject where
  station : Nat
  lane : Nat
  cyc : Nat
deriving DecidableEq, Repr

/-- What a slot's word drives: output n, e, s, w or rim (0 to 4), its source, and the cycle (07 R224), which may pass the wheel. -/
def Plane.drives (p : Plane) (s : Nat) : List (Nat × Nat × Nat) :=
  (List.range 5).filterMap fun o =>
    let code := routeOut (p.route s) o
    if code = 0 then none
    else some (o, code, if code = 1 then s + (p.word s).op.latency - 1 else s)

/-- The slots of a cell that its region's kernels own, below W. -/
def Region.ownedSlots (r : Region) (w : Nat) : List Nat := (List.range w).filter (fun s => (r.owner s).isSome)

/-- The rim injections of a cell: with OFS, from the slot's drives (07 R224). -/
def Cluster.cellInjects (cl : Cluster) (g w i : Nat) : List Inject :=
  match cellStation i with
  | none => []
  | some st =>
    let p := (cl.cell i).act
    ((cl.region g).ownedSlots w).flatMap fun s =>
      (p.drives s).filterMap fun d =>
        if d.1 = 4 then some ⟨st, routeLane (p.route s), (d.2.2 + routeOfs (p.route s) + 1) % w⟩ else none

/-- Every injection of a region over its wheel (02 R57). -/
def Cluster.injects (cl : Cluster) (g w : Nat) : List Inject :=
  (cl.cellsOf g).flatMap (cl.cellInjects g w) ++
  (cl.blocks g).filterMap (fun x =>
    if x.2.2.store || cl.isIndexSource g x.1 x.2.1 then none else some ⟨agStation x.1, x.2.2.lane, x.2.2.slot % w⟩) ++
  (List.range 12).flatMap (fun n =>
    let m := vgetD cl.fab.nodes n MNode.reset
    match m.region with
    | some r =>
      if r.val = g then
        m.act.toList.flatMap fun e =>
          if mxOutput e then
            (List.range (if mxMop e = 7 then 2 else 1)).map (fun j => ⟨mxStation n, mxBbuf e % 8, (mxSlot e + 1 + j) % w⟩)
          else []
      else []
    | none => [])

/-- The units that take from a lane at a station: the cycle modulo W in which the value must be present there, and whether the
unit is a rim tap (02 R55). -/
def Cluster.takers (cl : Cluster) (g w : Nat) : List (Inject × Bool) :=
  (cl.cellsOf g).flatMap (fun i =>
    match cellStation i with
    | none => []
    | some st =>
      if !(cl.cell i).rimTap then []
      else
        let p := (cl.cell i).act
        ((cl.region g).ownedSlots w).filterMap fun s =>
          if p.readsPort s then some (⟨st, routeLane (p.route s), (s + w - 1) % w⟩, true) else none) ++
  (cl.blocks g).filterMap (fun x =>
    if x.2.2.store then some (⟨agStation x.1, x.2.2.lane, x.2.2.slot % w⟩, false) else none)

/-- The station d hops on from a station along a lane (02 R54). -/
def hop (lane a d : Nat) : Nat := if lane < 4 then (a + d) % 16 else (a + 16 - d % 16) % 16

/-- The hops to an injection's destination station (02 R55). -/
def hops (takers : List (Inject × Bool)) (w : Nat) (x : Inject) : Nat :=
  (((List.range 15).map (· + 1)).find? (fun d =>
    takers.any (fun t => t.1.lane = x.lane && t.1.station = hop x.lane x.station d && t.1.cyc = (x.cyc + d) % w))).getD 15

/-- Every station and cycle that an injection occupies (02 R57). -/
def occupies (takers : List (Inject × Bool)) (w : Nat) (x : Inject) : List Inject :=
  (List.range (hops takers w x + 1)).map (fun d => ⟨hop x.lane x.station d, x.lane, (x.cyc + d) % w⟩)

/-- No two values meet on the rim (02 R57). -/
def Cluster.rimOk (cl : Cluster) (g w : Nat) : Bool :=
  let tk := cl.takers g w
  decide ((cl.injects g w).flatMap (occupies tk w)).Nodup

end Sys2Proof.Machine
end

