-- ==== Sys2Proof/Machine/FabImage.lean ====
section
/-! DEFINITION. The fabric-load image: header and records (07 R242, R243), and how the records of one cluster become its
configuration (02 R53, 05 R167, R185, 09 R311, 10 R324). -/

namespace Sys2Proof.Machine

/-- A check of an image: the offset of the failing record. -/
abbrev Chk := Except Nat
def require (off : Nat) (b : Bool) : Chk Unit := if b then .ok () else .error off

/-- Payload length of a record type (07 R243); DATA has 4 bytes or more. -/
def recLenOk (ty len : Nat) : Bool :=
  match ty with
  | 1 | 6 | 9 | 11 | 12 | 14 => len = 8
  | 2 | 7 => len = 16
  | 3 => len = 512
  | 4 => len = 32
  | 5 => len = 540
  | 8 => len = 64
  | 10 => len = 128
  | 13 => 4 ≤ len
  | _ => false
/-- UNIT, SUB and RGN of a record header (07 R242). -/
def recTargetOk (ty unit sub rgn : Nat) : Bool :=
  decide (unit ≤ (if 3 ≤ ty ∧ ty ≤ 7 then 63 else if ty = 8 then 7 else if ty = 9 then 23 else if ty = 10 then 11
    else if ty = 11 then 15 else 0)) &&
  decide (sub ≤ (if ty = 1 ∨ ty = 2 ∨ ty = 7 ∨ ty = 8 then 3 else 0)) &&
  decide (rgn ≤ (if ty = 2 ∨ ty = 8 ∨ ty = 10 then 3 else 0))
/-- Only the bits of a mask are set. -/
def within (x mask : Nat) : Bool := x &&& mask = x
/-- The 64-bit word at a byte of a payload. -/
def Rec.word (r : Rec) (i : Nat) : Nat := leNat ((r.data.drop (8 * i)).take 8)
/-- Reserved bits of a payload are zero (07 R243). -/
def Rec.restZero (r : Rec) : Bool :=
  match r.ty with
  | 1 => within (r.word 0) 0xFFFF0303
  | 2 => within (r.word 0) 0xFFFFFFFF1F77FFFF && within (r.word 1) 0xFFFFFFFF
  | 3 => (List.range 32).all (fun s =>
      ((r.data.drop (16 * s + 5)).take 3).all (· = 0) && ((r.data.drop (16 * s + 12)).take 4).all (· = 0))
  | 6 => within (r.word 0) 0xF
  | 7 => within (r.word 0) 0x1FFFFFFF3F3F && within (r.word 1) 0xFFFFFFFFFF
  | 9 => within (r.word 0) 0xFFF803F01F
  | 11 => within (r.word 0) 0xFF3F0000
  | 12 => within (r.word 0) 0x0FFF0FFF
  | 14 => within (r.word 0) 0x371F
  | _ => true

/-- The records of an image, from an offset on. -/
def parseRecs : Nat → Nat → List Byte → Chk (List Rec)
  | 0, off, b => if b.isEmpty then .ok [] else .error off
  | n + 1, off, b =>
    let f := fun o k => leNat ((b.drop o).take k)
    let size := 16 + (f 4 4 + 15) / 16 * 16
    let r : Rec := ⟨off, f 2 1, f 0 2, f 3 1, f 8 1, f 9 1, (b.drop 16).take (f 4 4)⟩
    if b.length < 16 || b.length < size || !recLenOk r.ty (f 4 4) || !recTargetOk r.ty r.unit r.sub r.rgn ||
        f 10 6 != 0 || !((b.drop (16 + f 4 4)).take (size - 16 - f 4 4)).all (· = 0) || !r.restZero then .error off
    else match parseRecs n (off + size) (b.drop size) with
      | .ok rest => .ok (r :: rest)
      | .error e => .error e

/-- What a record is for; two records for one target fail the load (07 R244). -/
def Rec.target (r : Rec) : Nat × Nat × Nat × Nat × Nat :=
  (r.ty, r.cl, r.unit, if r.ty = 12 then bits (r.word 0) 11 8 else if r.ty = 14 then bits (r.word 0) 4 0 else r.sub,
    if r.ty = 2 then r.rgn else 0)
/-- No target twice. -/
def noTwice : List Rec → Chk Unit
  | [] => .ok ()
  | r :: t =>
    match t.find? (fun x => r.ty != 13 && x.target = r.target) with
    | some x => .error x.off
    | none => noTwice t

/-- Parse a header (07 R242); the length of the image. -/
def headerOk (h : List Byte) : Bool :=
  let f := fun o n => leNat ((h.drop o).take n)
  f 0 4 = 0x4C4E4D46 && f 4 2 = 1 && decide (1 ≤ f 6 2) && decide (f 6 2 ≤ 72) && decide (64 ≤ f 8 8) && f 21 1 = 0 &&
    (h.drop 28).all (· = 0) && h.length = 64
def headerLength (h : List Byte) : Nat := leNat ((h.drop 8).take 8)

/-- Parse an image (07 R242 to R244, as far as its bytes alone show). -/
def parseLoad (img : List Byte) : Chk FabLoad := do
  let f := fun o n => leNat ((img.drop o).take n)
  require 0 (headerOk (img.take 64) && f 8 8 = img.length && f 24 4 = crc32 (img.drop 64))
  let rs ← parseRecs (f 22 2) 64 (img.drop 64)
  for r in rs do
    require r.off (decide (r.cl < f 6 2))
    require r.off (r.ty != 12 || (bits (r.word 0) 7 0 = r.cl && decide (bits (r.word 0) 23 16 < f 6 2)))
  noTwice rs
  return ⟨f 6 2, BitVec.ofNat 32 (f 16 4), BitVec.ofNat 8 (f 20 1), rs⟩

/-- The records of one image cluster. -/
def FabLoad.of (l : FabLoad) (i : Nat) : List Rec := l.recs.filter (fun r => r.cl = i)
/-- A record by type and unit. -/
def recAt (rs : List Rec) (ty unit : Nat) : Option Rec := rs.find? (fun r => r.ty = ty && r.unit = unit)
/-- The layout a cluster has after a load (07 R243, R244). -/
def loadLayout (cl : Cluster) (rs : List Rec) : Nat :=
  match rs.find? (fun r => r.ty = 1) with
  | some r => bits (r.word 0) 1 0
  | none => cl.layout.toNat
/-- The region a record configures. -/
def Rec.region (layout : Nat) (r : Rec) : Option Nat :=
  if r.ty = 1 then some r.sub
  else if r.ty = 2 || r.ty = 8 || r.ty = 10 then some r.rgn
  else if r.ty = 11 then some (bits (r.word 0) 25 24)
  else if 3 ≤ r.ty && r.ty ≤ 7 then some (cellRegion layout r.unit)
  else none
/-- The regions that a load configures: all, when it changes LAYOUT (05 R167, log 41). -/
def loadRegions (cl : Cluster) (rs : List Rec) : List Nat :=
  let layout := loadLayout cl rs
  if layout != cl.layout.toNat then [0, 1, 2, 3]
  else (List.range 4).filter (fun g => rs.any (fun r => r.region layout = some g))
/-- The records that take effect with a region's configuration: its own, its ports' STREAM records, and the MNCFG records of its
matrix nodes. -/
def regionRecs (cl : Cluster) (rs : List Rec) (g : Nat) : List Rec :=
  let layout := loadLayout cl rs
  let nodeRegion := fun n => match recAt rs 10 n with
    | some r => some r.rgn
    | none => (vgetD cl.fab.nodes n MNode.reset).region.map (·.val)
  let portRegion := fun p => match recAt rs 11 p with
    | some r => some (bits (r.word 0) 25 24)
    | none => (vgetD cl.fab.ports p Port.reset).cfg.map (fun x => x.region.val)
  rs.filter fun r =>
    r.region layout = some g || (r.ty = 9 && nodeRegion (r.unit / 2) = some g) ||
      (r.ty = 12 && portRegion (bits (r.word 0) 11 8) = some g)
/-- The records of no region that a load names. -/
def looseRecs (cl : Cluster) (rs : List Rec) : List Rec :=
  rs.filter (fun r => (r.ty = 9 || r.ty = 12) && (loadRegions cl rs).all (fun g => !(regionRecs cl rs g).contains r))

/-- A kernel in a state other than LOADED and RETIRED (09 R311). -/
def Kernel.live (k : Kernel) : Bool := k.cfg.isSome && k.st != .loaded && k.st != .retired
def Region.live (r : Region) : Bool := r.kernels.toList.any Kernel.live

/-- A KERNEL record (07 R243). -/
def Rec.kernCfg (r : Rec) : KernCfg :=
  let w := r.word 0
  ⟨BitVec.ofNat 32 (w / 2 ^ 32), bits w 28 24, bits w 22 20 + 1, bits w 18 16, bits w 15 0, BitVec.ofNat 32 (r.word 1)⟩
/-- A PORT record. -/
def Rec.portCfg (r : Rec) : PortCfg :=
  let w := r.word 0
  ⟨bit w 31, bit w 30, bit w 29, bit w 28, BitVec.ofNat 2 (bits w 27 26), ⟨bits w 25 24 % 4, Nat.mod_lt _ (by decide)⟩,
    bits w 21 16⟩
/-- A LIVE record. -/
def Rec.live (r : Rec) : Live :=
  let w := r.word 0
  ⟨bits w 5 0, bits w 13 8, BitVec.ofNat 16 (bits w 31 16), BitVec.ofNat 7 (bits w 38 32), BitVec.ofNat 4 (bits w 42 39),
    bit w 43, bit w 44, BitVec.ofNat 40 (r.word 1)⟩
/-- The planes of a cell: its OPLANE and RPLANE records, or NOP and zeros (07 R243). -/
def planeOf (rs : List Rec) (cell : Nat) : Plane :=
  { ops := match recAt rs 3 cell with
      | some r => Vector.ofFn fun s => ⟨BitVec.ofNat 40 (leNat ((r.data.drop (16 * s.val)).take 5)),
          BitVec.ofNat 32 (leNat ((r.data.drop (16 * s.val + 8)).take 4))⟩
      | none => Plane.reset.ops
    routes := match recAt rs 4 cell with
      | some r => Vector.ofFn fun s => BitVec.ofNat 32 (leNat ((r.data.drop (4 * s.val)).take 4))
      | none => Plane.reset.routes }

/-- A kernel under a load: one that is not live is LOADED anew; a live one keeps its run, and its record where the load names
none (log 42). A load sets the stage predicates of every kernel it configures to zero (02 R53). -/
def Kernel.install (k : Kernel) (cfg : Option KernCfg) : Kernel :=
  if k.live then { k with cfg := cfg <|> k.cfg, sp := if cfg.isSome then 0 else k.sp } else { Kernel.reset with cfg := cfg }

/-- A cell under a load, planes apart: CINIT, CELLCFG and LIVE (07 R243, 02 R53). Without a CINIT record the cell's v0 to v15 and p1 to
p7 stay as they are: DESIGN CHOICE, log 107. -/
def Cell.install (x : Cell) (rs : List Rec) (i : Nat) : Cell :=
  let cmd := match recAt rs 6 i with | some r => bits (r.word 0) 3 1 | none => 0
  let x := match recAt rs 5 i with
    | some r => { x with
        v := Vector.ofFn (fun j => ⟨BitVec.ofNat 256 (leNat ((r.data.drop (32 * j.val)).take 32)), 0, 0⟩)
        p := Vector.ofFn (fun j => if j.val = 0 then 0 else BitVec.ofNat 32 (leNat ((r.data.drop (508 + 4 * j.val)).take 4))) }
    | none => x
  { x with
    live := Vector.ofFn (fun k => match rs.find? (fun r => r.ty = 7 && r.unit = i && r.sub = k.val) with
      | some r => r.live
      | none => Live.none)
    rimTap := match recAt rs 6 i with | some r => bit (r.word 0) 0 | none => false
    cmdPort := BitVec.ofNat 3 cmd
    cmds := if x.cmdPort.toNat = cmd then x.cmds else [] }

/-- A generator under a load of region g (02 R73): in a live region an unchanged block keeps its position. -/
def Agen.install (a : Agen) (rs : List Rec) (n : Nat) (g : RegionIx) (live : Bool) : Agen :=
  let mine := rs.filter (fun r => r.ty = 8 && r.unit = n)
  if mine.isEmpty then (if a.region = some g then Agen.reset else a)
  else
    let keep := live && a.region = some g
    { region := some g
      blocks := Vector.ofFn fun b => match mine.find? (fun r => r.sub = b.val) with
        | none => none
        | some r =>
          let words : Vector Word 8 := Vector.ofFn fun j => BitVec.ofNat 64 (r.word j.val)
          match vget a.blocks b with
          | some o => if keep && o.words = words then some o else some ⟨words, AgPos.zero, AgPos.zero, [], AgPos.zero⟩
          | none => some ⟨words, AgPos.zero, AgPos.zero, [], AgPos.zero⟩
      takes := if keep then a.takes else []
      suspended := keep && a.suspended }

/-- A matrix node under a load of region g (10 R321, R324): its queue and accumulators stay. -/
def MNode.install (m : MNode) (rs : List Rec) (n : Nat) (g : RegionIx) : MNode :=
  match recAt rs 10 n with
  | some r => { m with
      region := some g
      act := Vector.ofFn (fun j => BitVec.ofNat 64 (r.word j.val))
      opos := Vector.replicate 16 0 }
  | none => if m.region = some g then { m with region := none, act := Vector.replicate 16 0 } else m

/-- A stream port under a load of region g (05 R178): in a live region a port with the same binding keeps its packets. -/
def Port.install (p : Port) (rs : List Rec) (n : Nat) (g : RegionIx) (live : Bool) : Port :=
  match recAt rs 11 n with
  | some r =>
    let c := r.portCfg
    match p.cfg with
    | some o =>
      if live && o.out = c.out && o.cell = c.cell && o.region = c.region then { p with cfg := some c, oldVer := o.ver }
      else { Port.reset with cfg := some c, oldVer := c.ver, peer := if o.out || c.out then none else p.peer }
    | none => { Port.reset with cfg := some c, oldVer := c.ver, peer := if c.out then none else p.peer }
  | none => match p.cfg with
    | some o => if o.region = g then Port.reset else p
    | none => p

/-- A memory node under MNCFG (02 R59, R60). Chunks that wait at it wait on, and are written under the new configuration (02 R61, R84). -/
def MemNode.install (m : MemNode) (rs : List Rec) (n : Nat) : MemNode :=
  match recAt rs 9 n with
  | some r =>
    let w := r.word 0
    { MemNode.reset with wait := m.wait, fillu := BitVec.ofNat 13 (bits w 39 27), bufu := BitVec.ofNat 6 (bits w 17 12), nb := BitVec.ofNat 5 (bits w 4 0) }
  | none => m

/-- FPMODE byte k with a byte written (06 R202): a mode of 6 or 7 leaves RND as it is. -/
def fpByteSet (m : Word) (k : Nat) (b : Nat) : Word :=
  let old := bits m.toNat (8 * k + 7) (8 * k)
  let v := b / 8 % 2 * 8 + (if b % 8 ≤ 5 then b % 8 else old % 8)
  BitVec.ofNat 64 (m.toNat - old * 2 ^ (8 * k) + v * 2 ^ (8 * k))

/-- RIMOWN with region g owning the lanes of a mask and no other (02 R57). -/
def rimOwnSet (own : BitVec 24) (g : Nat) (mask : Nat) : BitVec 24 :=
  BitVec.ofNat 24 (joinLanes ((List.range 8).map fun l =>
    if bit mask l then g else let o := bits own.toNat (3 * l + 2) (3 * l); if o = g then 4 else o))
where
  /-- Lane owners, 3 bits each. -/
  joinLanes : List Nat → Nat
    | [] => 0
    | x :: t => x + 8 * joinLanes t

/-- Install the records of one region, planes apart (09 R311). -/
def Cluster.installRegion (cl : Cluster) (g : RegionIx) (loadId : W32) (pver : BitVec 8) (rs : List Rec) : Cluster :=
  let live := (vget cl.fab.regions g).live
  let reg := rs.find? (fun r => r.ty = 1)
  let fab := { cl.fab with
    cells := Vector.ofFn (fun i =>
      if cellRegion cl.layout.toNat i.val = g.val then (vget cl.fab.cells i).install rs i.val else vget cl.fab.cells i)
    agens := Vector.ofFn (fun n => (vget cl.fab.agens n).install rs n.val g live)
    nodes := Vector.ofFn (fun n => (vget cl.fab.nodes n).install rs n.val g)
    ports := Vector.ofFn (fun n => (vget cl.fab.ports n).install rs n.val g live)
    regions := vmod cl.fab.regions g (fun r => { r with
      configured := true, loadId := loadId, ver := pver,
      kernels := Vector.ofFn (fun k => (vget r.kernels k).install
        ((rs.find? (fun x => x.ty = 2 && x.sub = k.val)).map Rec.kernCfg)) }) }
  { cl with
    fab := fab
    memNodes := Vector.ofFn (fun n => (vget cl.memNodes n).install rs n.val)
    rimOwn := match reg with
      | some r => rimOwnSet cl.rimOwn g.val (bits (r.word 0) 23 16)
      | none => cl.rimOwn
    fpMode := match reg with
      | some r => fpByteSet cl.fpMode g.val (bits (r.word 0) 31 24)
      | none => cl.fpMode }

/-- Write the active (or the standby) planes of a region's cells (05 R185). -/
def Cluster.installPlanes (cl : Cluster) (g : RegionIx) (standby : Bool) (rs : List Rec) : Cluster :=
  { cl with fab := { cl.fab with
    cells := Vector.ofFn (fun i =>
      let x := vget cl.fab.cells i
      if cellRegion cl.layout.toNat i.val = g.val then
        (if standby then { x with stb := planeOf rs i.val } else { x with act := planeOf rs i.val })
      else x) } }

/-- A change of LAYOUT removes every kernel of the old layout, together with its records (05 R167). -/
def Cluster.relayout (cl : Cluster) (layout : Nat) : Cluster :=
  if layout = cl.layout.toNat then cl
  else
    { cl with
      layout := BitVec.ofNat 2 layout
      rimOwn := 0x924924
      fab := { cl.fab with
        cells := cl.fab.cells.map (fun x => { x with
          act := Plane.reset, stb := Plane.reset, live := Vector.replicate 4 Live.none, rimTap := false, cmdPort := 0, cmds := [] })
        regions := cl.fab.regions.map (fun r => { Region.reset with
          sealedN := r.sealedN, drainedN := r.drainedN, drain := r.drain, flt := r.flt })
        ports := Vector.replicate 16 Port.reset
        agens := Vector.replicate 8 Agen.reset
        nodes := cl.fab.nodes.map (fun m => { m with region := none, act := Vector.replicate 16 0 }) } }

/-- Records of no named region: memory nodes that stand alone. -/
def Cluster.installLoose (cl : Cluster) (rs : List Rec) : Cluster :=
  { cl with memNodes := Vector.ofFn (fun n => (vget cl.memNodes n).install rs n.val) }

/-- A region of a cluster by number. -/
def rIx (g : Nat) : RegionIx := ⟨g % 4, Nat.mod_lt _ (by decide)⟩

/-- The configuration that a cluster would have with the whole load in effect. -/
def Cluster.withLoad (cl : Cluster) (l : FabLoad) (rs : List Rec) : Cluster :=
  let gs := loadRegions cl rs
  let parts := gs.map (fun g => (rIx g, regionRecs cl rs g))
  let base := (cl.relayout (loadLayout cl rs)).installLoose (looseRecs cl rs)
  parts.foldl (fun cl p =>
    if p.2.isEmpty then cl else (cl.installPlanes p.1 false p.2).installRegion p.1 l.loadId l.pver p.2) base

end Sys2Proof.Machine
end

