-- ==== Sys2Proof/Machine/FabCheck.lean ====
section
/-! DEFINITION. The static checks of a fabric load (07 R219 to R229, R240, R241, R244; 02 R50 to R59, R73 to R78; 05 R167 to
R184; 06 R203; 08 R254; 10 R321, R325, R326, R328), made on the configuration that the load would give. -/

namespace Sys2Proof.Machine

/-- The offset of a cluster's record, for a failure found in what it configures. -/
def offAt (rs : List Rec) (ty unit : Nat) : Nat := match recAt rs ty unit with | some r => r.off | none => 0

/-- A kernel's record (07 R243, 04 R120, 05 R169). -/
def KernCfg.ok (c : KernCfg) : Bool := c.scope ≤ 5 && decide (c.slots.toNat < 2 ^ (c.wm1 + 1))
/-- The kernels of a region own disjoint slots (05 R169). -/
def Region.slotsDisjoint (r : Region) : Bool :=
  (List.finRange 4).all (fun a => (List.finRange 4).all (fun b => a = b || ((vget r.kernels a).slots &&& (vget r.kernels b).slots) = 0))

/-- The windows of a cell (02 R50). -/
def Cell.windowsOk (x : Cell) : Bool :=
  x.live.toList.all (fun l => decide (l.rog + l.rsz ≤ 40) && decide (l.w.toNat < 2 ^ l.rsz)) &&
  (List.finRange 4).all (fun a => (List.finRange 4).all (fun b =>
    let p := vget x.live a
    let q := vget x.live b
    a = b || p.rsz = 0 || q.rsz = 0 || decide (p.rog + p.rsz ≤ q.rog) || decide (q.rog + q.rsz ≤ p.rog)))

/-- The ports of a cell: output or input. -/
def Cluster.portOf (cl : Cluster) (i : Nat) (out : Bool) : Option PortIx :=
  (List.finRange 16).find? (fun p => match (vget cl.fab.ports p).cfg with
    | some c => c.cell = i && c.out = out
    | none => false)
def Cluster.portsOf (cl : Cluster) (i : Nat) (out : Bool) : Nat :=
  ((List.finRange 16).filter (fun p => match (vget cl.fab.ports p).cfg with
    | some c => c.cell = i && c.out = out
    | none => false)).length
/-- The cell has a source for its port operand (07 R219). -/
def Cluster.hasPort (cl : Cluster) (i : Nat) : Bool := (cl.cell i).rimTap || (cl.portOf i false).isSome

/-- A slot below W names a route word (07 R225). An all-zero control word over a route word 0 of zeros names none (log 43). -/
def Plane.namesRoute (p : Plane) (s : Nat) : Bool := (vgetD p.ops s ⟨0, 0⟩).word != 0 || vgetD p.routes 0 0 != 0

/-- A slot's word reads port, as an operand or through the route that it names. -/
def Plane.wordReads (p : Plane) (s : Nat) : Bool := (p.word s).sources.contains 60 || (p.namesRoute s && p.readsPort s)
/-- What the word of a slot needs of its cell's ports, whether or not a kernel owns the slot (05 R168; 07 R219; 02 R58; 08 R285, R287,
R290). A slot below W reads port also through the route that it names. -/
def Cluster.wordPorts (cl : Cluster) (w i s : Nat) : Bool :=
  let x := cl.cell i
  let c := x.act.word s
  let reads := c.sources.contains 60 || (decide (s < w) && x.act.wordReads s)
  (!reads || cl.hasPort i) &&
  (match c.op with
    | .send => if c.mod = 1 then x.cmdPort != 0 else (cl.portOf i true).isSome
    | .steer => (cl.portOf i true).isSome
    | .rmark => match cl.portOf i true with
      | some p => (match (vget cl.fab.ports p).cfg with | some c => !c.punct | none => false)
      | none => false
    | _ => true)
/-- What the word of an owned slot needs of its kernel in the cell (02 R50, 06 R203): a slot without a kernel has neither a window nor
a rounding register. -/
def Cluster.wordOk (cl : Cluster) (g i s : Nat) : Bool :=
  let x := cl.cell i
  let w := x.act.word s
  match (cl.region g).owner s with
  | none => true
  | some k =>
    let lv := vget x.live k
    let rnd := bits cl.fpMode.toNat (8 * g + 2) (8 * g)
    (w.sources ++ w.dests).all (fun f => f < 16 || 55 < f || decide (f - 16 < lv.rsz)) &&
    (!(w.op.rounds && (w.mod % 8 = 5 || (w.mod % 8 = 6 && rnd = 5))) || lv.lfsr)

/-- The special-function pipeline (08 R254). -/
def Plane.specialOk (p : Plane) (w s : Nat) : Bool :=
  let x := p.word s
  !(x.op.special && (x.fmt = 4 || x.fmt = 5) && (p.word ((s + 1) % w)).op.special)

/-- A route word that a slot names (07 R225, 02 R52, R57). -/
def Cluster.routeOk (cl : Cluster) (pver g i s : Nat) : Bool :=
  let p := (cl.cell i).act
  let rw := p.route s
  routeVerl rw = pver % 4 && bits rw.toNat 23 15 = 0 &&
  (List.range 4).all (fun o => routeOut rw o = 0 ||
    (match neighbour i o with | some j => cellRegion cl.layout.toNat j = g | none => false)) &&
  (routeOut rw 4 = 0 || ((cellStation i).isSome && cl.laneOwner (routeLane rw) = g)) &&
  (List.range 5).all (fun o => routeOut rw o != 1 || (p.word s).op.routable)

/-- An output that a slot's route drives (07 R224): output, slot, cycle modulo W, OFS. -/
structure Drive where
  out : Nat
  slot : Nat
  cyc : Nat
  ofs : Nat
deriving DecidableEq, Repr
/-- The drives of a cell over the slots that name a route. -/
def Cluster.cellDrives (cl : Cluster) (w i : Nat) : List Drive :=
  let p := (cl.cell i).act
  ((List.range w).filter (fun s => p.namesRoute s)).flatMap fun s =>
    (p.drives s).map (fun d => ⟨d.1, s, d.2.2 % w, routeOfs (p.route s)⟩)
/-- Two drives of one cell agree (07 R225): no output is driven twice in a cycle, and no slot routes to the rim within the OFS of
another, counted from slot to slot. -/
def Drive.agree (w : Nat) (a b : Drive) : Bool :=
  a.out != b.out || (a.cyc != b.cyc &&
    (a.out != 4 || (decide (a.ofs < (b.slot + w - a.slot) % w) && decide (b.ofs < (a.slot + w - b.slot) % w))))
def drivesOk (w : Nat) : List Drive → Bool
  | [] => true
  | d :: t => t.all (d.agree w) && drivesOk w t

/-- The checks of a cell under its region's wheel. -/
def Cluster.checkCell (cl : Cluster) (rs : List Rec) (pver g i : Nat) : Chk Unit := do
  let r := cl.region g
  let w := r.wheel
  let x := cl.cell i
  let o3 := offAt rs 3 i
  let o4 := if (recAt rs 4 i).isSome then offAt rs 4 i else o3
  require o3 ((List.range 32).all (fun s => match cellWord (vgetD x.act.ops s ⟨0, 0⟩).word with
    | some c => c.ok
    | none => false))
  require (offAt rs 7 i) x.windowsOk
  require (offAt rs 7 i) ((List.finRange 4).all (fun k => vget x.live k = Live.none || (vget r.kernels k).cfg.isSome))
  require (offAt rs 6 i) (!x.rimTap || (cellStation i).isSome)
  require (offAt rs 6 i) (x.cmdPort = 0 || decide (((List.range 64).filter (fun j => (cl.cell j).cmdPort = x.cmdPort)).length = 1))
  require 0 (decide (cl.portsOf i true ≤ 1) && decide (cl.portsOf i false + (if x.rimTap then 1 else 0) ≤ 1))
  require o3 ((List.range 32).all (fun s => cl.wordPorts w i s))
  require o3 ((List.range w).all (fun s => cl.wordOk g i s && x.act.specialOk w s))
  require o4 ((List.range w).all (fun s => !x.act.namesRoute s || cl.routeOk pver g i s))
  require o4 ((List.range 8).all (fun j => vgetD x.act.routes j 0 = 0 ||
    (List.range w).any (fun s => x.act.namesRoute s && (x.act.word s).route = j)))
  require o4 (drivesOk w (cl.cellDrives w i))

/-- A pattern block by itself (02 R74, R78). -/
def AgBlock.ok (b : AgBlock) : Bool :=
  b.kind ≤ 2 && b.pres ≤ (if b.store then 1 else 2) && decide (b.lanes * b.esz ≤ 32) && bits (b.w 0) 28 0 = 0 &&
  (b.kind = 1 || bits (b.w 0) 35 32 = 0) && (List.range 4).all (fun i => decide (1 ≤ b.n i)) &&
  (b.kind = 1 || bits (b.w 5) 63 32 = 0) && bits (b.w 5) 31 0 = 0 && (b.kind = 2 || b.w 6 = 0) &&
  bits (b.w 7) 63 32 = 0 && (b.kind = 2 || bits (b.w 7) 31 0 = 0) && (b.pres = 0 || b.esz = 8)
/-- A pattern block in its region (02 R73, R76). -/
def Cluster.blockOk (cl : Cluster) (g w n b : Nat) (x : AgBlock) : Bool :=
  let all := cl.blocks g
  x.ok && decide (x.slot < w) &&
  (x.kind != 1 || (all.any (fun y => y.1 = x.isrcGen && y.2.1 = x.isrcBlk &&
      (y.2.2.kind = 0 && !y.2.2.store && y.2.2.esz = 4 && y.2.2.pres = 0 && y.2.2.stg = x.stg && y.2.2.slot = 0 && y.2.2.lane = 0)) &&
    decide ((all.filter (fun y => y.2.2.kind = 1 && y.2.2.isrcGen = x.isrcGen && y.2.2.isrcBlk = x.isrcBlk)).length = 1))) &&
  (cl.isIndexSource g n b ||
    (cl.laneOwner x.lane = g &&
      all.all (fun y => y.1 != n || y.2.1 = b || cl.isIndexSource g n y.2.1 || y.2.2.slot != x.slot)))

/-- MNCFG (02 R59). -/
def MemNode.cfgOk (m : MemNode) : Bool :=
  decide (2 ≤ m.nb.toNat) && decide (m.nb.toNat ≤ 16) && decide (1 ≤ m.bufu.toNat) && decide (m.nb.toNat * m.bufu.toNat ≤ 64) &&
  decide (1 ≤ m.fillu.toNat) && decide (m.fillu.toNat * 32 ≤ m.bufu.toNat * 4096)

/-- Bits of an element of an operand format (10 R328). -/
def mxBits (f : Nat) : Nat := if f ≤ 1 then 16 else if f = 4 then 4 else if f = 8 then 32 else if f = 9 then 1 else 8
/-- An MX operand format (10 R241). -/
def mxIsMx (f : Nat) : Bool := 4 ≤ f && f ≤ 6
/-- A permitted pair of formats (10 R326). -/
def mxPairOk (mmas : Bool) (semi a b : Nat) : Bool :=
  let e8 := fun f => f = 2 || f = 3
  let m8 := fun f => f = 5 || f = 6
  if semi = 0 then
    (e8 a && e8 b) || (m8 a && m8 b) || (a = 4 && m8 b) || (m8 a && b = 4) || (a = 4 && b = 4) ||
    (!mmas && ((a = 0 && b = 0) || (a = 1 && b = 1) || (a = 7 && b = 7) || (a = 8 && b = 8)))
  else if mmas then false
  else if semi ≤ 4 then a = b && (a = 8 || a = 0 || a = 7)
  else semi ≤ 6 && a = 9 && b = 9
/-- Bytes of A and B with scales and metadata (10 R328, R329): data and scales of A, of B, and metadata. -/
def mxABytes (e : Word) : Nat :=
  let k := if mxMop e = 2 then 16 else 32
  (mxM e * k * mxQ e * mxBits (mxAfmt e) + 7) / 8 + (if mxIsMx (mxAfmt e) then mxQ e * mxM e else 0)
def mxBBytes (e : Word) : Nat :=
  (32 * mxQ e * mxN e * mxBits (mxBfmt e) + 7) / 8 + (if mxIsMx (mxBfmt e) then mxQ e * mxN e else 0)
def mxMetaBytes (e : Word) : Nat := if mxMop e = 2 then mxQ e * mxM e * 4 else 0
/-- Bytes of a buffer and its number (02 R59, R62). -/
def MemNode.holds (m : MemNode) (buf bytes : Nat) : Bool :=
  decide (buf < m.nb.toNat) && decide (bytes ≤ m.bufu.toNat * 4096)

/-- A schedule entry that is not an all-zero MNOP (10 R240, R241, R321, R325, R326): the memory nodes of A and B, W, the region's
lanes, and whether a gang may span the pair. -/
def mxEntryOk (ma mb : MemNode) (w : Nat) (lane : Nat → Bool) (pairOk : Bool) (e : Word) : Bool :=
  let x := e.toNat
  let z := fun (hi lo : Nat) => decide (bits x hi lo = 0)
  let flags := fun (mask : Nat) => within (bits x 23 16) mask
  let mode := decide (mxSemi e ≤ 6)
  let laneOk := decide (mxBbuf e < 8) && lane (mxBbuf e)
  let t := bits x 10 0 = 0
  match mxMop e with
  | 1 => t && flags 0x1F &&
      decide (mxSemi e ≤ 6) && mxPairOk false (mxSemi e) (mxAfmt e) (mxBfmt e) &&
      (!mxFlag e 19 || (mxAfmt e != 4 && mxAfmt e != 9)) && (!mxFlag e 20 || (mxBfmt e != 4 && mxBfmt e != 9)) &&
      ma.holds (mxAbuf e) (mxABytes e) && mb.holds (mxBbuf e) (mxBBytes e)
  | 2 => t && flags 0x37 && mxSemi e = 0 && mxPairOk true 0 (mxAfmt e) (mxBfmt e) &&
      (!mxFlag e 20 || mxBfmt e != 4) &&
      ma.holds (mxAbuf e) (mxABytes e + (if mxFlag e 21 then 0 else mxMetaBytes e)) &&
      mb.holds (mxBbuf e) (mxBBytes e + (if mxFlag e 21 then mxMetaBytes e else 0))
  | 3 => t && z 58 48 && z 45 30 && z 23 16
  | 4 => t && z 58 48 && z 41 30 && flags 0x02 && ma.holds (mxAbuf e) (4 * mxM e * mxN e)
  | 5 => t && mode && (mxAfmt e = 7 || mxAfmt e = 8) && (mxBfmt e ≤ 3 || mxBfmt e = 7 || mxBfmt e = 8) &&
      z 45 42 && z 37 30 && flags 0x01 && laneOk
  | 6 => t && z 58 48 && z 45 42 && z 37 30 && flags 0x01 && laneOk
  | 7 => t && mode && mxAfmt e = 8 && 4 ≤ mxBfmt e && mxBfmt e ≤ 6 && z 45 42 && z 37 30 && flags 0x01 && laneOk &&
      bits x 26 24 % 2 = 1 && w != 1
  | 8 => t && mode && z 55 48 && z 37 30 && flags 0x06 && ma.holds (mxAbuf e) (4 * mxM e) && mb.holds (mxBbuf e) (4 * mxN e)
  | 9 => t && z 58 48 && mxAbuf e < 4 && z 41 16
  | 10 => t && z 58 46 && z 41 39 && 2 ≤ mxKch e && mxKch e ≤ 24 && z 29 16 && (mxBbuf e % 2 = 0 || pairOk)
  | _ => false

/-- A node's schedule (10 R321). -/
def Cluster.nodeOk (cl : Cluster) (g w n : Nat) (pairOk : Bool) (m : MNode) : Bool :=
  m.act.toList.all fun e => e = 0 ||
    (decide (mxSlot e < w) && ((cl.region g).owner (mxSlot e)).isSome &&
      mxEntryOk (vgetD cl.memNodes (2 * n) MemNode.reset) (vgetD cl.memNodes (2 * n + 1) MemNode.reset) w
        (fun l => cl.laneOwner l = g) pairOk e)

/-- Claims on what a region outside the load holds: ports, generators, nodes, lanes (05 R178, 02 R57, R73). -/
def Cluster.claimsOk (cl : Cluster) (rs : List Rec) : Chk Unit := do
  let gs := loadRegions cl rs
  let outside := fun (o : Option RegionIx) => match o with | some g => !gs.contains g.val | none => false
  for r in rs do
    if r.ty = 11 then
      require r.off (!outside ((vgetD cl.fab.ports r.unit Port.reset).cfg.map (·.region)))
    if r.ty = 8 then require r.off (!outside (vgetD cl.fab.agens r.unit Agen.reset).region)
    if r.ty = 10 then require r.off (!outside (vgetD cl.fab.nodes r.unit MNode.reset).region)
    if r.ty = 1 then
      require r.off ((List.range 8).all (fun l => !bit (r.word 0) (16 + l) ||
        ((cl.laneOwner l = 4 || gs.contains (cl.laneOwner l)) &&
          rs.all (fun q => q.ty != 1 || q.sub = r.sub || !bit (q.word 0) (16 + l)))))

/-- Record fields that depend on the layout and the target cluster (07 R243, R244, 02 R66, 05 R167, R178, R182). A DATA record whose
offset is below 0xC0_0000 and whose bytes run past it is refused: DESIGN CHOICE, log 106. -/
def Cluster.recordsOk (cl : Cluster) (rs : List Rec) : Chk Unit := do
  let layout := loadLayout cl rs
  let nreg := layoutRegions layout
  for r in rs do
    match r.ty with
    | 1 => require r.off (bits (r.word 0) 1 0 = layout && decide (r.sub < nreg) && bits (r.word 0) 9 8 = r.sub)
    | 2 => require r.off (decide (r.rgn < nreg) && r.kernCfg.ok)
    | 8 => do
      require r.off (decide (r.rgn < nreg))
      require r.off (rs.all (fun q => q.ty != 8 || q.unit != r.unit || q.rgn = r.rgn))
    | 10 => require r.off (decide (r.rgn < nreg))
    | 11 => do
      let c := r.portCfg
      require r.off (decide (c.region.val < nreg) && cellRegion layout c.cell = c.region.val && (!c.acq || c.punct))
    | 13 => require r.off (decide (leNat (r.data.take 4) < 0xC00000) && decide (leNat (r.data.take 4) + (r.data.length - 4) ≤ 0xC00000))
    | 14 => do
      let v := r.word 0
      let f := bits v 4 0
      let gl := bits v 10 8
      require r.off (gl ≤ 5 && bits v 13 12 != 3 && f % 2 ^ gl = 0 &&
        (List.range (2 ^ gl)).all (fun j =>
          let k := vgetD cl.banks (f + j) BankCfg.reset
          k.glog.toNat = gl && k.mode.toNat = bits v 13 12))
    | _ => return ()
  require 0 (layout != 3)

/-- The checks of one cluster's part of a load (07 R244). -/
def Cluster.checkLoad (cl : Cluster) (l : FabLoad) (rs : List Rec) (pairOk : Bool) : Chk Unit := do
  cl.recordsOk rs
  cl.claimsOk rs
  let gs := (loadRegions cl rs).filter (fun g => decide (g < layoutRegions (loadLayout cl rs)))
  let cl' := cl.withLoad l rs
  for r in rs do
    if r.ty = 7 then
      require r.off (vgetD (cl'.region (cellRegion cl'.layout.toNat r.unit)).kernels r.sub Kernel.reset).cfg.isSome
    if r.ty = 9 then
      require r.off (vgetD cl'.memNodes r.unit MemNode.reset).cfgOk
      let m := vgetD cl'.fab.nodes (r.unit / 2) MNode.reset
      require r.off (match m.region with
        | some g => gs.contains g.val || cl'.nodeOk g.val (cl'.region g.val).wheel (r.unit / 2) pairOk m
        | none => true)
  for g in gs do
    let w := (cl'.region g).wheel
    require 0 (cl'.region g).slotsDisjoint
    for i in cl'.cellsOf g do
      cl'.checkCell rs l.pver.toNat g i
    for b in cl'.blocks g do
      require (offAt rs 8 b.1) (cl'.blockOk g w b.1 b.2.1 b.2.2)
    for n in List.range 12 do
      let m := vgetD cl'.fab.nodes n MNode.reset
      require (offAt rs 10 n) (m.region != some (rIx g) || cl'.nodeOk g w n pairOk m)
    require 0 (cl'.rimOk g w)

/-- The STREAM records join output ports to input ports (05 R177, R178): the clusters after the load. -/
def streamsOk (l : FabLoad) (after : Nat → Cluster) : Chk Unit := do
  let dir := fun (i p : Nat) => (vgetD (after i).fab.ports p Port.reset).cfg.map (·.out)
  let ss := l.recs.filter (fun r => r.ty = 12)
  for r in ss do
    let w := r.word 0
    require r.off (dir (bits w 7 0) (bits w 11 8) = some true && dir (bits w 23 16) (bits w 27 24) = some false)
    require r.off (ss.all (fun q => q.off = r.off || bits (q.word 0) 27 16 != bits w 27 16))

end Sys2Proof.Machine
end

