-- ==== Sys2Proof/Machine/Xts.lean ====
section
/-! DEFINITION. AES-XTS-256 (03 R102), over blocks of sixteen bytes: the byte substitution by inversion in GF(2^8), the 15 round keys of a
256-bit key, a block forward and backward, and the four blocks of a 64-byte atom under a tweak. The key is 64 bytes, the data key first and
the tweak key after it, each little-endian; the 16 bytes of the tweak are Config.tweak of the atom's place (log 8). -/

namespace Sys2Proof.Machine

/-- Multiply by x in GF(2^8). -/
def gfDouble (a : Nat) : Nat := if a < 128 then 2 * a else (2 * a) ^^^ 0x11B
/-- The product in GF(2^8) of a and the low n bits of b. -/
def gfTimes (a : Nat) : Nat → Nat → Nat
  | 0, _ => 0
  | n + 1, b => gfDouble (gfTimes a n (b / 2)) ^^^ (if b % 2 = 1 then a else 0)
/-- a to the power 2^(n+1) - 2; for n = 7 the inverse, and 0 for 0. -/
def gfPower (a : Nat) : Nat → Nat
  | 0 => 1
  | n + 1 => let y := gfTimes (gfPower a n) 8 a; gfTimes y 8 y
/-- A byte turned left by n bits. -/
def turn8 (x n : Nat) : Nat := x * 2 ^ n % 256 + x / 2 ^ (8 - n)

/-- Byte substitution, and its inverse. -/
def xtsSub (x : Nat) : Nat :=
  let y := gfPower x 7
  [1, 2, 3, 4].foldl (fun s n => s ^^^ turn8 y n) (y ^^^ 0x63)
def xtsUnsub (x : Nat) : Nat := gfPower (turn8 x 1 ^^^ turn8 x 3 ^^^ turn8 x 6 ^^^ 0x05) 7

/-- Exclusive OR of two blocks. -/
def mixIn (a b : List Nat) : List Nat := (a.zip b).map (fun p => p.1 ^^^ p.2)

/-- The key words from word 8 on, newest first: each from the word eight before it and the one before it. -/
def keyWords : Nat → List (List Nat) → List (List Nat)
  | 0, ws => ws
  | n + 1, ws =>
    let ws := keyWords n ws
    let last := ws.headD []
    let stirred := match n % 8 with
      | 0 => mixIn ((last.drop 1 ++ last.take 1).map xtsSub) [(List.range (n / 8)).foldl (fun r _ => gfDouble r) 1, 0, 0, 0]
      | 4 => last.map xtsSub
      | _ => last
    mixIn (ws.getD 7 []) stirred :: ws

/-- The 15 round keys of 32 key bytes. -/
def roundKeys (key : List Nat) : List (List Nat) :=
  let ws := (keyWords 52 ((List.range 8).reverse.map (fun i => (key.drop (4 * i)).take 4))).reverse
  (List.range 15).map (fun r => ((ws.drop (4 * r)).take 4).flatten)

/-- Row r of the block moves by r columns: forward (1) or backward (3 = -1 modulo 4). -/
def moveRows (dir : Nat) (s : List Nat) : List Nat := (List.range 16).map (fun i => s.getD (i % 4 + 4 * ((i / 4 + dir * (i % 4)) % 4)) 0)
/-- Each column times a circulant matrix of GF(2^8), given by its first row. -/
def mixColumns (m : List Nat) (s : List Nat) : List Nat :=
  (List.range 16).map (fun i => (List.range 4).foldl (fun v j => v ^^^ gfTimes (s.getD (i / 4 * 4 + j) 0) 8 (m.getD ((j + 4 - i % 4) % 4) 0)) 0)

/-- One block under round keys. -/
def blockSeal (ks : List (List Nat)) (s : List Nat) : List Nat :=
  let s := (((ks.drop 1).take 13).foldl (fun s k => mixIn (mixColumns [2, 3, 1, 1] (moveRows 1 (s.map xtsSub))) k) (mixIn s (ks.headD [])))
  mixIn (moveRows 1 (s.map xtsSub)) (ks.getD 14 [])
/-- And back. -/
def blockOpen (ks : List (List Nat)) (s : List Nat) : List Nat :=
  let s := moveRows 3 (mixIn s (ks.getD 14 [])) |>.map xtsUnsub
  let s := ((ks.drop 1).take 13).reverse.foldl (fun s k => (moveRows 3 (mixColumns [14, 11, 13, 9] (mixIn s k))).map xtsUnsub) s
  mixIn s (ks.headD [])

/-- Bytes of a number as numbers. -/
def octets (n v : Nat) : List Nat := (List.range n).map (fun i => v / 256 ^ i % 256)
def ofOctets (l : List Nat) : Nat := l.foldr (fun b v => b + 256 * v) 0

/-- The mask of the next block: times x in GF(2^128). -/
def nextMask (t : Nat) : Nat := if t < 2 ^ 127 then 2 * t else (2 * t - 2 ^ 128) ^^^ 0x87

/-- The four blocks of an atom, each sealed or opened between two additions of its mask. -/
def xtsBlocks (f : List Nat → List Nat) : Nat → Nat → Nat → Nat
  | 0, _, _ => 0
  | n + 1, mask, v =>
    ofOctets (mixIn (f (mixIn (octets 16 (v % 2 ^ 128)) (octets 16 mask))) (octets 16 mask)) + 2 ^ 128 * xtsBlocks f n (nextMask mask) (v / 2 ^ 128)

/-- An atom under a key: sealed or opened (03 R102). -/
def xtsAtom (shut : Bool) (key : BitVec 512) (place : Nat) (data : BitVec 512) : BitVec 512 :=
  let k1 := roundKeys (octets 32 key.toNat)
  let k2 := roundKeys (octets 32 (key.toNat / 2 ^ 256))
  let mask := ofOctets (blockSeal k2 (octets 16 (Config.tweak place).toNat))
  BitVec.ofNat 512 (xtsBlocks (if shut then blockSeal k1 else blockOpen k1) 4 mask data.toNat)

/-- The bytes that an access under one key, or none, sees of an atom that is encrypted under another, or not: what memory holds is the
atom sealed under its own key, and the access opens it with its key (03 R102). -/
def crypt (stored view : Option (BitVec 512)) (place : Nat) (data : BitVec 512) : BitVec 512 :=
  let raw := match stored with
    | some k => xtsAtom true k place data
    | none => data
  match view with
  | some k => xtsAtom false k place raw
  | none => raw

end Sys2Proof.Machine
end

