-- ==== Sys2Proof/Machine/Home.lean ====
section
/-! DEFINITION. The homes of class 0, 1 and 2 memory: placement (03 R87, R101), the last-level SRAM (R89 to R92), ECC and
poison (R97, R98), encryption marks (R102), and accesses performed at the home (04 R121, R136). -/

namespace Sys2Proof.Machine

/-- Exclusive OR of the 5-bit groups of x (03 R89). -/
def foldN : Nat → Nat → Nat
  | 0, _ => 0
  | n + 1, x => (x % 32) ^^^ foldN n (x / 32)
/-- Fold5 of pa[51:9] (03 R89). -/
def fold5 (x : Nat) : Nat := foldN 9 x

/-- The interleaved row count of a stack (03 R86). -/
def Dev.rowsOf (d : Dev) (s : Nat) : Nat := 512 * (16 - (vgetD d.splitRsub s 0).toNat)
/-- Rmin over the stacks of CMAP (03 R87). -/
def Dev.rmin (d : Dev) (p : PartId) : Nat := (d.part p).mb.cmap.foldl (fun m pcx => Nat.min m (d.rowsOf (pcx / 96))) 8192
/-- The interleaved capacity of a partition (03 R87). -/
def Dev.cap0 (d : Dev) (p : PartId) : Nat := (d.part p).mb.cmap.length * 65536 * d.rmin p

/-- InterleavePlace (03 R87): global pseudo-channel, bank, row, byte of the row. -/
def Dev.place0 (d : Dev) (p : PartId) (off : Nat) : Nat × Nat × Nat × Nat :=
  let cm := (d.part p).mb.cmap
  let a := off / 512
  let u := a / cm.length
  (cm.getD (a % cm.length) 0, u / 2 % 64, u / 128, u % 2 * 512 + off % 512)

/-- RowPlace (03 R101), with a piece replaced by a spare (R114). -/
def Dev.place1 (d : Dev) (p : PartId) (s o : Nat) : Nat × Nat × Nat × Nat :=
  let k := (vgetD d.splitRsub s 0).toNat
  let fr := o / 98304
  let t := o % 98304
  let pcx := 96 * s + t / 1024
  ((tget (d.part p).mb.pieces pcx).getD pcx, fr % 64, 512 * (16 - k) + fr / 64, t % 1024)

/-- The class of a physical address (01 R26). -/
def paClass (pa : Nat) : Nat := pa / 2 ^ 48 % 16
/-- Bits [47:0]. -/
def paOff (pa : Nat) : Nat := pa % 2 ^ 48

/-- Storage key of a physical byte address of a partition. -/
def Dev.physKey (d : Dev) (p : PartId) (pa : Nat) : Nat :=
  if paClass pa = 0 then
    let (pcx, b, r, y) := d.place0 p (paOff pa)
    dramKey pcx b r y
  else if paClass pa = 1 then
    let (pcx, b, r, y) := d.place1 p (paOff pa / 2 ^ 36 % 16) (paOff pa % 2 ^ 36)
    dramKey pcx b r y
  else hostKey (paOff pa)

/-- The pseudo-channel of a class 0 or 1 address, for the map fence (03 R114). -/
def Dev.physPcx (d : Dev) (p : PartId) (pa : Nat) : Option Nat :=
  if paClass pa = 0 then some (d.place0 p (paOff pa)).1
  else if paClass pa = 1 then some (d.place1 p (paOff pa / 2 ^ 36 % 16) (paOff pa % 2 ^ 36)).1
  else none

/-- The host windows hold the address (17 R480). -/
def Dev.inHostWindow (d : Dev) (p : PartId) (a : Nat) : Bool :=
  let pf := (d.part p).pf
  (List.range 4).any fun i =>
    vgetD pf.hwEn i false && decide ((vgetD pf.hwBase i 0).toNat * 4096 ≤ a) &&
      decide (a ≤ (vgetD pf.hwLimit i 0).toNat * 4096 + 4095)

/-- The address lies in the partition's memory of its class (01 R26); windows are asked only when `win` (17 R480). -/
def Dev.inRange (d : Dev) (p : PartId) (pa : Nat) (win : Bool) : Bool :=
  if paClass pa = 0 then decide (paOff pa < d.cap0 p)
  else if paClass pa = 1 then
    let s := paOff pa / 2 ^ 36 % 16
    decide (paOff pa < 2 ^ 40) && decide (s < 12) && (vgetD d.splitOwner s 0xF).toNat == p.val &&
      decide (paOff pa % 2 ^ 36 < 0xC0000000 * (vgetD d.splitRsub s 0).toNat)
  else if paClass pa = 2 then !win || d.inHostWindow p (paOff pa)
  else false

/-- The home slice, 0 to 127 (03 R89). -/
def Dev.sliceOf (d : Dev) (p : PartId) (pa : Nat) : Nat :=
  let die :=
    if paClass pa = 0 then (d.place0 p (paOff pa)).1 / 96 / 3
    else if paClass pa = 1 then paOff pa / 2 ^ 36 % 16 / 3 else 0
  die * 32 + fold5 (pa / 512)

/-- The set of a superblock (03 R90). -/
def llsSet (pa : Nat) : Nat := bits pa 21 14 ^^^ bits pa 29 22

/-- One 64-byte atom: bytes, poison, the key it is encrypted under (03 R98, R102). -/
structure Atom where
  data : BitVec 512
  poison : Bool
  enc : Option (BitVec 512)
deriving DecidableEq, Repr

/-- Bytes of an atom. -/
def Atom.bytes (a : Atom) : List Byte := leBytes 64 a.data.toNat
/-- An atom from its bytes. -/
def atomData (l : List Byte) : BitVec 512 := BitVec.ofNat 512 (leNat l)

/-- A request is bound to the pseudo-channel of an address: where that one is under retirement, its slice holds the request (03 R114);
step withdraws the turn. -/
def Dev.bind_ (d : Dev) (p : PartId) (pa : Nat) : Dev :=
  match (d.part p).mb.retiring with
  | some (pcx, _) => if d.physPcx p pa = some pcx then { d with fenceMet := true } else d
  | none => d

/-- The latent error of one code word shows as it is read (03 R97): a corrected one is counted and written back, an uncorrectable one
poisons the atom, and counts where it was not poisoned. -/
def Dev.readWord (p : PartId) (d : Dev) (w : Nat) : Dev :=
  match tget d.dramErr w with
  | none => d
  | some false => { d.modMb p (fun b => { b with ceCnt := satAdd b.ceCnt 1 }) with dramErr := terase d.dramErr w }
  | some true =>
    let d := if smem d.poison (w / 4) then d else d.modMb p (fun b => { b with ueCnt := satAdd b.ueCnt 1 })
    { d with dramErr := terase d.dramErr w, poison := sins d.poison (w / 4) }

/-- The code words of an atom (03 R97). -/
def codeWords (ak : Nat) : List Nat := [4 * ak, 4 * ak + 1, 4 * ak + 2, 4 * ak + 3]

/-- Read an atom of DRAM or host memory, or with `narrow` only the 16 bytes at the address (03 R96, R97). -/
def Dev.memAtom (d : Dev) (p : PartId) (pa : Nat) (narrow : Bool) : Atom × Dev :=
  let key := d.physKey p (pa / 64 * 64)
  let ak := key / 64
  let d := (if narrow then [4 * ak + pa / 16 % 4] else codeWords ak).foldl (Dev.readWord p) (d.bind_ p pa)
  (⟨atomData (memReadN d.mem key 64), smem d.poison ak, tget d.enc ak⟩, d)

/-- Write an atom to DRAM or host memory: fresh check bits in all its code words. -/
def Dev.putMemAtom (d : Dev) (p : PartId) (pa : Nat) (a : Atom) : Dev :=
  let d := d.bind_ p pa
  let key := d.physKey p (pa / 64 * 64)
  let ak := key / 64
  { d with mem := memWriteN d.mem key a.bytes, poison := sput d.poison ak a.poison, enc := tput d.enc ak a.enc,
           dramErr := (codeWords ak).foldl terase d.dramErr }

/-- The atom of a line. -/
def LlsLine.atom (l : LlsLine) (i : Nat) : Atom :=
  ⟨BitVec.ofNat 512 (l.data.toNat / 2 ^ (512 * i)), l.poison.getLsbD i, vgetD l.enc i none⟩
/-- Replace an atom of a line. -/
def LlsLine.setAtom (l : LlsLine) (i : Nat) (a : Atom) : LlsLine :=
  let other := l.atom (1 - i)
  let lo := if i = 0 then a else other
  let hi := if i = 0 then other else a
  { l with data := BitVec.ofNat 1024 (lo.data.toNat + 2 ^ 512 * hi.data.toNat),
           poison := BitVec.ofNat 2 (b2n lo.poison + 2 * b2n hi.poison),
           enc := #v[lo.enc, hi.enc] }

def LlsLine.empty : LlsLine := ⟨false, false, 0, 0, #v[none, none]⟩

/-- The superblock that holds an address, in whatever slice it was allocated: where a retirement onto a spare of another die gives the address
another home die (R89), its superblock stays in the old slice, as R115 leaves the LLS alone, and one allocated later lies in the new (DESIGN
CHOICE, log 117). -/
def Dev.llsFind (d : Dev) (p : PartId) (pa : Nat) : Option LlsWay :=
  d.lls.find? (fun w => w.part = p && w.tag = pa / 512)

/-- The index of a line in its superblock. -/
def lineIx (pa : Nat) : Fin 4 := ⟨pa / 128 % 4, Nat.mod_lt _ (by decide)⟩

/-- Replace a superblock. -/
def Dev.llsPut (d : Dev) (w : LlsWay) : Dev :=
  { d with lls := d.lls.map (fun x => if x.part = w.part && x.tag = w.tag then w else x) }

/-- The tree of a set after way w is made most recently used (true) or least recently used (false): node 1 is the root, its bit
says which half to replace next (03 R91; log 12). -/
def plruTouch (t : Nat) (w : Nat) (mru : Bool) : Nat :=
  let path := [(1, w / 8 % 2), (2 + w / 8 % 2, w / 4 % 2), (4 + w / 4, w / 2 % 2), (8 + w / 2, w % 2)]
  path.foldl (fun t nb =>
    let side := if mru then 1 - nb.2 else nb.2
    let clr := if bit t (nb.1 - 1) then t - 2 ^ (nb.1 - 1) else t
    clr + side * 2 ^ (nb.1 - 1)) t

/-- The way to replace among the ways of a mask (03 R91; log 12): follow the tree, keeping to halves that hold an allowed way. -/
def plruVictim (t mask : Nat) : Nat :=
  let pick := fun (node lo size : Nat) =>
    let half := size / 2
    let has := fun l => (List.range half).any (fun i => bit mask (l + i))
    if !has lo then 1 else if !has (lo + half) then 0 else if bit t (node - 1) then 1 else 0
  let s3 := pick 1 0 16
  let s2 := pick (2 + s3) (8 * s3) 8
  let s1 := pick (4 + 2 * s3 + s2) (8 * s3 + 4 * s2) 4
  let s0 := pick (8 + 4 * s3 + 2 * s2 + s1) (8 * s3 + 4 * s2 + 2 * s1) 2
  8 * s3 + 4 * s2 + 2 * s1 + s0

/-- Mark a superblock used. -/
def Dev.plruUse (d : Dev) (w : LlsWay) (mru : Bool) : Dev :=
  let k := w.slice * 256 + w.set
  let t := ((tget d.plru k).getD 0).toNat
  { d with plru := tset d.plru k (BitVec.ofNat 15 (plruTouch t w.way mru)) }

/-- Write one line of a superblock back to memory when it is dirty. -/
def Dev.writeBackLine (d : Dev) (w : LlsWay) (i : Fin 4) : Dev :=
  let l := vget w.lines i
  if l.valid && l.dirty then
    let pa := w.tag * 512 + i.val * 128
    (d.putMemAtom w.part pa (l.atom 0)).putMemAtom w.part (pa + 64) (l.atom 1)
  else d

/-- Evict a superblock as a group (03 R92). -/
def Dev.evict (d : Dev) (w : LlsWay) : Dev :=
  let d := (List.finRange 4).foldl (fun d i => d.writeBackLine w i) d
  { d with lls := d.lls.filter (fun x => !(x.part = w.part && x.tag = w.tag)) }

/-- An uncorrectable error of a valid line poisons its atoms in the LLS and in memory, and UECNT counts those newly poisoned (03 R97,
R98). -/
def Dev.lineError (d : Dev) (w : LlsWay) (i : Fin 4) : Dev :=
  let l := vget w.lines i
  let ak := fun (h : Nat) => d.physKey w.part (w.tag * 512 + i.val * 128 + 64 * h) / 64
  if l.valid then
    { (d.llsPut { w with lines := vset w.lines i { l with poison := 3 } }).modMb w.part (fun b =>
        { b with ueCnt := satAdd b.ueCnt (b2n (!l.poison.getLsbD 0) + b2n (!l.poison.getLsbD 1)) }) with
      poison := sins (sins d.poison (ak 0)) (ak 1) }
  else d

/-- Allocate a superblock in the partition's ways (03 R91): an empty way first, else the tree's choice, evicted. None with an
empty mask. -/
def Dev.llsAlloc (d : Dev) (p : PartId) (pa : Nat) (stream : Bool) : Option Dev :=
  let mask := (d.part p).mb.ways.toNat
  if mask = 0 then none
  else
    let slice := d.sliceOf p pa
    let set := llsSet pa
    let here := d.lls.filter (fun w => w.slice = slice && w.set = set)
    let free := (List.range 16).find? (fun i => bit mask i && !here.any (fun w => w.way = i))
    let t := ((tget d.plru (slice * 256 + set)).getD 0).toNat
    let way := free.getD (plruVictim t mask)
    let d := match here.find? (fun w => w.way = way) with
      | some w => d.evict w
      | none => d
    let w : LlsWay := ⟨slice, set, way, p, pa / 512, Vector.replicate 4 LlsLine.empty⟩
    some ({ d with lls := d.lls ++ [w] }.plruUse w (!stream))

/-- The line of an address becomes valid in its superblock: filled from memory, or with `whole`, where a write of all its bytes
follows, without reading (03 R91). -/
def Dev.fillLine (d : Dev) (w : LlsWay) (pa : Nat) (whole : Bool) : LlsWay × Dev :=
  let base := pa / 128 * 128
  let (a0, d) := if whole then ((⟨0, false, none⟩ : Atom), d) else d.memAtom w.part base false
  let (a1, d) := if whole then ((⟨0, false, none⟩ : Atom), d) else d.memAtom w.part (base + 64) false
  let l := ((LlsLine.empty.setAtom 0 a0).setAtom 1 a1)
  let w := { w with lines := vset w.lines (lineIx pa) { l with valid := true, dirty := false } }
  (w, d.llsPut w)

/-- The line of an address is valid in the LLS. -/
def Dev.llsHit (d : Dev) (p : PartId) (pa : Nat) : Bool :=
  match d.llsFind p pa with
  | some w => (vget w.lines (lineIx pa)).valid
  | none => false

/-- Make the line of an address present, allocating under the policy (03 R91): none where the access is served from memory; `whole`: a
write of the whole line follows, and nothing is read. DESIGN CHOICE (log 12), as R91 places a superblock only when it is allocated: any
hit but one of CACHE = 2 makes its superblock most recently used, and filling a further line of a superblock moves the superblock to
the place at which the access's policy allocates, so that CACHE = 1 makes it least recently used. -/
def Dev.llsLine (d : Dev) (p : PartId) (pa : Nat) (cache : Nat) (narrow whole : Bool) : Option LlsWay × Dev :=
  match d.llsFind p pa with
  | some w =>
    if (vget w.lines (lineIx pa)).valid then (some w, if cache = 2 then d else d.plruUse w true)
    else if cache = 2 || narrow then (none, d)
    else
      let (w, d) := d.fillLine w pa whole
      (some w, d.plruUse w (cache != 1))
  | none =>
    if cache = 2 || narrow then (none, d)
    else match d.llsAlloc p pa (cache == 1) with
      | none => (none, d)
      | some d =>
        match d.llsFind p pa with
        | none => (none, d)
        | some w =>
          let (w, d) := d.fillLine w pa whole
          (some w, d)

/-- Read the atom of an address at its home (03 R91), as stored. -/
def Dev.homeAtom (d : Dev) (p : PartId) (pa : Nat) (cache : Nat) (narrow : Bool) : Atom × Dev :=
  match d.llsLine p pa cache narrow false with
  | (some w, d) => ((vget w.lines (lineIx pa)).atom (pa / 64 % 2), d)
  | (none, d) => d.memAtom p pa narrow

/-- The key of an access with this ENC (03 R102). -/
def Dev.keyOf (d : Dev) (p : PartId) (enc : Bool) : Option (BitVec 512) := if enc then (d.part p).key else none

/-- The place of an atom in an encryption: in the row region its stack and its offset in the frame (03 R102). -/
def tweakOf (pa : Nat) : Nat := if paClass pa = 1 then pa / 2 ^ 36 * 2 ^ 30 + pa % 2 ^ 36 % 98304 / 64 else pa / 64

/-- The bytes an access with this ENC sees of an atom: under the key it is encrypted with, its data; under another or none, what AES-XTS
makes of them (03 R102; log 8). -/
def Dev.view (d : Dev) (p : PartId) (pa : Nat) (enc : Bool) (a : Atom) : BitVec 512 :=
  if a.enc = d.keyOf p enc then a.data else crypt a.enc (d.keyOf p enc) (tweakOf pa) a.data

/-- Put an atom at its home: into a valid line, else into an allocated one, else to memory (03 R91). -/
def Dev.putHomeAtom (d : Dev) (p : PartId) (pa : Nat) (cache : Nat) (a : Atom) : Dev :=
  match d.llsLine p pa cache false false with
  | (some w, d) =>
    let l := (vget w.lines (lineIx pa)).setAtom (pa / 64 % 2) a
    d.llsPut { w with lines := vset w.lines (lineIx pa) { l with dirty := true } }
  | (none, d) => d.putMemAtom p pa a

/-- Put both atoms of a line at its home, in one write that reads no memory (03 R91). -/
def Dev.putHomeLine (d : Dev) (p : PartId) (pa : Nat) (cache : Nat) (a b : Atom) : Dev :=
  match d.llsLine p pa cache false true with
  | (some w, d) =>
    let l := ((vget w.lines (lineIx pa)).setAtom 0 a).setAtom 1 b
    d.llsPut { w with lines := vset w.lines (lineIx pa) { l with dirty := true } }
  | (none, d) => (d.putMemAtom p (pa / 128 * 128) a).putMemAtom p (pa / 128 * 128 + 64) b

/-- Replace bytes of an atom: cells by offset in the atom. -/
def patch (data : BitVec 512) (cells : List (Nat × Byte)) : BitVec 512 :=
  cells.foldl (fun v c =>
    let i := c.1 % 64
    BitVec.ofNat 512 (v.toNat - (v.toNat / 256 ^ i % 256) * 256 ^ i + c.2.toNat * 256 ^ i)) data

/-- Do the cells cover a whole atom? -/
def coversAtom (cells : List (Nat × Byte)) : Bool := (List.range 64).all (fun i => cells.any (fun c => c.1 % 64 = i))

/-- What the dispatcher finds in dependence n of a waiting instance (13 R414). -/
def Instance.findDep (i : Instance) (n v : Nat) (poison : Bool) : Instance :=
  if i.depFault || i.met.getLsbD n then i
  else if poison || bit v 63 then { i with depFault := true }
  else if (vgetD i.token (3 + 2 * n) 0).toNat ≤ v then { i with met := i.met ||| BitVec.ofNat 2 (2 ^ n) }
  else i
/-- The dispatcher's read of dependence n of an instance, where its word lies in the granule. -/
def Dev.noteDep (d : Dev) (granule : Nat) (i : Instance) (n : Nat) : Instance :=
  match vgetD i.watch n none with
  | some (pa, cache, enc) =>
    if d.physKey i.part pa / 64 = granule then
      let (a, _) := d.homeAtom i.part pa cache false
      i.findDep n (leNat (((leBytes 64 (d.view i.part pa enc a).toNat).drop (pa % 64)).take 8)) a.poison
    else i
  | none => i
/-- A write to a granule is performed at its home: monitors on it trigger (09 R307), and the dispatchers read the unmet dependences that
lie in it (13 R414). -/
def Dev.written (d : Dev) (by_ : Option (ClusterId × StrandIx)) (granule : Nat) : Dev :=
  let d := d.notify by_ granule
  { d with dies := d.dies.map (fun (x : Die) => { x with insts := x.insts.map (fun i =>
      if i.state = .waiting then d.noteDep granule (d.noteDep granule i 0) 1 else i) }) }

/-- Write cells (by physical address, all in one atom) at the home: a whole atom clears poison, a partial write keeps it
(03 R98); a poisoned write poisons. -/
def Dev.homeWrite (d : Dev) (p : PartId) (pa : Nat) (cache : Nat) (enc : Bool) (cells : List (Nat × Byte)) (poison : Bool)
    (by_ : Option (ClusterId × StrandIx)) : Dev :=
  let whole := coversAtom cells
  let (old, d) := if whole then ((⟨0, false, none⟩ : Atom), d) else d.homeAtom p pa cache false
  let base := if whole then 0 else d.view p pa enc old
  let a : Atom := ⟨patch base cells, poison || old.poison, if paClass pa = 2 then none else d.keyOf p enc⟩
  (d.putHomeAtom p pa cache a).written by_ (d.physKey p (pa / 64 * 64) / 64)

/-- Write the cells of a whole line, those of its two atoms, at the home (03 R91). -/
def Dev.homeWriteLine (d : Dev) (p : PartId) (pa : Nat) (cache : Nat) (enc : Bool) (lo hi : List (Nat × Byte)) (poLo poHi : Bool)
    (by_ : Option (ClusterId × StrandIx)) : Dev :=
  let key := if paClass pa = 2 then none else d.keyOf p enc
  let base := pa / 128 * 128
  ((d.putHomeLine p pa cache ⟨patch 0 lo, poLo, key⟩ ⟨patch 0 hi, poHi, key⟩).written by_ (d.physKey p base / 64)).written by_
    (d.physKey p (base + 64) / 64)

/-- Read bytes of one atom at the home: the bytes and whether the atom is poisoned. -/
def Dev.homeRead (d : Dev) (p : PartId) (pa n : Nat) (cache : Nat) (enc narrow : Bool) : (List Byte × Bool) × Dev :=
  let (a, d) := d.homeAtom p pa cache narrow
  (((leBytes 64 (d.view p pa enc a).toNat).drop (pa % 64) |>.take n, a.poison), d)

/-- The physical read and write of 8 bytes that the walker, the dispatcher and the fault queue make (01 R30, 13 R410), through
the LLS, in class 0, unencrypted. -/
def Dev.physRead8 (d : Dev) (p : PartId) (pa : Nat) : (Word × Bool) × Dev :=
  let ((bs, po), d) := d.homeRead p pa 8 0 false false
  ((leWord bs, po), d)
def Dev.physWrite8 (d : Dev) (p : PartId) (pa : Nat) (v : Word) : Dev :=
  d.homeWrite p pa 0 false ((leBytes 8 v.toNat).zipIdx.map (fun x => (pa + x.2, x.1))) false none

/-- n bytes from a physical address, atom by atom; the fuel is the number of atoms touched. -/
def Dev.physReadN (d : Dev) (p : PartId) : Nat → Nat → Nat → (List Byte × Bool) × Dev
  | 0, _, _ => (([], false), d)
  | fuel + 1, pa, n =>
    if n = 0 then (([], false), d)
    else
      let k := Nat.min n (64 - pa % 64)
      let ((bs, po), d) := d.homeRead p pa k 0 false false
      let ((bs', po'), d) := d.physReadN p fuel (pa + k) (n - k)
      ((bs ++ bs', po || po'), d)

/-- Write bytes at a physical address, atom by atom, a whole line at once. -/
def Dev.physWriteN (d : Dev) (p : PartId) : Nat → Nat → List Byte → Dev
  | 0, _, _ => d
  | fuel + 1, pa, bs =>
    if bs.isEmpty then d
    else if pa % 128 = 0 && decide (128 ≤ bs.length) then
      let cells := fun (l : List Byte) => l.zipIdx.map (fun x => (x.2, x.1))
      (d.homeWriteLine p pa 0 false (cells (bs.take 64)) (cells ((bs.drop 64).take 64)) false false none).physWriteN p fuel (pa + 128)
        (bs.drop 128)
    else
      let k := 64 - pa % 64
      let d := d.homeWrite p pa 0 false ((bs.take k).zipIdx.map (fun x => (pa + x.2, x.1))) false none
      d.physWriteN p fuel (pa + k) (bs.drop k)

end Sys2Proof.Machine
end

