-- ==== Sys2Proof/Machine/Access.lean ====
section
/-! DEFINITION. Accesses through a generic address: aperture decode (01 R14, R17), translation (R30 to R35), the fault queue
(R38 to R44), access counters (R45), the outbound buffer (04 R123), scratchpad banks (02 R63 to R67), export contexts
(17 R474) and requests to other devices (04 R161). -/

namespace Sys2Proof.Machine

/-- Why an access is not performed. -/
inductive XFault where
  | aperture | misaligned | protection | bankMoved | poison | doublePut
  /-- A translation fault with its cause code (01 R32) and the walk level. -/
  | walk (code level : Nat)
  /-- The target of a PEER access refused it (01 R18). -/
  | refused
  /-- The reply of another device is still to come. -/
  | remote
  /-- Held at its home or buffer; tried again later. -/
  | wait
deriving DecidableEq, Repr

/-- Accesses: a fault, or a value, with the device after it. -/
abbrev Acc := ExceptT XFault (StateM Dev)

/-- The issuer of an access. -/
structure Ctx where
  c : ClusterId
  who : Who
  id : Ident
  ap : Apertures
deriving DecidableEq, Repr

/-- The strand behind a context, for monitors (09 R307: a write by another agent). -/
def Ctx.by_ (x : Ctx) : Option (ClusterId × StrandIx) :=
  match x.who with
  | .strand k => some (x.c, k)
  | _ => none

/-- Apply a change to the device inside an access. -/
def accMod (f : Dev → Dev) : Acc Unit := modify f
/-- Run a stateful function inside an access. -/
def accRun {α : Type} (f : Dev → α × Dev) : Acc α := do
  let d ← get
  let (a, d) := f d
  set d
  return a

/-- Extents (01 R13). -/
def apExtent (id : Nat) : Nat :=
  match id with
  | 1 => 2 ^ 24 | 2 => 2 ^ 31 | 3 => 2 ^ 52 | 4 => 2 ^ 52 | 5 => 2 ^ 52 | 6 => 2 ^ 32 | _ => 0

/-- APBASE[n] and APLIMIT[n] (01 R14). -/
def Apertures.lo (a : Apertures) (n : Nat) : Nat := (vgetD a.base (n - 1) 0).toNat * 2 ^ 24
def Apertures.hi (a : Apertures) (n : Nat) : Nat := (vgetD a.limit (n - 1) 0).toNat * 2 ^ 24 + 0xFFFFFF

/-- The lowest window that holds the address; 0: none (01 R14). -/
def Apertures.window (a : Apertures) (ga : Nat) : Nat :=
  ([1, 2, 3, 4, 5, 6].find? (fun n => decide (a.lo n ≤ ga) && decide (ga ≤ a.hi n))).getD 0

/-- Decode (01 R14): aperture id and space-relative offset. -/
def Apertures.decode (a : Apertures) (ga : Nat) : Option (Nat × Nat) :=
  let id := a.window ga
  if id = 0 then none
  else if ga - a.lo id < apExtent id then some (id, ga - a.lo id) else none

/-- TLB slice and set of a virtual address (01 R33). -/
def tlbSlice (va : Nat) : Nat :=
  bits va 20 16 ^^^ bits va 25 21 ^^^ bits va 30 26 ^^^ bits va 35 31 ^^^ bits va 40 36 ^^^ bits va 45 41 ^^^ bits va 50 46 ^^^
    bits va 51 51
def tlbSet (va : Nat) : Nat := bits va 25 21 ^^^ bits va 40 36

/-- The checks of a leaf, in order (01 R30): the physical address, or the cause code of R32. -/
def Dev.leafCheck (d : Dev) (p : PartId) (e : Nat) (lvl va : Nat) (row : Bool) (kind : AccKind) (sup win : Bool) :
    Except Nat Nat :=
  let top := 16 + 9 * lvl
  let cls := bits e 51 48
  if lvl = 3 || bits e 15 13 != 0 || bits e 59 52 != 0 || bits e 12 11 = 3 then .error 2
  else if lvl > 0 && bits e (top - 1) 16 != 0 then .error 2
  else if cls > 2 || (bit e 9 != (cls == 1)) then .error 2
  else if (cls = 1 && bits e 47 40 != 0) || (cls = 2 && bit e 8) then .error 2
  else if row != bit e 9 then .error 7
  else
    let pa := bits e 51 16 * 65536 + va % 2 ^ top
    if !d.inRange p pa win then .error 8
    else if bit e 8 && (d.part p).key.isNone then .error 9
    else if kind = .write && !bit e 2 then .error 4
    else if !sup && !bit e 3 then .error 5
    else if kind = .fetch && !bit e 7 then .error 6
    else if bit e 10 then .error 10
    else .ok pa

/-- Look a virtual address up in the slices of a die (01 R33, R34). -/
def Dev.tlbFind (d : Dev) (die : DieId) (p : PartId) (asid : BitVec 16) (va : Nat) : Option TlbEntry :=
  (d.die die).tlb.find? fun t =>
    t.part = p && t.slice = tlbSlice va && t.set = tlbSet va && t.vpn = va / 2 ^ (16 + 9 * t.level) &&
      (bit t.entry.toNat 6 || t.asid = asid)

/-- Keep a leaf in its slice (01 R34): only in the partition's ways, an empty way first (log 11). -/
def Dev.tlbFill (d : Dev) (die : DieId) (p : PartId) (asid : BitVec 16) (lvl va : Nat) (e : Word) : Dev :=
  let mask := (d.part p).mb.ways.toNat
  if mask = 0 then d
  else
    let slice := tlbSlice va
    let set := tlbSet va
    let t := (d.die die).tlb.filter fun t =>
      !(t.part = p && t.slice = slice && t.set = set && t.level = lvl && t.vpn = va / 2 ^ (16 + 9 * lvl) && t.asid = asid)
    let here := t.filter (fun t => t.slice = slice && t.set = set)
    let ways := (List.range 16).filter (fun i => bit mask i)
    match ways.find? (fun i => !here.any (fun t => t.way = i)) with
    | some w => d.modDie die (fun x => { x with tlb := t ++ [(⟨slice, set, w, p, asid, lvl, va / 2 ^ (16 + 9 * lvl), e⟩ : TlbEntry)] })
    | none =>
      let w := ways.getD (Config.tlbVictim d.free % ways.length) 0
      let t := t.filter (fun t => !(t.slice = slice && t.set = set && t.way = w))
      { d with free := d.free + 1 }.modDie die
        (fun x => { x with tlb := t ++ [(⟨slice, set, w, p, asid, lvl, va / 2 ^ (16 + 9 * lvl), e⟩ : TlbEntry)] })

/-- Set A, and D for a write, by an atomic OR at the leaf's home (01 R31). -/
def Dev.setAD (d : Dev) (p : PartId) (ea : Nat) (kind : AccKind) : Word × Dev :=
  let ((v, _), d) := d.physRead8 p ea
  let v' := v ||| (if kind = .write then 0x30 else 0x10)
  (v', if v' = v then d else d.physWrite8 p ea v')

/-- What a walk answers. -/
inductive WalkResult where
  | ok (pa : Nat) (entry : Word)
  | fail (code level : Nat)
deriving DecidableEq, Repr

/-- Walk from a level down (01 R30): levels is the list of levels still to read, table the physical address of the table. -/
def Dev.walk (d : Dev) (die : DieId) (p : PartId) (asid : BitVec 16) (sup row : Bool) (kind : AccKind) (va : Nat) :
    List Nat → Nat → WalkResult × Dev
  | [], _ => (.fail 2 0, d)
  | lvl :: rest, table =>
    if !(paClass table == 0 && decide (paOff table + 4096 ≤ d.cap0 p)) then (.fail 3 lvl, d)
    else
      let ea := table + 8 * bits va (16 + 9 * lvl + 8) (16 + 9 * lvl)
      let ((ew, po), d) := d.physRead8 p ea
      let e := ew.toNat
      if po then (.fail 3 lvl, d)
      else if !bit e 0 then (.fail 1 lvl, d)
      else if !bit e 1 then
        if lvl = 0 || bits e 11 2 != 0 || bits e 63 52 != 0 then (.fail 2 lvl, d)
        else
          let vpn := va / 2 ^ (16 + 9 * lvl)
          let d := d.modDie die fun x =>
            { x with walk := x.walk.filter (fun w => !(w.part = p && w.asid = asid && w.level = lvl && w.vpn = vpn)) ++
              [(⟨p, asid, lvl, vpn, ew⟩ : WalkEntry)] }
          d.walk die p asid sup row kind va rest (bits e 51 12 * 4096)
      else
        match d.leafCheck p e lvl va row kind sup true with
        | .error c => (.fail c lvl, d)
        | .ok pa =>
          let (e', d) := d.setAD p ea kind
          (.ok pa e', d.tlbFill die p asid lvl va e')

/-- A fresh walk, or one that starts below a cached non-leaf entry (01 R34). -/
def Dev.walkFrom (d : Dev) (die : DieId) (p : PartId) (id : Ident) (row : Bool) (kind : AccKind) (va : Nat) : WalkResult × Dev :=
  let hit := fun lvl => (d.die die).walk.find? fun w =>
    w.part = p && w.asid = id.asid && w.level = lvl && w.vpn = va / 2 ^ (16 + 9 * lvl)
  match hit 1 with
  | some w => d.walk die p id.asid id.sup row kind va [0] (bits w.entry.toNat 51 12 * 4096)
  | none =>
    match hit 2 with
    | some w => d.walk die p id.asid id.sup row kind va [1, 0] (bits w.entry.toNat 51 12 * 4096)
    | none =>
      match hit 3 with
      | some w => d.walk die p id.asid id.sup row kind va [2, 1, 0] (bits w.entry.toNat 51 12 * 4096)
      | none => d.walk die p id.asid id.sup row kind va [3, 2, 1, 0] (id.root.toNat * 4096)

/-- Translate (01 R30, R34, R35): a cached leaf passes the leaf checks each time it is used; a cached leaf with D = 0 that
meets a write is walked again. With PTROOT.EN = 0 no level is read, and R40 does not say what LEVEL a record of that NOT_PRESENT holds: it
is 3, the level at which a walk begins (DESIGN CHOICE, log 115). -/
def Dev.translate (d : Dev) (die : DieId) (p : PartId) (id : Ident) (row : Bool) (kind : AccKind) (va : Nat) : WalkResult × Dev :=
  if !id.en then (.fail 1 3, d)
  else
    match d.tlbFind die p id.asid va with
    | some t =>
      match d.leafCheck p t.entry.toNat t.level va row kind id.sup false with
      | .error c => (.fail c t.level, d)
      | .ok pa =>
        if kind = .write && !bit t.entry.toNat 5 then d.walkFrom die p id row kind va
        else (.ok pa t.entry, d)
    | none => d.walkFrom die p id row kind va

/-- Count an access that has been performed (01 R45, R46): granules of 64 bytes, saturating 32-bit counters. -/
def Dev.countAccess (d : Dev) (p : PartId) (row : Bool) (va pa granules : Nat) : Dev :=
  let t := (d.part p).tr
  let on := !row && !t.accErr && ((t.accMode = 1 && paClass pa = 2) || (t.accMode = 2 && (paClass pa = 0 || paClass pa = 2)))
  let blk := va / 2 ^ 22
  if !on || blk < t.accFirst.toNat || t.accFirst.toNat + t.accBlocks.toNat ≤ blk then d
  else
    let a := t.accBase.toNat * 64 + 4 * (blk - t.accFirst.toNat)
    if !(paClass a == 0 && decide (paOff a + 4 ≤ d.cap0 p)) then d.modTr p (fun t => { t with accErr := true })
    else
      let ((bs, _), d) := d.homeRead p a 4 0 false false
      let v := Nat.min (leNat bs + granules) 0xFFFFFFFF
      d.homeWrite p a 0 false ((leBytes 4 v).zipIdx.map (fun x => (a + x.2, x.1))) false none

/-- Perform the increments of the turn's reads, after the accesses they count (01 R46). -/
def Dev.flushCounts (d : Dev) : Dev :=
  if d.counts.isEmpty then d
  else { d.counts.foldl (fun d e => d.countAccess e.part false e.va e.pa 1) d with counts := [] }
/-- An attempt that has read nothing in the end, as it waits and is made again, counts nothing: what it added to the device d0 it began at
is dropped. -/
def Dev.uncount (d d0 : Dev) : Dev := { d with counts := d0.counts }

/-- The GLOBAL virtual address that an access is counted under: only GLOBAL accesses are (01 R45). -/
def Ctx.countVa (x : Ctx) (ga : Word) : Option Nat :=
  match x.ap.decode ga.toNat with
  | some (3, off) => some off
  | _ => none

/-- Count an access of the given granules under its virtual address (01 R45). -/
def Dev.countVa (d : Dev) (p : PartId) (va : Option Nat) (pa granules : Nat) : Dev :=
  match va with
  | some v => d.countAccess p false v pa granules
  | none => d

/-- The fault queue lies in class 0 (01 R39). -/
def Dev.fqInside (d : Dev) (p : PartId) : Bool :=
  let t := (d.part p).tr
  let base := t.fqBase.toNat * 64
  let n := Nat.max 4 (Nat.min 16 t.fqLog2.toNat)
  paClass base == 0 && decide (paOff base + 64 + 32 * 2 ^ n ≤ d.cap0 p)

/-- Number of records the queue holds (01 R39). -/
def Translation.size (t : Translation) : Nat := 2 ^ Nat.max 4 (Nat.min 16 t.fqLog2.toNat)

/-- Write the header's word 0, HEAD, or word 1, OVFCOUNT, after that count has changed (01 R40). -/
def Dev.fqHead (d : Dev) (p : PartId) : Dev := d.physWrite8 p ((d.part p).tr.fqBase.toNat * 64) (d.part p).tr.fqHead
def Dev.fqOvf (d : Dev) (p : PartId) : Dev := d.physWrite8 p ((d.part p).tr.fqBase.toNat * 64 + 8) (d.part p).tr.fqOvfCount

/-- A read is counted when its turn ends, if the turn does not leave it to be made again (01 R45, R46). -/
def Dev.countRead (d : Dev) (p : PartId) (va : Option Nat) (pa : Nat) : Dev :=
  match va with
  | some v => { d with counts := d.counts ++ [⟨p, v, pa⟩] }
  | none => d

/-- Record a unit's translation fault (01 R38 to R43): agents is the bit of word 2. Each fault tests the place of the queue anew: R39 says of
QERR that recording stopped, and not that a set QERR keeps it stopped (DESIGN CHOICE, log 116). -/
def Dev.recordFault (d : Dev) (p : PartId) (c : ClusterId) (asid : BitVec 16) (va : Nat) (row write : Bool) (cause level : Nat)
    (agent : Nat) : Dev :=
  let t := (d.part p).tr
  if !t.fqEn then d.modTr p (fun t => { t with ovf := true })
  else if !d.fqInside p then d.modTr p (fun t => { t with qErr := true })
  else
    let base := t.fqBase.toNat * 64
    let blk := BitVec.ofNat 30 (va / 2 ^ 22)
    let aper : BitVec 3 := if row then 4 else 3
    let page := va / 65536 % 64
    let isMatch := fun (m : MergeRec) =>
      m.asid = asid && m.blk = blk && m.aper = aper && m.cause.toNat = cause && decide (t.fqClose ≤ m.seq)
    let rec0 := blk.toNat * 2 ^ 34 + asid.toNat * 2 ^ 18 + c.val * 2 ^ 11 + aper.toNat * 256 + cause * 16 + b2n write * 8
    match t.merge.find? isMatch with
    | some m =>
      let a := base + 64 + 32 * (m.seq.toNat % t.size)
      let ((w0, _), d) := d.physRead8 p a
      let ((w1, _), d) := d.physRead8 p (a + 8)
      let ((w2, _), d) := d.physRead8 p (a + 16)
      let cnt := Nat.min (w2.toNat / 2 ^ 48 + 1) 65535
      let w2' : Word := BitVec.ofNat 64 (cnt * 2 ^ 48 + w2.toNat % 2 ^ 48) ||| BitVec.ofNat 64 (2 ^ agent)
      ((d.physWrite8 p a (w0 ||| BitVec.ofNat 64 (b2n write * 8))).physWrite8 p (a + 8) (w1 ||| BitVec.ofNat 64 (2 ^ page))).physWrite8
        p (a + 16) w2'
    | none =>
      if t.fqHead.toNat - t.fqTail.toNat = t.size then
        (d.modTr p (fun t => { t with ovf := true, fqOvfCount := t.fqOvfCount + 1 })).fqOvf p
      else
        let a := base + 64 + 32 * (t.fqHead.toNat % t.size)
        let d := (((d.physWrite8 p a (BitVec.ofNat 64 rec0)).physWrite8 p (a + 8) (BitVec.ofNat 64 (2 ^ page))).physWrite8
          p (a + 16) (BitVec.ofNat 64 (2 ^ 48 + 2 ^ agent + level * 2 ^ 36))).physWrite8 p (a + 24) t.fqHead
        let d := d.modTr p (fun t => { t with
          fqHead := t.fqHead + 1,
          merge := (t.merge ++ [(⟨t.fqHead, asid, blk, aper, BitVec.ofNat 4 cause⟩ : MergeRec)]).drop (t.merge.length + 1 - 16) })
        d.fqHead p

/-- BankMap (02 R67): physical bank, line, byte. -/
def digitSum : Nat → Nat → Nat → Nat
  | 0, _, _ => 0
  | fuel + 1, l, g => l % 2 ^ g + digitSum fuel (l / 2 ^ g) g
def Cluster.bankMap (cl : Cluster) (o : Nat) : Nat × Nat × Nat :=
  let l := o / 2048
  let b := o / 64 % 32
  let y := o % 64
  let cfg := vgetD cl.banks b BankCfg.reset
  let g := cfg.glog.toNat
  let gg := 2 ^ g
  let i := b % gg
  let pi := if cfg.mode = 0 then i else if cfg.mode = 1 then i ^^^ (l % gg) else (i + digitSum 13 l g) % gg
  (b - i + pi, l, y)

/-- Storage key of a LOCAL scratchpad offset. -/
def Dev.scratchKeyOf (d : Dev) (c : ClusterId) (o : Nat) : Nat :=
  let (b, l, y) := (d.cl c).bankMap o
  scratchKey c.val b l y

/-- The bank checks of an access (02 R66, R72): the owner must be the issuer's partition, and BUSY faults. -/
def Dev.bankCheck (d : Dev) (p : Option PartId) (c : ClusterId) (o : Nat) : Option XFault :=
  let (b, _, _) := (d.cl c).bankMap o
  let cfg := vgetD (d.cl c).banks b BankCfg.reset
  if cfg.busy then some .bankMoved
  else match p with
    | some q => if cfg.owner.toNat = q.val then none else some .protection
    | none => some .protection

/-- An export offset at a partition (17 R474, R475): the target, or refused. The member id of the source must be set in the
target's DOMMAP when `src` names one (R482). -/
def Dev.exportTarget (d : Dev) (q : PartId) (src : Option Nat) (off : Nat) (write : Bool) : Option Target :=
  let pf := (d.part q).pf
  let listed := match src with
    | some m => pf.domMap.getLsbD m
    | none => true
  if !pf.expEn || (write && !pf.expWr) || !listed || (d.part q).state = .resetting then none
  else if off ≤ 0xDFFFFFFFFF then
    if off < d.cap0 q && off < pf.expLimit.toNat * 65536 then some (.phys q off 0 false) else none
  else if 0xF000000000 ≤ off && off ≤ 0xF07FFFFFFF then
    let x := off - 0xF000000000
    match clusterNo (x / 2 ^ 24) with
    | some c =>
      if d.partOf c = some q && pf.expSp && x % 2 ^ 24 < 0xC00000 && (d.bankCheck (some q) c (x % 2 ^ 24)).isNone then
        some (.scratch c (x % 2 ^ 24)) else none
    | none => none
  else none

/-- A refused incoming access is counted (17 R475). -/
def Dev.countPeerErr (d : Dev) (q : PartId) : Dev := d.modPf q (fun f => { f with peerErr := satAdd f.peerErr 1 })

/-- The partition of this device with a member id (17 R482). -/
def Dev.memberPart (d : Dev) (m : Nat) : Option PartId :=
  (List.finRange 8).find? (fun p => (d.part p).state != .off && (d.part p).pid.toNat = m)

/-- An MMIO block granted to a partition (17 R473). -/
def Dev.mmioGranted (d : Dev) (p : Option PartId) (off : Nat) : Bool :=
  match p with
  | none => false
  | some q =>
    if off < 0x480000 then
      match clusterNo (off / 0x10000) with
      | some c => d.partOf c = some q
      | none => false
    else off / 0x10000 = 0x100 + q.val

/-- A LOCAL-form offset of a cluster (02 R63). -/
def localTarget (c : ClusterId) (o : Nat) : Except XFault Target :=
  if o < 0xC00000 then .ok (.scratch c o)
  else if o < 0xF00000 then .ok (.node c (o / 2 ^ 17 - 0x60) (o % 2 ^ 17))
  else .error .aperture

/-- Resolve a generic address (01 R14, R17, R18, R30). -/
def resolve (x : Ctx) (ga : Word) (kind : AccKind) : Acc Target := do
  let d ← get
  let p := d.partOf x.c
  match x.ap.decode ga.toNat with
  | none => throw .aperture
  | some (id, off) =>
    if kind = .fetch && id != 1 && id != 3 then throw .aperture
    else if id = 1 then
      match localTarget x.c off with
      | .ok t => return t
      | .error e => throw e
    else if id = 2 then
      match clusterNo (off / 2 ^ 24) with
      | none => throw .aperture
      | some c =>
        if p.isNone || d.partOf c != p then throw .protection
        else if c != x.c && (match p with | some q => decide ((d.part q).state = .resetting) | none => false) then
          throw .protection
        else match localTarget c (off % 2 ^ 24) with
          | .ok t => return t
          | .error e => throw e
    else if id = 3 || id = 4 then
      match p with
      | none => throw (.walk (if x.id.en then 3 else 1) 3)
      | some q =>
        match d.translate (dieOf x.c) q x.id (id == 4) kind off with
        | (.fail c l, d) => do
          set d
          throw (.walk c l)
        | (.ok pa e, d) => do
          set d
          return .phys q pa (bits e.toNat 12 11) (bit e.toNat 8)
    else if id = 5 then
      match p with
      | none => throw .aperture
      | some q =>
        let m := off / 2 ^ 40
        if !(d.part q).pf.domMap.getLsbD m then throw .aperture
        else match d.memberPart m with
          | none => return .peer m (off % 2 ^ 40)
          | some r =>
            match d.exportTarget r (some (d.part q).pid.toNat) (off % 2 ^ 40) (kind = .write) with
            | some t => return t
            | none => do
              set (d.countPeerErr r)
              throw .refused
    else if !x.id.sup then throw .protection
    else if d.mmioGranted p off then return .mmio off
    else throw .protection

/-- Poison and bytes of a scratchpad line. -/
def Dev.scratchRead (d : Dev) (key n : Nat) : List Byte × Bool := (memReadN d.mem key n, smem d.poison (key / 64))

/-- Write cells by storage key, all in one 64-byte line or atom of a scratchpad or node (02 R64, 03 R98). -/
def Dev.arrayWrite (d : Dev) (cells : List (Nat × Byte)) (poison : Bool) (by_ : Option (ClusterId × StrandIx)) : Dev :=
  match cells with
  | [] => d
  | (k, _) :: _ =>
    let po := poison || (smem d.poison (k / 64) && !coversAtom cells)
    { d with mem := memWriteCells d.mem cells, poison := sput d.poison (k / 64) po }.notify by_ (k / 64)

/-- The strand that makes an access, for monitors (09 R307). -/
def Who.strandOf (w : Who) (c : ClusterId) : Option (ClusterId × StrandIx) :=
  match w with
  | .strand k => some (c, k)
  | _ => none

/-- A port with a path (17 R481). -/
def Dev.freePort (d : Dev) : Option LinkIx :=
  (List.finRange 12).find? (fun l => (vget d.links l).state = 2 || (vget d.links l).state = 3)

/-- A request to another device takes the next 16-bit sequence number of its source and target (17 R481), which it keeps when a port goes down and it
is sent again (R483). -/
def Dev.numberReq (d : Dev) (c : ClusterId) (r : Req) : Req × Dev :=
  if r.act.isNone then (r, d)
  else
    let key := ((d.partOf c).map (·.val)).getD 8 * 4096 + r.member
    let n := (tget d.seqs key).getD 0
    ({ r with seq := n }, { d with seqs := tset d.seqs key ((n + 1) % 65536) })

/-- Perform one buffered write at its home, where it is counted (01 R46); a write to another device is sent and stays outstanding until
its acknowledgement. -/
def Dev.perform (d : Dev) (c : ClusterId) (w : Pending) : Dev :=
  match w.dest with
  | .phys p cache enc =>
    match w.cells with
    | [] => d
    | (a, _) :: _ => (d.homeWrite p a cache.toNat enc w.cells w.poison (w.who.strandOf c)).countVa p w.va a 1
  | .peer m =>
    let sent : Req := { tag := w.tag, who := w.who, kind := .store, addr := w.addr, first := d.now, limit := 0, reissue := none, reply := none,
                        member := m, port := d.freePort, act := some (.write (w.cells.map (·.2))), off := (w.cells.map (·.1)).headD 0,
                        round := w.round }
    let (r, d) := d.numberReq c sent
    d.modCl c fun cl => { cl with reqs := cl.reqs ++ [r] }

/-- Two writes that are the two whole atoms of one line, through one page (03 R91). -/
def Pending.lineMates (a b : Pending) : Bool :=
  a.dest = b.dest && coversAtom a.cells && coversAtom b.cells &&
    (match a.dest, a.cells, b.cells with
     | .phys _ _ _, (x, _) :: _, (y, _) :: _ => x / 128 = y / 128 && x / 64 != y / 64
     | _, _, _ => false)

/-- Perform the two writes of a whole line in one (03 R91). -/
def Dev.performLine (d : Dev) (c : ClusterId) (a b : Pending) : Dev :=
  match a.dest, a.cells, b.cells with
  | .phys p cache enc, (x, _) :: _, (y, _) :: _ =>
    let lo := if x / 64 % 2 = 0 then a else b
    let hi := if x / 64 % 2 = 0 then b else a
    ((d.homeWriteLine p x cache.toNat enc lo.cells hi.cells lo.poison hi.poison (a.who.strandOf c)).countVa p a.va x 1).countVa p b.va y 1
  | _, _, _ => (d.perform c a).perform c b

/-- Perform writes in order, two that follow each other and make a whole line together (03 R91). -/
def Dev.performAll (d : Dev) (c : ClusterId) : List Pending → Dev
  | [] => d
  | [w] => d.perform c w
  | a :: b :: rest => if a.lineMates b then (d.performLine c a b).performAll c rest else (d.perform c a).performAll c (b :: rest)

/-- Two writes go to one home: a partition's memory, whatever the CACHE and ENC of their pages, or one member (04 R121). -/
def Dest.sameHome : Dest → Dest → Bool
  | .phys p _ _, .phys q _ _ => p = q
  | .peer m, .peer n => m = n
  | _, _ => false

/-- Two buffered writes touch a common location. -/
def Pending.overlaps (a b : Pending) : Bool :=
  a.dest.sameHome b.dest && a.cells.any (fun x => b.cells.any (fun y => x.1 = y.1))

/-- Every buffered write of a cluster leaves, oldest first (04 R123, R129; log 13). -/
def Dev.drain (d : Dev) (c : ClusterId) : Dev := (d.modCl c (fun cl => { cl with buffer := [] })).performAll c (d.cl c).buffer

/-- An export offset that another device maps to a scratchpad (17 R474): a write to it bypasses the outbound buffer (04 R123). -/
def peerBank (off : Nat) : Bool := decide (0xF000000000 ≤ off)

/-- A write enters the outbound buffer (04 R123), with the next tag. -/
def Dev.buffer_ (d : Dev) (c : ClusterId) (w : Pending) : Dev :=
  d.modCl c (fun cl => { cl with buffer := cl.buffer ++ [{ w with tag := cl.nextTag }], nextTag := cl.nextTag + 1 })

/-- A write is sent past the outbound buffer, with the next tag. -/
def Dev.sendNow (d : Dev) (c : ClusterId) (w : Pending) : Dev :=
  (d.modCl c (fun cl => { cl with nextTag := cl.nextTag + 1 })).perform c { w with tag := (d.cl c).nextTag }

/-- The buffered writes of one atom leave, oldest first (before an atomic at its home, 04 R136). -/
def Dev.drainAtom (d : Dev) (c : ClusterId) (p : PartId) (pa : Nat) : Dev :=
  let here := fun (w : Pending) => match w.dest, w.cells with
    | .phys q _ _, (a, _) :: _ => q = p && a / 64 = pa / 64
    | _, _ => false
  let buf := (d.cl c).buffer
  (buf.filter here).foldl (fun d w => d.perform c w) (d.modCl c (fun cl => { cl with buffer := cl.buffer.filter (fun w => !here w) }))

/-- The newest buffered bytes of an atom over the bytes at its home (04 R123). -/
def Dev.overlay (d : Dev) (c : ClusterId) (p : PartId) (pa : Nat) (data : BitVec 512) (poison : Bool) : BitVec 512 × Bool :=
  (d.cl c).buffer.foldl (fun (acc : BitVec 512 × Bool) w =>
    match w.dest, w.cells with
    | .phys q _ _, (a, _) :: _ =>
      if q = p && a / 64 = pa / 64 then (patch acc.1 w.cells, w.poison || (acc.2 && !coversAtom w.cells)) else acc
    | _, _ => acc) (data, poison)

/-- The bytes that the cluster's buffered writes hold of a range of another device's memory, newest first wins (04 R123). -/
def Dev.peerOverlay (d : Dev) (c : ClusterId) (m off n : Nat) : List (Option (Byte × Bool)) :=
  let ws := (d.cl c).buffer.filter (fun w => w.dest = .peer m) |>.reverse
  (List.range n).map (fun i => ws.findSome? (fun w => (w.cells.find? (fun e => e.1 = off + i)).map (fun e => (e.2, w.poison))))

/-- A write of the cluster to the range has been sent and is not acknowledged. -/
def Dev.peerUnacked (d : Dev) (c : ClusterId) (m off n : Nat) : Bool :=
  (d.cl c).reqs.any (fun r => r.kind = .store && r.member = m && r.reply.isNone &&
    (match r.act with
     | some (.write bs) => decide (r.off < off + n) && decide (off < r.off + bs.length)
     | some (.atomic _ k _) => decide (r.off < off + n) && decide (off < r.off + k)
     | some (.put _) => decide (r.off < off + n) && decide (off < r.off + 8)
     | _ => false))

/-- A signal operation of the strand on this word still waits (09 R319): its later accesses of the word come after it (04 R125). -/
def Dev.signalWaits (d : Dev) (x : Ctx) (t : Target) : Bool :=
  match x.who, t with
  | .strand k, .scratch h o => (d.cl x.c).signals.any (fun s => s.k = k && (match s.t with | .scratch h' o' => h' = h && o' / 8 = o / 8 | _ => false))
  | .strand k, .phys p pa _ _ =>
    (d.cl x.c).signals.any (fun s => s.k = k && (match s.t with | .phys q pb _ _ => q = p && pb / 8 = pa / 8 | _ => false))
  | .strand k, .peer m off => (d.cl x.c).signals.any (fun s => s.k = k && (match s.t with | .peer m' o' => m' = m && o' / 8 = off / 8 | _ => false))
  | _, _ => false

/-- What the cluster holds of a range of another device's memory before a read or an atomic of it goes out (04 R123, R125, R134): the
bytes, where buffered writes cover the range; else nothing, but the access waits until overlapping writes have left and are
acknowledged. -/
def peerLocal (x : Ctx) (m off n : Nat) (whole : Bool) : Acc (Option (List Byte × Bool)) := do
  let d ← get
  if d.signalWaits x (.peer m off) then throw .wait
  let here := d.peerOverlay x.c m off n
  if whole && here.all (·.isSome) && 0 < n then
    return some (here.filterMap (·.map (·.1)), here.any (fun b => match b with | some (_, po) => po | none => false))
  else if here.any (·.isSome) then do
    set (d.drain x.c)
    throw .wait
  else if d.peerUnacked x.c m off n then throw .wait
  else return none

/-- Add an outstanding request; its tag. -/
def Dev.addReq (d : Dev) (c : ClusterId) (r : Req) : Nat × Dev :=
  let tag := (d.cl c).nextTag
  let (r, d) := d.numberReq c r
  (tag, d.modCl c (fun cl => { cl with reqs := cl.reqs ++ [{ r with tag := tag }], nextTag := tag + 1 }))

/-- The kept replies of an agent's reads are dropped: they have been used. -/
def Dev.purgeReads (d : Dev) (c : ClusterId) (who : Who) : Dev :=
  d.modCl c (fun cl => { cl with reqs := cl.reqs.filter (fun r => !(r.who = who && r.reply.isSome)) })

/-- A read of another device by a generator or engine: bytes still in the outbound buffer (04 R123), or the reply when it has come, else
the request is made once (a reply of one byte more than was asked carries poisoned data, one of any other length refuses). The reply
is kept until the agent's unit of work is done (purgeReads). -/
def peerRead (x : Ctx) (ga : Word) (m off n : Nat) : Acc (List Byte × Bool) := do
  let d ← get
  match (d.cl x.c).reqs.find? (fun r => r.who = x.who && r.kind = .read m off n) with
  | some r =>
    match r.reply with
    | none => throw .remote
    | some bs =>
      if bs.length = n then return (bs, false)
      else if bs.length = n + 1 then return (bs.take n, true)
      else throw .refused
  | none => do
    match ← peerLocal x m off n true with
    | some b => return b
    | none => do
      let d ← get
      let r : Req := { tag := 0, who := x.who, kind := .read m off n, addr := ga, first := d.now, limit := 0, reissue := none,
                       reply := none, member := m, port := d.freePort, act := some (.read n), off := off }
      set (d.addReq x.c r).2
      throw .remote

/-- Read n bytes, all in one aligned 64-byte granule, from a resolved target; a read of memory is counted (01 R46). -/
def readT (x : Ctx) (ga : Word) (t : Target) (n : Nat) (narrow : Bool := false) : Acc (List Byte × Bool) := do
  let d ← get
  if d.signalWaits x t then throw .wait
  match t with
  | .scratch c o =>
    match d.bankCheck (d.partOf c) c o with
    | some e => throw e
    | none => return d.scratchRead (d.scratchKeyOf c o) n
  | .node _ _ _ => throw .aperture
  | .mmio _ => throw .aperture
  | .peer m off => peerRead x ga m off n
  | .phys p pa cache enc =>
    let (a, d) := d.homeAtom p pa cache narrow
    set (d.countRead p (x.countVa ga) pa)
    let (v, po) := d.overlay x.c p pa (d.view p pa enc a) a.poison
    return (((leBytes 64 v.toNat).drop (pa % 64)).take n, po)

/-- A byte of the range at a bank has been written in this cycle by another cluster or from outside (02 R64). -/
def Dev.sawRemote (d : Dev) (key n : Nat) : Bool := (List.range n).any (fun i => d.remoteNow.contains (key + i))

/-- A write at a bank by an agent of its cluster, or by one of another cluster or from outside, whose bytes remain in the cycle (02 R64; log 103). -/
def Dev.bankWrite (d : Dev) (remote : Bool) (cells : List (Nat × Byte)) (poison : Bool) (by_ : Option (ClusterId × StrandIx)) : Dev :=
  if remote then { d.arrayWrite cells poison by_ with remoteNow := d.remoteNow ++ cells.map (·.1) }
  else d.arrayWrite (cells.filter (fun y => !d.remoteNow.contains y.1)) poison by_

/-- Write bytes, all in one aligned 64-byte granule, at a resolved target: a scratchpad write is performed at the bank, one
to another device's scratchpad is sent, and any other enters the outbound buffer (04 R123). -/
def writeT (x : Ctx) (ga : Word) (t : Target) (cells : List (Nat × Byte)) (poison : Bool) (round : Nat := 0) : Acc Unit := do
  let d ← get
  if d.signalWaits x t then throw .wait
  match t with
  | .scratch c o =>
    match d.bankCheck (d.partOf c) c o with
    | some e => throw e
    | none =>
      let key := d.scratchKeyOf c (o / 64 * 64)
      set (d.bankWrite (c != x.c) (cells.map (fun y => (key + (o + y.1) % 64, y.2))) poison x.by_)
  | .node _ _ _ => throw .aperture
  | .mmio _ => throw .aperture
  | .peer m off =>
    let w : Pending := { dest := .peer m, cells := cells.map (fun y => (off + y.1, y.2)), poison := poison, who := x.who, addr := ga,
                         round := round }
    set (if peerBank off then d.sendNow x.c w else d.buffer_ x.c w)
  | .phys p pa cache enc =>
    set (d.buffer_ x.c { dest := .phys p (BitVec.ofNat 2 cache) enc, cells := cells.map (fun y => (pa + y.1, y.2)), poison := poison,
                         who := x.who, addr := ga, va := x.countVa ga, round := round })

/-- Bytes as cells from offset 0. -/
def cellsOf (bs : List Byte) : List (Nat × Byte) := bs.zipIdx.map (fun y => (y.2, y.1))

/-- A read-modify-write of n bytes at the home in one indivisible step (04 R136): f gives the new value, or none where nothing
is written; the old value is answered, and whether the atom is poisoned. An atom that was poisoned, or that takes a poisoned
operand, stays or becomes poisoned. The access is counted under the virtual address, if it has one (01 R46). At a bank, one from the bank's own
cluster comes a cycle after a remote write of its bytes (02 R64; log 103). -/
def rmwT (x : Ctx) (t : Target) (n : Nat) (f : Nat → Option Nat) (poison : Bool := false) (va : Option Nat := none) : Acc (Nat × Bool) := do
  let d ← get
  match t with
  | .scratch c o =>
    match d.bankCheck (d.partOf c) c o with
    | some e => throw e
    | none =>
      let key := d.scratchKeyOf c o
      if c = x.c && d.sawRemote key n then throw .wait
      let (bs, po) := d.scratchRead key n
      match f (leNat bs) with
      | none => return (leNat bs, po)
      | some v =>
        set (d.bankWrite (c != x.c) ((leBytes n v).zipIdx.map (fun y => (key + y.2, y.1))) (poison || po) x.by_)
        return (leNat bs, po)
  | .phys p pa cache enc =>
    let d := d.drainAtom x.c p pa
    let ((bs, po), d) := d.homeRead p pa n cache enc false
    match f (leNat bs) with
    | none => do
      set (d.countVa p va pa 1)
      return (leNat bs, po)
    | some v => do
      set ((d.homeWrite p pa cache enc ((leBytes n v).zipIdx.map (fun y => (pa + y.2, y.1))) (poison || po) x.by_).countVa p va pa 1)
      return (leNat bs, po)
  | _ => throw .aperture

/-- Earlier accesses of the cluster's agents are performed at a scope (04 R124, R129): from DIE outward every buffered write
leaves; from DOMAIN outward writes to other devices are also acknowledged, and until then the operation waits. -/
def release (c : ClusterId) (scope : Nat) : Acc Unit := do
  if scope < 2 then return ()
  let d ← get
  let d := d.drain c
  set d
  if 4 ≤ scope && (d.cl c).reqs.any (fun r => r.kind = .store && r.reply.isNone) then throw .wait

/-- A write to another device that a release of strand k orders: its own, or one that was made before the strand's last acquire and so
may happen before the release (04 R129, R130, R135). -/
def Dev.ordersStore (d : Dev) (c : ClusterId) (k : StrandIx) (r : Req) : Bool :=
  r.kind = .store && r.reply.isNone && (r.who = .strand k || decide (r.tag < (d.strand c k).acqTag))

/-- A write of another agent that a release fence of strand k has put before the strand's next write is not acknowledged yet (04 R131,
R133; the fence itself has not waited for it, R135). -/
def Dev.behindFence (d : Dev) (c : ClusterId) (k : StrandIx) : Bool :=
  (d.cl c).reqs.any (fun r => r.kind = .store && r.reply.isNone && decide (r.tag < (d.strand c k).relTag))
/-- A write of a strand comes after what its last release fence has put before it. -/
def pastFence (c : ClusterId) (k : StrandIx) : Acc Unit := do
  let d ← get
  if d.behindFence c k then throw .wait

/-- A release by a strand (04 R124, R129): its earlier signal operations are performed; from DIE outward the cluster's buffered
writes leave; from DOMAIN outward the writes to other devices that it orders are acknowledged. -/
def releaseBy (c : ClusterId) (k : StrandIx) (scope : Nat) : Acc Unit := do
  let d ← get
  if (d.cl c).signals.any (fun s => s.k = k) || d.behindFence c k then throw .wait
  if scope < 2 then return ()
  let d := d.drain c
  set d
  if 4 ≤ scope && (d.cl c).reqs.any (d.ordersStore c k) then throw .wait

/-- A release fence of a strand (04 R131, R135): its own earlier accesses are performed at the scope. It does not wait for those of other
agents: from DOMAIN outward, such of their writes to other devices as happen before it come before the strand's next write instead (R133). -/
def fenceBy (c : ClusterId) (k : StrandIx) (scope : Nat) : Acc Unit := do
  let d ← get
  if (d.cl c).signals.any (fun s => s.k = k) then throw .wait
  if scope < 2 then return ()
  let d := d.drain c
  set d
  if 4 ≤ scope then do
    if (d.cl c).reqs.any (fun r => r.kind = .store && r.reply.isNone && r.who = .strand k) then throw .wait
    set (d.modStrand c k (fun st => { st with relTag := st.acqTag }))

/-- An acquire by a strand: what the cluster's agents wrote before it may happen before the strand's later accesses (04 R130), and what was
written at the banks in this cycle comes before them (log 103). -/
def Dev.acquire (d : Dev) (c : ClusterId) (k : StrandIx) : Dev :=
  { d.modStrand c k (fun st => { st with acqTag := (d.cl c).nextTag }) with remoteNow := [] }

end Sys2Proof.Machine
end

