-- ==== Sys2Proof/Machine/Ops.lean ====
section
/-! DEFINITION. The named operations of strands: registers, the run of one instruction, taking a trap (09 R298, R299) and the
return from it, waiting, and the contexts under which a strand makes accesses. -/

namespace Sys2Proof.Machine

/-- The answer of a step of this machine. -/
abbrev Out := Host.Outcome State Fault Refusal

/-- g0 reads zero (09 R292). -/
def Strand.getG (st : Strand) (r : GReg) : Word := if r.val = 0 then 0 else vget st.g r
/-- A write to g0 is discarded (09 R292). -/
def Strand.setG (st : Strand) (r : GReg) (v : Word) : Strand := if r.val = 0 then st else { st with g := vset st.g r v }
def Strand.getF (st : Strand) (r : FReg) : W32 := vget st.f r
def Strand.setF (st : Strand) (r : FReg) (v : W32) : Strand := { st with f := vset st.f r v }

/-- Out of WAIT, into what the strand was (05 R166). -/
def StrandState.resume : StrandState → StrandState
  | .wait _ h => if h then .trap else .run
  | x => x
/-- Into WAIT. -/
def StrandState.waiting (x : StrandState) (w : WaitFor) : StrandState :=
  match x with
  | .wait _ h => .wait w h
  | .trap => .wait w true
  | _ => .wait w false

/-- The instruction is complete: the program counter moves on by n bytes, and a wait is over. -/
def Strand.advance (st : Strand) (n : Word) : Strand := { st with pc := st.pc + n, state := st.state.resume }
/-- The instruction is complete and goes to a target. -/
def Strand.goto (st : Strand) (t : Word) : Strand := { st with pc := t, state := st.state.resume }

/-- Trap entry (09 R298): TRAPCAUSE, TRAPPC and TRAPVAL written, PPRIV and PIE saved, supervisor with IE = 0, fetch at
TRAPVEC. -/
def Strand.enterTrap (st : Strand) (cause : Cause) (sub : BitVec 8) (val pc : Word) : Strand :=
  { st with
    trapCause := cause.code, trapSub := sub, trapPc := pc, trapVal := val,
    ppriv := st.priv, pie := st.ie, priv := true, ie := false,
    pc := st.trapVec.setWidth 64 <<< 2, state := .trap, atVector := true }

/-- The return from a trap (09 R298). -/
def Strand.leaveTrap (st : Strand) : Strand := { st with pc := st.trapPc, priv := st.ppriv, ie := st.pie, state := .run }

/-- The strand that runs. -/
def State.me (s : State) : Strand := s.dev.strand s.curC s.curK
/-- Register r of the strand that runs. -/
def State.g (s : State) (r : GReg) : Word := s.me.getG r
/-- Change the strand that runs. -/
def State.modMe (s : State) (f : Strand → Strand) : State := { s with dev := s.dev.modStrand s.curC s.curK f }
/-- Complete an instruction that writes v to g[d] and does nothing else. -/
def State.writeG (s : State) (d : GReg) (v : Word) : State := s.modMe (fun st => (st.setG d v).advance 4)
/-- A synchronous trap of the strand that runs, at its own instruction (09 R299). -/
def State.trapHere (s : State) (cause : Cause) (sub : BitVec 8) (val : Word) : State :=
  s.modMe (fun st => st.enterTrap cause sub val st.pc)

/-- Why a strand's instruction does not complete. -/
inductive Err where
  /-- A synchronous trap, TRAPPC at the instruction. -/
  | trap (cause : Cause) (sub : BitVec 8) (val : Word)
  /-- The strand waits; the instruction is not complete. -/
  | wait (w : WaitFor)
  /-- The strand waits, and attempts the instruction again under the aperture set of its issue (01 R16). -/
  | again
deriving DecidableEq, Repr

/-- A strand's program: the device, and the end of the instruction. -/
abbrev M := ExceptT Err (StateM Dev)

/-- Where an instruction goes on: the next word, or a target. -/
abbrev Next := Option Word

/-- The identity under which a strand acts (01 R20). -/
def Strand.ident (st : Strand) : Ident := ⟨st.priv, st.asid, st.ptRoot, st.ptEn⟩

/-- The aperture set of a strand's instruction: its cluster's, or that of its issue where it is attempted again (01 R16). -/
def Dev.strandAp (d : Dev) (c : ClusterId) (k : StrandIx) : Apertures :=
  match (d.strand c k).state with
  | .wait (.retry ap) _ => ap
  | _ => (d.cl c).ap
/-- The context of a strand's accesses. -/
def Dev.strandCtx (d : Dev) (c : ClusterId) (k : StrandIx) : Ctx := ⟨c, .strand k, (d.strand c k).ident, d.strandAp c k⟩

/-- Run a strand's program (09 R299: a trapped instruction has no effect beyond its walks). One that is attempted again counts its reads only when
it completes (01 R45). -/
def State.runM (s : State) (prog : M Next) : Out :=
  match prog s.dev with
  | (.ok none, d) => .next { s with dev := d.modStrand s.curC s.curK (fun st => st.advance 4) }
  | (.ok (some t), d) => .next { s with dev := d.modStrand s.curC s.curK (fun st => st.goto t) }
  | (.error (.trap c sub v), d) => .next { s with dev := d.modStrand s.curC s.curK (fun st => st.enterTrap c sub v st.pc) }
  | (.error (.wait w), d) =>
    .next { s with dev := d.modStrand s.curC s.curK (fun st => { st with state := st.state.waiting w }) }
  | (.error .again, d) => .next { s with dev := { d with counts := [] }.modStrand s.curC s.curK (fun st =>
      { st with state := st.state.waiting (.retry (s.dev.strandAp s.curC s.curK)) }) }

/-- Raise a trap. -/
def trapM {α : Type} (c : Cause) (v : Word) : M α := throw (.trap c 0 v)
/-- Wait and attempt the instruction again. -/
def retryM {α : Type} : M α := throw .again

/-- The trap of a failed access (01 R32, 14 R425). PEER refusals and replies to come are settled before this. -/
def XFault.toErr (e : XFault) (ga : Word) : Err :=
  match e with
  | .aperture => .trap .aperture 0 ga
  | .misaligned => .trap .misaligned 0 ga
  | .protection => .trap .protection 0 ga
  | .bankMoved => .trap .bankMoved 0 ga
  | .poison => .trap .poison 0 ga
  | .doublePut => .trap .presenceDoublePut 0 ga
  | .walk code _ =>
    .trap (if code ≤ 3 then .pageFault else if code = 10 then .poison else .protection) (BitVec.ofNat 8 code) ga
  | .refused => .trap .protection 0xFF ga
  | .remote => .again
  | .wait => .again

/-- An access inside a strand's program. -/
def liftAcc {α : Type} (ga : Word) (a : Acc α) : M α := do
  let d ← get
  match a d with
  | (.ok x, d) => do
    set d
    return x
  | (.error e, d) => do
    set d
    throw (e.toErr ga)

/-- An access whose refusal by its PEER target is told apart (01 R18). -/
def tryAcc {α : Type} (ga : Word) (a : Acc α) : M (Option α) := do
  let d ← get
  match a d with
  | (.ok x, d) => do
    set d
    return some x
  | (.error .refused, d) => do
    set d
    return none
  | (.error e, d) => do
    set d
    throw (e.toErr ga)

/-- Hold a report at its source: a further one replaces it (14 R427). -/
def Dev.report (d : Dev) (r : Report) : Dev := { d with reports := d.reports.filter (fun x => x.src != r.src) ++ [r] }

/-- The PEER refusal of a strand (01 R18, 09 R299). -/
def Dev.peerRefusal (d : Dev) (c : ClusterId) (k : StrandIx) (ga : Word) : Dev :=
  d.report ⟨.peer c k, c, k, .protection, 0xFF, ga⟩

/-- The order in which pending reports are taken (14 R427). -/
def Source.rank : Source → Nat
  | .watchdog _ => 0
  | .preempt i => 1 + i
  | .region c r => 2 ^ 33 + c.val * 4 + r.val
  | .engine c q => 2 ^ 34 + q.val * 128 + c.val
  | .spill _ => 2 ^ 35
  | .sigst _ _ => 2 ^ 35 + 1
  | .peer _ _ => 2 ^ 35 + 2

/-- The first report pending for a strand. -/
def Dev.pending (d : Dev) (c : ClusterId) (k : StrandIx) : Option Report :=
  (d.reports.filter (fun r => r.c = c && r.k = k)).foldl (fun best r =>
    match best with
    | none => some r
    | some b => if r.src.rank < b.src.rank then some r else best) none

end Sys2Proof.Machine
end

