-- ==== Sys2Proof/Machine/Ports.lean ====
section
/-! DEFINITION. Stream packets and ports (05 R177 to R184, R192): what a read delivers, what a send forms, room, the start and the
end of a round, and END. -/

namespace Sys2Proof.Machine

/-- Fields of a packet header (05 R177). -/
def Packet.kind (p : Packet) : Nat := bits p.hdr.toNat 5 4
def Packet.round (p : Packet) : Nat := bits p.hdr.toNat 31 16
def Packet.ver (p : Packet) : Nat := bits p.hdr.toNat 9 8
def packetHdr (round ver kind len : Nat) : W32 := BitVec.ofNat 32 (round % 65536 * 65536 + ver % 4 * 256 + kind * 16 + len % 16)
/-- A packet of elements with their marks. -/
def dataPacket (round ver : Nat) (l : List (W32 × Bool)) : Packet :=
  ⟨packetHdr round ver 0 l.length, l.map (·.1), BitVec.ofNat 16 (joinEls 1 (l.map (fun x => b2n x.2)))⟩
/-- MARKER, PREEMPT and END: kinds 1, 2, 3. -/
def bare (round ver kind : Nat) : Packet := ⟨packetHdr round ver kind 0, [], 0⟩
/-- A header that a port refuses (05 R177). -/
def Packet.bad (p : Packet) : Bool := bits p.hdr.toNat 15 10 != 0 || bits p.hdr.toNat 7 6 != 0 || (p.kind != 0 && bits p.hdr.toNat 3 0 != 0)
/-- The elements of a packet with their marks. -/
def Packet.body (p : Packet) : List (W32 × Bool) := p.elems.zipIdx.map (fun x => (x.1, p.marks.getLsbD x.2))

/-- Does a port keep headers of a kind in place (05 R179, R182)? -/
def Port.keeps (p : Port) (kind : Nat) : Bool := kind != 1 || (match p.cfg with | some c => c.punct | none => false)

/-- What stays of a port's packets once n elements have passed: the elements passed of the first packet, which stays whole (05 R184,
14 R443), and the packets. A MARKER at the head of a port without PUNCT is removed (05 R182). -/
def retained (keeps : Nat → Bool) : Nat → List Packet → Nat × List Packet
  | _, [] => (0, [])
  | n, p :: t =>
    if p.kind = 0 then (if p.elems.length ≤ n then retained keeps (n - p.elems.length) t else (n, p :: t))
    else if n = 0 && keeps p.kind then (0, p :: t)
    else retained keeps n t
/-- The packets from the read position on: elements already passed are dropped from the front (05 R179, R184). -/
def Port.rest (p : Port) : List Packet :=
  match retained p.keeps (p.first + p.taken) p.inq with
  | (n, k :: t) => { k with elems := k.elems.drop n, marks := k.marks >>> n } :: t
  | (_, []) => []
/-- The port with nothing kept before its read position, where the next round begins. -/
def Port.pass (p : Port) : Port :=
  let r := retained p.keeps (p.first + p.taken) p.inq
  { p with inq := r.2, first := r.1, taken := 0 }

/-- The elements buffered ahead of the first header that is not DATA of this round, and whether such a header stands behind them
(05 R180). -/
def mergeRun (round : Nat) : List Packet → List (W32 × Bool) × Bool
  | [] => ([], false)
  | p :: t =>
    if p.kind = 0 && p.round = round then
      let (l, e) := mergeRun round t
      (p.body ++ l, e)
    else ([], true)

/-- What a read of the port operand gives. -/
structure PortRead where
  val : VecVal
  /-- Lanes that hold an element. -/
  lanes : Nat
  /-- Elements taken. -/
  n : Nat
  /-- Masked by a header: the value carries no VER. -/
  masked : Bool
deriving DecidableEq, Repr

/-- A vector of elements in lanes 0 upwards (05 R179). -/
def laneVec (l : List (W32 × Bool)) (ver : Nat) : VecVal :=
  ⟨BitVec.ofNat 256 (joinEls 32 (l.map (·.1.toNat))), BitVec.ofNat 32 (joinEls 4 (l.map (fun x => if x.2 then 15 else 0))),
    BitVec.ofNat 2 ver⟩

/-- A read of an input port (05 R179, R180); none: the port holds nothing to deliver. -/
def Port.look (p : Port) : Option PortRead :=
  match p.rest with
  | [] => none
  | k :: t =>
    if k.kind != 0 then some ⟨VecVal.zero, 0, 0, true⟩
    else if (match p.cfg with | some c => c.merge | none => false) then
      let (l, e) := mergeRun k.round (k :: t)
      if l.length < 8 && !e then none else some ⟨laneVec (l.take 8) k.ver, (l.take 8).length, (l.take 8).length, false⟩
    else some ⟨laneVec (k.body.take 8) k.ver, (k.body.take 8).length, (k.body.take 8).length, false⟩
def Port.take (p : Port) (n : Nat) : Port := { p with taken := p.taken + n }

/-- The kind at the head of an input port. -/
def Port.head (p : Port) : Option Nat := p.rest.head?.map Packet.kind

/-- Packets whose elements and headers a port buffers (05 R178). What an input port has delivered and keeps until the seal (05 R184) takes no
room of what is to come (16 R466). -/
def Port.all (p : Port) : List Packet := p.rest ++ p.ready ++ p.marks ++ p.held ++ p.open_.toList
def Port.elements (p : Port) : Nat := p.all.foldl (fun n k => n + k.elems.length) 0

/-- Elements gather into packets of at most 16: the closed ones and the open one (05 R181). All of them take the VER of the SEND that
gathers them, also where the open packet began under another: DESIGN CHOICE, log 109. -/
def gather (round ver : Nat) : Nat → List (W32 × Bool) → List Packet × Option Packet
  | 0, _ => ([], none)
  | fuel + 1, l =>
    if l.isEmpty then ([], none)
    else if l.length < 16 then ([], some (dataPacket round ver l))
    else
      let (a, b) := gather round ver fuel (l.drop 16)
      (dataPacket round ver (l.take 16) :: a, b)

/-- The port after a SEND offers elements (05 R181). -/
def Port.send (p : Port) (round ver : Nat) (l : List (W32 × Bool)) : Port :=
  if l.isEmpty then p
  else match p.cfg with
    | none => p
    | some c =>
      if !c.merge then { p with held := p.held ++ [dataPacket round ver l] }
      else
        let (a, b) := gather round ver 2 ((match p.open_ with | some o => o.body | none => []) ++ l)
        { p with held := p.held ++ a, open_ := b }
/-- RMARK queues a MARKER (08 R290). -/
def Port.mark (p : Port) (round ver : Nat) : Port := { p with held := p.held ++ [bare round ver 1] }
/-- A port is within its buffers (05 R178). -/
def Port.fits (p : Port) : Bool := decide (p.elements ≤ 512) && decide (p.all.length ≤ 64)

/-- The port at the seal of a round (05 R181, R182, R184): the open packet closes; held packets may leave up to the first MARKER,
and the rest, with a PUNCT port's MARKER, once the half has drained. -/
def Port.sealRound (p : Port) (round ver : Nat) : Port :=
  match p.cfg with
  | none => p
  | some c =>
    if c.out then
      let h := p.held ++ p.open_.toList
      let free := h.takeWhile (fun k => k.kind = 0)
      let marks := h.drop free.length ++ (if c.punct then [bare round ver 1] else [])
      { p with held := [], open_ := none, ready := p.ready ++ free, marks := p.marks ++ marks }
    else
      let r := p.rest
      match r.dropWhile (fun k => k.kind = 0) with
      | m :: t =>
        let n := (r.takeWhile (fun k => k.kind = 0)).foldl (fun n k => n + k.elems.length) 0
        if c.punct && m.kind = 1 then { p with inq := t, first := 0, taken := 0, drop := p.drop + n } else p.pass
      | [] => p.pass
/-- A PUNCT input port lets its region pass a weir that ends a round (05 R182): behind the DATA that it discards stands a MARKER. -/
def Port.punctReady (p : Port) : Bool :=
  match p.cfg with
  | none => true
  | some c => c.out || !c.punct || (p.rest.dropWhile (fun k => k.kind = 0)).head?.map Packet.kind = some 1
/-- The half of a port's MARKERs has drained (05 R182). -/
def Port.drained (p : Port) : Port := { p with ready := p.ready ++ p.marks, marks := [] }

/-- A void of the round (14 R429): packets formed in it are discarded, and the read position returns. -/
def Port.void (p shadow : Port) : Port := { p with held := shadow.held, open_ := shadow.open_, taken := shadow.taken }

/-- An END or a PREEMPT on an output port: it leaves after the packets that may leave, and after the half that drains; without a free header
place it waits behind the packets of the round (05 R183, 04 R149). -/
def Port.last (p : Port) (k : Packet) (draining : Bool) : Port :=
  if decide (64 ≤ p.all.length) && !(p.held.isEmpty && p.open_.isNone) then { p with held := p.held ++ [k] }
  else if draining || !p.marks.isEmpty then { p with marks := p.marks ++ [k] }
  else { p with ready := p.ready ++ [k] }

/-- The kernels of a region whose words in a cell satisfy a test. -/
def Cluster.kernelsWith (cl : Cluster) (g i : Nat) (f : Plane → Nat → Bool) : List (Fin 4) :=
  let r := cl.region g
  (List.finRange 4).filter (fun k => (List.range 32).any (fun s => (vget r.kernels k).owns s && f (cl.cell i).act s))
/-- The feeders of an output port's cell (05 R183). -/
def Cluster.feeders (cl : Cluster) (g i : Nat) : List (Fin 4) :=
  cl.kernelsWith g i (fun p s => match (p.word s).op with
    | .send => (p.word s).mod = 0
    | .steer => true
    | .rmark => true
    | _ => false)
/-- The readers of an input port's cell. -/
def Cluster.readers (cl : Cluster) (g i : Nat) : List (Fin 4) := cl.kernelsWith g i Plane.readsPort

/-- After kernel k of a region became RETIRED (05 R183): END leaves each port it feeds when every feeder is RETIRED, once the half that drains has
drained (04 R149), and an END at the head of an input port leaves when every reader is. -/
def Cluster.sendEnds (cl : Cluster) (g : Nat) (k : Fin 4) : Cluster :=
  let r := cl.region g
  let retired := fun (l : List (Fin 4)) => l.all (fun j => (vget r.kernels j).recorded = .retired)
  { cl with fab := { cl.fab with ports := cl.fab.ports.map fun p =>
      match p.cfg with
      | none => p
      | some c =>
        if c.region.val != g then p
        else if c.out then
          let f := cl.feeders g c.cell
          if f.contains k && retired f then p.last (bare r.round r.ver.toNat 3) r.drain.isSome else p
        else if p.head = some 3 && retired (cl.readers g c.cell) then
          { p.pass with inq := p.pass.inq.drop 1 }
        else p } }

/-- The packets of a port without the PREEMPT that stands before any other header but MARKERs. -/
def dropPreempt : List Packet → List Packet
  | [] => []
  | k :: t => if k.kind = 2 then t else if k.kind = 3 then k :: t else k :: dropPreempt t
/-- A port at a PREEMPT stop (05 R192): its PREEMPT is consumed at an input port, also where a void has put the elements before it back; one leaves
an output port behind what is still to leave, or waits behind all the port holds where no header place is free (05 R183). -/
def Port.preempt (p : Port) (round ver : Nat) (draining : Bool) : Port :=
  match p.cfg with
  | some c => if c.out then p.last (bare round ver 2) draining else { p with inq := dropPreempt p.inq }
  | none => p

/-- Change a port. -/
def Dev.modPort (d : Dev) (c : ClusterId) (p : PortIx) (f : Port → Port) : Dev :=
  d.modCl c (fun cl => { cl with fab := { cl.fab with ports := vmod cl.fab.ports p f } })

end Sys2Proof.Machine
end

