-- ==== Sys2Proof/WellFormed.lean ====
section
/-! DEFINITION. Which terms of Instr stand for a step the spec gives: the field values that R230 to R236 and R319 allow
in an instruction word, and the lengths that the other steps' data have. -/

namespace Sys2Proof

/-- SCOPE codes 6 and 7 are refused (04 R120, 07 R233). -/
def scopeOk (sc : BitVec 3) : Bool := sc.toNat < 6

/-- Rounding mode 7 is refused (07 R235). -/
def modeOk (m : BitVec 3) : Bool := m.toNat < 7

/-- Queue code 7 is refused (07 R235). -/
def queueOk (q : BitVec 3) : Bool := q.toNat < 7

/-- FCVT reads an f register under kinds 0 and 1 and writes one under kinds 2 and 3; its fields above 15 are refused
(07 R230, 09 R320). AUX[2], the SAT of kinds 0 and 1, is accepted under kinds 2 and 3 and ignored: DESIGN CHOICE, log 114. -/
def fcvtOk (d a : GReg) (x : BitVec 3) : Bool :=
  if x.toNat % 4 < 2 then a.val < 16 else d.val < 16

/-- A token or buffer write carries at least one byte. -/
def dataOk (l : List Byte) : Bool := !l.isEmpty

/-- The well-formed instructions. -/
def Instr.wf : Instr → Bool
  | .lda _ _ sc _ | .stl _ _ sc _ => scopeOk sc
  | .amoAdd _ _ _ sc _ _ | .amoAnd _ _ _ sc _ _ | .amoOr _ _ _ sc _ _ | .amoXor _ _ _ sc _ _
  | .amoMin _ _ _ sc _ _ | .amoMax _ _ _ sc _ _ | .amoMinu _ _ _ sc _ _ | .amoMaxu _ _ _ sc _ _
  | .amoSwap _ _ _ sc _ _ | .cas _ _ _ sc _ _ => scopeOk sc
  | .put _ _ sc | .take _ _ sc | .rdf _ _ sc | .fence sc _ => scopeOk sc
  | .acvtTo _ _ id | .acvtFrom _ _ id => id.toNat < 7
  | .enq _ _ q | .enqs _ _ q | .qstat _ q => queueOk q
  | .binit _ _ sc | .barr _ _ sc | .bexp _ _ sc | .bwait _ _ _ sc => scopeOk sc
  | .sigst a b _ sc => scopeOk sc && a.val < 31 && b.val < 31
  | .msgsend _ _ b sc => scopeOk sc && b.val < 30
  | .msgrecv d sc => scopeOk sc && d.val < 29
  | .fadd _ _ _ m | .fsub _ _ _ m | .fmul _ _ _ m | .ffma _ _ _ m | .fdiv _ _ _ m | .fsqrt _ _ m => modeOk m
  | .fcvt d a x m => modeOk m && fcvtOk d a x
  | .mnChunkWrite _ _ _ ch _ => ch.length = 32
  | .bar4Write _ _ dt => dataOk dt
  | _ => true

end Sys2Proof
end

