-- ==== Sys2Proof/Decode.lean ====
section
/-! DEFINITION. Decoding of control-core words (07 R230 to R236, 01 R21): total, each refusal under a name of its own, and the
encoder written from the same tables. Words are numbers below 2^32; bit 0 is the least significant (00 R4). -/

namespace Sys2Proof

/-- Why a word is no instruction; each traps with ILLEGAL (07 R230 to R236, 00 R8). -/
inductive Reject where
  /-- A major opcode outside R231. -/
  | unassignedMajor
  /-- A function or sub-operation outside R232, R234, R235, R236 or R21. -/
  | unassignedFunction
  /-- A reserved field that is not zero, or a field value outside its table. -/
  | badField
  /-- A SCOPE of 6 or 7 (R233). -/
  | badScope
  /-- An f-register field of 16 to 31 (R230). -/
  | badFReg
  /-- A register range that would pass g31 (R319). -/
  | badRange
deriving DecidableEq, Repr

/-- Field [hi:lo] of a word. -/
def fld (w hi lo : Nat) : Nat := w / 2 ^ lo % 2 ^ (hi - lo + 1)

/-- A g-register field. -/
def gfld (w lo : Nat) : GReg := ⟨w / 2 ^ lo % 32, Nat.mod_lt _ (by decide)⟩

/-- An f-register field, when it names one. -/
def ffld (w lo : Nat) : FReg := ⟨w / 2 ^ lo % 16, Nat.mod_lt _ (by decide)⟩

/-- Is the five-bit field at lo an f register? -/
def isF (w lo : Nat) : Bool := w / 2 ^ lo % 32 < 16

def rd (w : Nat) : GReg := gfld w 21
def ra (w : Nat) : GReg := gfld w 16
def rb (w : Nat) : GReg := gfld w 11
def imm16 (w : Nat) : BitVec 16 := BitVec.ofNat 16 w
def scopeField (w : Nat) : BitVec 3 := BitVec.ofNat 3 (w / 8)
def ordField (w : Nat) : BitVec 2 := BitVec.ofNat 2 (w / 2)
def wField (w : Nat) : Bool := w % 2 = 1

/-- Accept under a condition, else reject by name. -/
def need (ok : Bool) (e : Reject) (i : Instr) : Except Reject Instr := if ok then .ok i else .error e

/-- OPR (R232). -/
def decodeOpr (w : Nat) : Except Reject Instr :=
  let d := rd w; let a := ra w; let b := rb w
  match fld w 10 0 with
  | 0 => .ok (.add d a b) | 1 => .ok (.sub d a b) | 2 => .ok (.and d a b) | 3 => .ok (.or d a b)
  | 4 => .ok (.xor d a b) | 5 => .ok (.sll d a b) | 6 => .ok (.srl d a b) | 7 => .ok (.sra d a b)
  | 8 => .ok (.slt d a b) | 9 => .ok (.sltu d a b) | 10 => .ok (.mul d a b) | 11 => .ok (.mulh d a b)
  | 12 => .ok (.mulhu d a b) | 13 => .ok (.div d a b) | 14 => .ok (.divu d a b) | 15 => .ok (.rem d a b)
  | 16 => .ok (.remu d a b) | 17 => .ok (.min d a b) | 18 => .ok (.max d a b) | 19 => .ok (.minu d a b)
  | 20 => .ok (.maxu d a b)
  | 21 => need (b.val = 0) .badField (.clz d a) | 22 => need (b.val = 0) .badField (.ctz d a)
  | 23 => need (b.val = 0) .badField (.popc d a)
  | _ => .error .unassignedFunction

/-- SHI (R231): kinds 0 to 2, imm16[15:8] zero. -/
def decodeShi (w : Nat) : Except Reject Instr :=
  let sh := BitVec.ofNat 6 w
  match fld w 15 6 with
  | 0 => .ok (.slli (rd w) (ra w) sh) | 1 => .ok (.srli (rd w) (ra w) sh) | 2 => .ok (.srai (rd w) (ra w) sh)
  | _ => .error .badField

/-- MEMX (R233, R234). -/
def decodeMemx (w : Nat) : Except Reject Instr :=
  let d := rd w; let a := ra w; let b := rb w
  let sc := scopeField w; let o := ordField w; let wd := wField w
  let sub := fld w 10 6
  if sub ≥ 20 then .error .unassignedFunction
  else if sc.toNat ≥ 6 then .error .badScope
  else match sub with
  | 0 => need (o.toNat = 1 && b.val = 0) .badField (.lda d a sc wd)
  | 1 => need (o.toNat = 2 && d.val = 0) .badField (.stl a b sc wd)
  | 2 => .ok (.amoAdd d a b sc o wd) | 3 => .ok (.amoAnd d a b sc o wd) | 4 => .ok (.amoOr d a b sc o wd)
  | 5 => .ok (.amoXor d a b sc o wd) | 6 => .ok (.amoMin d a b sc o wd) | 7 => .ok (.amoMax d a b sc o wd)
  | 8 => .ok (.amoMinu d a b sc o wd) | 9 => .ok (.amoMaxu d a b sc o wd) | 10 => .ok (.amoSwap d a b sc o wd)
  | 11 => .ok (.cas d a b sc o wd)
  | 12 => need (o.toNat = 2 && wd && d.val = 0) .badField (.put a b sc)
  | 13 => need (o.toNat = 1 && wd && b.val = 0) .badField (.take d a sc)
  | 14 => need (o.toNat = 1 && wd && b.val = 0) .badField (.rdf d a sc)
  | 15 => need (o.toNat = 0 && wd && sc.toNat = 0 && d.val = 0 && b.val = 0) .badField (.clrp a)
  | 16 => need (o.toNat = 0 && wd && sc.toNat = 0 && b.val = 0) .badField (.prb d a)
  | 17 => need (!wd && d.val = 0 && a.val = 0 && b.val = 0) .badField (.fence sc o)
  | 18 => need (o.toNat = 0 && !wd && sc.toNat = 0 && d.val = 0 && b.val = 0) .badField (.monarm a)
  | _ => need (o.toNat = 0 && !wd && sc.toNat = 0 && d.val = 0 && a.val = 0 && b.val = 0) .badField .monwait

/-- SYS (R235). -/
def decodeSys (w : Nat) : Except Reject Instr :=
  let d := rd w; let a := ra w; let b := rb w
  let n := BitVec.ofNat 5 (w / 2 ^ 11); let r := BitVec.ofNat 8 w
  match fld w 10 8 with
  | 0 => need (a.val = 0) .badField (.srd d n r)
  | 1 => need (d.val = 0) .badField (.swr a n r)
  | 2 => need (d.val = 0 && a.val = 0 && b.val = 0) .badField (.trap r)
  | 3 => need (d.val = 0 && a.val = 0 && b.val = 0) .badField (.brk r)
  | 4 => need (d.val = 0 && a.val = 0 && b.val = 0 && r.toNat = 0) .badField .rte
  | 5 => need (d.val = 0 && a.val = 0 && b.val = 0 && r.toNat = 0) .badField .wfi
  | 6 => need (d.val = 0 && a.val = 0 && b.val = 0 && r.toNat = 0) .badField .snap
  | _ => .error .unassignedFunction

/-- ADR (01 R21, R24). -/
def decodeAdr (w : Nat) : Except Reject Instr :=
  let d := rd w; let a := ra w; let id := BitVec.ofNat 3 w
  let ok := fld w 15 11 = 0 && fld w 7 3 = 0
  match fld w 10 8 with
  | 0 => need (ok && id.toNat < 7) .badField (.acvtTo d a id)
  | 1 => need (ok && id.toNat < 7) .badField (.acvtFrom d a id)
  | 2 => need (ok && id.toNat = 0) .badField (.atst d a)
  | _ => .error .unassignedFunction

/-- FAB (R235; options as 09 R310 to R315 assign them). -/
def decodeFab (w : Nat) : Except Reject Instr :=
  let d := rd w; let a := ra w; let b := rb w
  match fld w 10 8 with
  | 0 => need (fld w 7 2 = 0) .badField (.fload d a b (w / 2 % 2 = 1) (w % 2 = 1))
  | 1 => need (fld w 7 0 = 0 && d.val = 0) .badField (.krun a b)
  | 2 => need (fld w 7 1 = 0 && d.val = 0 && b.val = 0) .badField (.kstop a (w % 2 = 1))
  | 3 => need (fld w 7 0 = 0) .badField (.ksave d a b)
  | 4 => need (fld w 7 0 = 0 && d.val = 0) .badField (.krest a b)
  | 5 => need (fld w 7 0 = 0 && b.val = 0) .badField (.kstat d a)
  | 6 => need (fld w 7 0 = 0 && b.val = 0) .badField (.glaunch d a)
  | _ => .error .unassignedFunction

/-- ENG (R235). -/
def decodeEng (w : Nat) : Except Reject Instr :=
  let d := rd w; let a := ra w; let b := rb w; let q := BitVec.ofNat 3 w
  let ok := fld w 7 3 = 0 && q.toNat < 7
  match fld w 10 8 with
  | 0 => need (ok && b.val = 0) .badField (.enq d a q)
  | 1 => need (ok && b.val = 0) .badField (.enqs d a q)
  | 2 => need (ok && a.val = 0 && b.val = 0) .badField (.qstat d q)
  | _ => .error .unassignedFunction

/-- BAR (R235). -/
def decodeBar (w : Nat) : Except Reject Instr :=
  let d := rd w; let a := ra w; let b := rb w; let sc := scopeField w
  let ok := fld w 7 6 = 0 && fld w 2 0 = 0
  if fld w 10 8 ≥ 4 then .error .unassignedFunction
  else if sc.toNat ≥ 6 then .error .badScope
  else match fld w 10 8 with
  | 0 => need (ok && d.val = 0) .badField (.binit a b sc)
  | 1 => need (ok && b.val = 0) .badField (.barr d a sc)
  | 2 => need (ok && d.val = 0) .badField (.bexp a b sc)
  | _ => need ok .badField (.bwait d a b sc)

/-- MSG (R235, 09 R319). -/
def decodeMsg (w : Nat) : Except Reject Instr :=
  let d := rd w; let a := ra w; let b := rb w; let sc := scopeField w
  let ok := fld w 7 7 = 0 && fld w 2 0 = 0
  if fld w 10 8 ≥ 3 then .error .unassignedFunction
  else if sc.toNat ≥ 6 then .error .badScope
  else match fld w 10 8 with
  | 0 => if ok && d.val = 0 then need (a.val < 31 && b.val < 31) .badRange (.sigst a b (w / 64 % 2 = 1) sc)
         else .error .badField
  | 1 => if ok && w / 64 % 2 = 0 then need (b.val < 30) .badRange (.msgsend d a b sc) else .error .badField
  | _ => if ok && w / 64 % 2 = 0 && a.val = 0 && b.val = 0 then need (d.val < 29) .badRange (.msgrecv d sc)
         else .error .badField

/-- FOP (R235, 09 R320). -/
def decodeFop (w : Nat) : Except Reject Instr :=
  let m := BitVec.ofNat 3 w; let x := scopeField w
  let fd := ffld w 21; let fa := ffld w 16; let fb := ffld w 11
  let three := isF w 21 && isF w 16 && isF w 11
  let mok := m.toNat < 7 && x.toNat = 0
  match fld w 10 6 with
  | 0 => if mok then need three .badFReg (.fadd fd fa fb m) else .error .badField
  | 1 => if mok then need three .badFReg (.fsub fd fa fb m) else .error .badField
  | 2 => if mok then need three .badFReg (.fmul fd fa fb m) else .error .badField
  | 3 => if mok then need three .badFReg (.ffma fd fa fb m) else .error .badField
  | 4 => if mok then need three .badFReg (.fdiv fd fa fb m) else .error .badField
  | 5 => if mok && (rb w).val = 0 then need (isF w 21 && isF w 16) .badFReg (.fsqrt fd fa m) else .error .badField
  | 6 => if m.toNat < 7 && (rb w).val = 0 then need (fcvtOk (rd w) (ra w) x) .badFReg (.fcvt (rd w) (ra w) x m)
         else .error .badField
  | 7 => if fld w 2 1 = 0 then need (isF w 16 && isF w 11) .badFReg (.fcmp (rd w) fa fb x (w % 2 = 1))
         else .error .badField
  | 8 => if fld w 5 0 = 0 && (rb w).val = 0 then need (isF w 21) .badFReg (.fmvgf fd (ra w)) else .error .badField
  | 9 => if fld w 5 0 = 0 && (rb w).val = 0 then need (isF w 16) .badFReg (.fmvfg (rd w) fa) else .error .badField
  | _ => .error .unassignedFunction

/-- EXT (R236): xop 0 is LI64, whose second word is the immediate. -/
def decodeExt (w imm : Nat) : Except Reject Instr :=
  if fld w 25 20 ≠ 0 then .error .unassignedFunction
  else need (fld w 13 0 = 0) .badField (.li64 (gfld w 15) (w / 2 ^ 14 % 2 = 1) (BitVec.ofNat 32 imm))

/-- The decoder: the instruction of word w, whose following word is w2 (read by LI64 only). -/
def decode (w w2 : Nat) : Except Reject Instr :=
  let d := rd w; let a := ra w; let i := imm16 w
  match fld w 31 26 with
  | 0x01 => decodeOpr w
  | 0x02 => .ok (.addi d a i) | 0x03 => .ok (.andi d a i) | 0x04 => .ok (.ori d a i) | 0x05 => .ok (.xori d a i)
  | 0x06 => .ok (.slti d a i) | 0x07 => .ok (.sltiu d a i) | 0x08 => decodeShi w | 0x09 => .ok (.lih d a i)
  | 0x0A => .ok (.ldb d a i) | 0x0B => .ok (.ldh d a i) | 0x0C => .ok (.ldw d a i) | 0x0D => .ok (.ldd d a i)
  | 0x0E => .ok (.ldbu d a i) | 0x0F => .ok (.ldhu d a i) | 0x10 => .ok (.ldwu d a i)
  | 0x11 => .ok (.stb d a i) | 0x12 => .ok (.sth d a i) | 0x13 => .ok (.stw d a i) | 0x14 => .ok (.std d a i)
  | 0x15 => decodeMemx w
  | 0x16 => .ok (.beq d a i) | 0x17 => .ok (.bne d a i) | 0x18 => .ok (.blt d a i) | 0x19 => .ok (.bge d a i)
  | 0x1A => .ok (.bltu d a i) | 0x1B => .ok (.bgeu d a i)
  | 0x1C => .ok (.jal (BitVec.ofNat 26 w)) | 0x1D => .ok (.jalr d a i)
  | 0x1E => decodeSys w | 0x1F => decodeAdr w | 0x20 => decodeFab w | 0x21 => decodeEng w | 0x22 => decodeBar w
  | 0x23 => decodeMsg w | 0x24 => decodeFop w | 0x3F => decodeExt w w2
  | _ => .error .unassignedMajor

/-- Bytes that an instruction takes (07 R230, R236). -/
def Instr.bytes : Instr → Nat
  | .li64 _ _ _ => 8
  | _ => 4

/-- The instruction that the decoder reads from bits numbered as the opcode table numbers them. -/
def decodeTableWord (nbits w : Nat) : Option Instr :=
  let w := w % 2 ^ nbits
  match decode (w % 2 ^ 32) (w / 2 ^ 32 % 2 ^ 32) with
  | .ok i => some i
  | .error _ => none

/-- Form A (R230). -/
def encA (maj d a b fn : Nat) : Nat := maj * 2 ^ 26 + d * 2 ^ 21 + a * 2 ^ 16 + b * 2 ^ 11 + fn

/-- Forms I and S (R230). -/
def encI (maj d a : Nat) (i : BitVec 16) : Nat := maj * 2 ^ 26 + d * 2 ^ 21 + a * 2 ^ 16 + i.toNat

/-- fn of MEMX (R233). -/
def encMemx (sub : Nat) (sc : BitVec 3) (o : Nat) (w : Bool) : Nat := sub * 64 + sc.toNat * 8 + o * 2 + w.toNat

/-- The words of an instruction: its first word, and for LI64 the immediate word; none for a step that no word names. -/
def encode : Instr → Option (Nat × Nat)
  | .add d a b => some (encA 1 d a b 0, 0) | .sub d a b => some (encA 1 d a b 1, 0)
  | .and d a b => some (encA 1 d a b 2, 0) | .or d a b => some (encA 1 d a b 3, 0)
  | .xor d a b => some (encA 1 d a b 4, 0) | .sll d a b => some (encA 1 d a b 5, 0)
  | .srl d a b => some (encA 1 d a b 6, 0) | .sra d a b => some (encA 1 d a b 7, 0)
  | .slt d a b => some (encA 1 d a b 8, 0) | .sltu d a b => some (encA 1 d a b 9, 0)
  | .mul d a b => some (encA 1 d a b 10, 0) | .mulh d a b => some (encA 1 d a b 11, 0)
  | .mulhu d a b => some (encA 1 d a b 12, 0) | .div d a b => some (encA 1 d a b 13, 0)
  | .divu d a b => some (encA 1 d a b 14, 0) | .rem d a b => some (encA 1 d a b 15, 0)
  | .remu d a b => some (encA 1 d a b 16, 0) | .min d a b => some (encA 1 d a b 17, 0)
  | .max d a b => some (encA 1 d a b 18, 0) | .minu d a b => some (encA 1 d a b 19, 0)
  | .maxu d a b => some (encA 1 d a b 20, 0) | .clz d a => some (encA 1 d a 0 21, 0)
  | .ctz d a => some (encA 1 d a 0 22, 0) | .popc d a => some (encA 1 d a 0 23, 0)
  | .addi d a i => some (encI 2 d a i, 0) | .andi d a i => some (encI 3 d a i, 0)
  | .ori d a i => some (encI 4 d a i, 0) | .xori d a i => some (encI 5 d a i, 0)
  | .slti d a i => some (encI 6 d a i, 0) | .sltiu d a i => some (encI 7 d a i, 0)
  | .slli d a sh => some (encA 8 d a 0 sh.toNat, 0) | .srli d a sh => some (encA 8 d a 0 (64 + sh.toNat), 0)
  | .srai d a sh => some (encA 8 d a 0 (128 + sh.toNat), 0) | .lih d a i => some (encI 9 d a i, 0)
  | .ldb d a i => some (encI 10 d a i, 0) | .ldh d a i => some (encI 11 d a i, 0)
  | .ldw d a i => some (encI 12 d a i, 0) | .ldd d a i => some (encI 13 d a i, 0)
  | .ldbu d a i => some (encI 14 d a i, 0) | .ldhu d a i => some (encI 15 d a i, 0)
  | .ldwu d a i => some (encI 16 d a i, 0) | .stb s b o => some (encI 17 s b o, 0)
  | .sth s b o => some (encI 18 s b o, 0) | .stw s b o => some (encI 19 s b o, 0)
  | .std s b o => some (encI 20 s b o, 0)
  | .lda d a sc w => some (encA 21 d a 0 (encMemx 0 sc 1 w), 0)
  | .stl a b sc w => some (encA 21 0 a b (encMemx 1 sc 2 w), 0)
  | .amoAdd d a b sc o w => some (encA 21 d a b (encMemx 2 sc o.toNat w), 0)
  | .amoAnd d a b sc o w => some (encA 21 d a b (encMemx 3 sc o.toNat w), 0)
  | .amoOr d a b sc o w => some (encA 21 d a b (encMemx 4 sc o.toNat w), 0)
  | .amoXor d a b sc o w => some (encA 21 d a b (encMemx 5 sc o.toNat w), 0)
  | .amoMin d a b sc o w => some (encA 21 d a b (encMemx 6 sc o.toNat w), 0)
  | .amoMax d a b sc o w => some (encA 21 d a b (encMemx 7 sc o.toNat w), 0)
  | .amoMinu d a b sc o w => some (encA 21 d a b (encMemx 8 sc o.toNat w), 0)
  | .amoMaxu d a b sc o w => some (encA 21 d a b (encMemx 9 sc o.toNat w), 0)
  | .amoSwap d a b sc o w => some (encA 21 d a b (encMemx 10 sc o.toNat w), 0)
  | .cas d a b sc o w => some (encA 21 d a b (encMemx 11 sc o.toNat w), 0)
  | .put a b sc => some (encA 21 0 a b (encMemx 12 sc 2 true), 0)
  | .take d a sc => some (encA 21 d a 0 (encMemx 13 sc 1 true), 0)
  | .rdf d a sc => some (encA 21 d a 0 (encMemx 14 sc 1 true), 0)
  | .clrp a => some (encA 21 0 a 0 (encMemx 15 0 0 true), 0)
  | .prb d a => some (encA 21 d a 0 (encMemx 16 0 0 true), 0)
  | .fence sc o => some (encA 21 0 0 0 (encMemx 17 sc o.toNat false), 0)
  | .monarm a => some (encA 21 0 a 0 (encMemx 18 0 0 false), 0)
  | .monwait => some (encA 21 0 0 0 (encMemx 19 0 0 false), 0)
  | .beq a b o => some (encI 22 a b o, 0) | .bne a b o => some (encI 23 a b o, 0)
  | .blt a b o => some (encI 24 a b o, 0) | .bge a b o => some (encI 25 a b o, 0)
  | .bltu a b o => some (encI 26 a b o, 0) | .bgeu a b o => some (encI 27 a b o, 0)
  | .jal o => some (28 * 2 ^ 26 + o.toNat, 0) | .jalr d a i => some (encI 29 d a i, 0)
  | .srd d n r => some (encA 30 d 0 n.toNat r.toNat, 0) | .swr a n r => some (encA 30 0 a n.toNat (0x100 + r.toNat), 0)
  | .trap n => some (encA 30 0 0 0 (0x200 + n.toNat), 0) | .brk n => some (encA 30 0 0 0 (0x300 + n.toNat), 0)
  | .rte => some (encA 30 0 0 0 0x400, 0) | .wfi => some (encA 30 0 0 0 0x500, 0)
  | .snap => some (encA 30 0 0 0 0x600, 0)
  | .acvtTo d a id => some (encA 31 d a 0 id.toNat, 0) | .acvtFrom d a id => some (encA 31 d a 0 (0x100 + id.toNat), 0)
  | .atst d a => some (encA 31 d a 0 0x200, 0)
  | .fload d a b sync sw => some (encA 32 d a b (sync.toNat * 2 + sw.toNat), 0)
  | .krun a b => some (encA 32 0 a b 0x100, 0) | .kstop a wt => some (encA 32 0 a 0 (0x200 + wt.toNat), 0)
  | .ksave d a b => some (encA 32 d a b 0x300, 0) | .krest a b => some (encA 32 0 a b 0x400, 0)
  | .kstat d a => some (encA 32 d a 0 0x500, 0) | .glaunch d a => some (encA 32 d a 0 0x600, 0)
  | .enq d a q => some (encA 33 d a 0 q.toNat, 0) | .enqs d a q => some (encA 33 d a 0 (0x100 + q.toNat), 0)
  | .qstat d q => some (encA 33 d 0 0 (0x200 + q.toNat), 0)
  | .binit a b sc => some (encA 34 0 a b (sc.toNat * 8), 0)
  | .barr d a sc => some (encA 34 d a 0 (0x100 + sc.toNat * 8), 0)
  | .bexp a b sc => some (encA 34 0 a b (0x200 + sc.toNat * 8), 0)
  | .bwait d a b sc => some (encA 34 d a b (0x300 + sc.toNat * 8), 0)
  | .sigst a b p sc => some (encA 35 0 a b (p.toNat * 64 + sc.toNat * 8), 0)
  | .msgsend d a b sc => some (encA 35 d a b (0x100 + sc.toNat * 8), 0)
  | .msgrecv d sc => some (encA 35 d 0 0 (0x200 + sc.toNat * 8), 0)
  | .fadd d a b m => some (encA 36 d a b m.toNat, 0) | .fsub d a b m => some (encA 36 d a b (0x40 + m.toNat), 0)
  | .fmul d a b m => some (encA 36 d a b (0x80 + m.toNat), 0) | .ffma d a b m => some (encA 36 d a b (0xC0 + m.toNat), 0)
  | .fdiv d a b m => some (encA 36 d a b (0x100 + m.toNat), 0) | .fsqrt d a m => some (encA 36 d a 0 (0x140 + m.toNat), 0)
  | .fcvt d a x m => some (encA 36 d a 0 (0x180 + x.toNat * 8 + m.toNat), 0)
  | .fcmp d a b c sig => some (encA 36 d a b (0x1C0 + c.toNat * 8 + sig.toNat), 0)
  | .fmvgf d a => some (encA 36 d a 0 0x200, 0) | .fmvfg d a => some (encA 36 d a 0 0x240, 0)
  | .li64 d h i => some (63 * 2 ^ 26 + d.val * 2 ^ 15 + h.toNat * 2 ^ 14, i.toNat)
  | _ => none

end Sys2Proof
end

