-- ==== Sys2Proof/Machine/Packet.lean ====
section
/-! DEFINITION. Command packets (07 R237, R238) and the checks made on a packet when it enters its queue (11 R343, R351, R367,
R370; 12 R384, R385). -/

namespace Sys2Proof.Machine

/-- A command by its CMD value (07 R238). -/
inductive CmdKind where
  | copy | copy2d | copy3d | gather | scatter | fill | mcast | reduce | stamp | signal | prefetch
  | llsclean | llsinv | llsflush | bankcfg
  | rowcopy | rowfill | rowand | rowor | rowxor | rownot | rowmaj
  | update | uflush
  | stepset | sigcmp | shdupd | steprd
deriving DecidableEq, Repr

/-- The command of a CMD value. -/
def cmdKind (n : Nat) : Option CmdKind :=
  match n with
  | 0x01 => some .copy | 0x02 => some .copy2d | 0x03 => some .copy3d | 0x04 => some .gather | 0x05 => some .scatter
  | 0x06 => some .fill | 0x07 => some .mcast | 0x08 => some .reduce | 0x09 => some .stamp | 0x0A => some .signal
  | 0x0B => some .prefetch | 0x10 => some .llsclean | 0x11 => some .llsinv | 0x12 => some .llsflush | 0x13 => some .bankcfg
  | 0x20 => some .rowcopy | 0x21 => some .rowfill | 0x22 => some .rowand | 0x23 => some .rowor | 0x24 => some .rowxor
  | 0x25 => some .rownot | 0x26 => some .rowmaj | 0x30 => some .update | 0x31 => some .uflush
  | 0x40 => some .stepset | 0x41 => some .sigcmp | 0x42 => some .shdupd | 0x43 => some .steprd
  | _ => none

/-- Word i of a packet. -/
def pw (w : Vector Word 8) (i : Nat) : Nat := (vgetD w i 0).toNat
/-- Fields of W0 (07 R237). -/
def pkCmd (w : Vector Word 8) : Nat := bits (pw w 0) 63 56
def pkAfter (w : Vector Word 8) : Nat := bits (pw w 0) 55 52
def pkScope (w : Vector Word 8) : Nat := bits (pw w 0) 51 49
def pkExt (w : Vector Word 8) : Bool := bit (pw w 0) 48
def pkOrdered (w : Vector Word 8) : Bool := bit (pw w 0) 46
def pkRel (w : Vector Word 8) : Bool := bit (pw w 0) 45
def pkDigest (w : Vector Word 8) : Bool := bit (pw w 0) 44
def pkFallback (w : Vector Word 8) : Bool := bit (pw w 0) 43
def pkClean (w : Vector Word 8) : Bool := bit (pw w 0) 42
def pkCk (w : Vector Word 8) : Nat := bits (pw w 0) 41 40
def pkFmt (w : Vector Word 8) : Nat := bits (pw w 0) 39 32
def pkCount (w : Vector Word 8) : Nat := bits (pw w 0) 31 0

/-- Which units execute a command (07 R238). -/
def CmdKind.runsOn (k : CmdKind) (q : QueueIx) : Bool :=
  match k with
  | .update | .uflush => q.val = 4 || q.val = 5
  | .stepset | .sigcmp | .shdupd | .steprd => q.val = 6
  | _ => decide (q.val < 4)

/-- Is it a row command? -/
def CmdKind.isRow : CmdKind → Bool
  | .rowcopy | .rowfill | .rowand | .rowor | .rowxor | .rownot | .rowmaj => true
  | _ => false

/-- May it carry DIGEST (11 R361)? -/
def CmdKind.digests : CmdKind → Bool
  | .copy | .copy2d | .copy3d | .gather | .scatter | .mcast => true
  | _ => false

/-- Element size in bytes of the formats of REDUCE and UPDATE (11 R355). -/
def redSize (fmt : Nat) : Nat := match fmt with | 0 => 4 | 1 => 2 | 2 => 1 | 3 => 4 | 4 => 2 | 5 => 2 | _ => 1

/-- Words W4 to W7 from i on are zero. -/
def zeroFrom (w : Vector Word 8) (i : Nat) : Bool := (List.range (8 - i)).all (fun k => pw w (i + k) = 0)

/-- FMT names a format 0 to 5 and an operation 0 to 3 (11 R355). -/
def fmtOpOk (w : Vector Word 8) : Bool :=
  decide (bits (pkFmt w) 3 0 ≤ 5) && decide (bits (pkFmt w) 6 4 ≤ 3) && !bit (pkFmt w) 7

/-- The transfer bytes of a copy command (11 R352 to R356). -/
def transferBytes (k : CmdKind) (w : Vector Word 8) : Nat :=
  match k with
  | .copy2d => pkCount w * bits (pw w 4) 31 0
  | .copy3d => pkCount w * bits (pw w 4) 31 0 * bits (pw w 4) 63 32
  | .gather | .scatter => pkCount w * 2 ^ bits (pw w 4) 3 0
  | _ => pkCount w

/-- The parameter word of STEPSET (12 R385). -/
def stepParamOk (w2 : Nat) : Bool :=
  bits w2 51 48 != 0 && decide (3 ≤ bits w2 47 45) && decide (bits w2 47 45 ≤ 7) &&
    (bit w2 40 || bits w2 39 38 = 0) && bits w2 37 32 = 0 && !bit w2 31 && bits w2 30 23 != 255

/-- The field use of each command (11 R351, R363, R366, R367, R370; 12 R384). -/
def fieldsOk (k : CmdKind) (w : Vector Word 8) : Bool :=
  let ext := pkExt w
  let ck := pkCk w
  let fmt0 := pkFmt w = 0
  let noBar := ck != 1
  match k with
  | .copy | .fill => !ext && fmt0
  | .copy2d => ext && fmt0 && bits (pw w 4) 63 32 = 0 && zeroFrom w 6 && decide (transferBytes k w < 2 ^ 48)
  | .copy3d => ext && fmt0 && zeroFrom w 7 && decide (transferBytes k w < 2 ^ 48)
  | .gather | .scatter =>
    ext && fmt0 && decide (bits (pw w 4) 3 0 ≤ 6) && bits (pw w 4) 63 5 = 0 && bits (pw w 6) 63 32 = 0 && pw w 7 = 0 &&
      decide (transferBytes k w < 2 ^ 48)
  | .mcast => ext && fmt0 && bits (pw w 4) 17 0 != 0 && bits (pw w 4) 23 18 = 0 && bits (pw w 4) 63 26 = 0 && zeroFrom w 5
  | .reduce => !ext && fmtOpOk w
  | .stamp => !ext && fmt0 && pkCount w = 0 && pw w 1 = 0 && pw w 2 = 0 && decide (2 ≤ ck)
  | .signal => !ext && fmt0 && decide (pkCount w ≤ 1) && noBar
  | .prefetch | .llsclean | .llsinv | .llsflush => !ext && fmt0 && pw w 2 = 0 && noBar
  | .bankcfg =>
    !ext && fmt0 && pkCount w = 0 && pw w 1 != 0 && decide (pw w 1 < 2 ^ 32) && bits (pw w 2) 63 12 = 0 &&
      bits (pw w 2) 7 5 = 0 && noBar
  | .rowcopy | .rownot | .rowfill => !ext && fmt0 && decide (1 ≤ pkCount w) && decide (pkCount w ≤ 65536)
  | .rowand | .rowor | .rowxor => ext && fmt0 && decide (1 ≤ pkCount w) && decide (pkCount w ≤ 65536) && zeroFrom w 5
  | .rowmaj => ext && fmt0 && decide (1 ≤ pkCount w) && decide (pkCount w ≤ 65536) && zeroFrom w 6
  | .update => ext && fmtOpOk w && noBar && (!pkOrdered w || pw w 4 != 0) && zeroFrom w 5
  | .uflush => !ext && fmt0 && pkCount w = 0 && pw w 1 = 0 && pw w 2 = 0 && noBar
  | .stepset => !ext && fmt0 && decide (pkCount w < 16) && noBar && stepParamOk (pw w 2)
  | .sigcmp => !ext && fmt0 && decide (pkCount w < 16) && noBar && pw w 1 = 0
  | .shdupd => !ext && fmt0 && decide (pkCount w < 16) && pw w 1 = 0 && pw w 2 = 0
  | .steprd => !ext && fmt0 && decide (pkCount w < 16) && noBar && pw w 1 = 0

/-- The checks of a packet on its queue (11 R343). -/
def packetOk (q : QueueIx) (w : Vector Word 8) : Bool :=
  match cmdKind (pkCmd w) with
  | none => false
  | some k =>
    k.runsOn q && decide (pkScope w ≤ 5) && !bit (pw w 0) 47 && (pkCk w != 0 || pw w 3 = 0) &&
      (!pkDigest w || (pkCk w = 2 && k.digests)) && (!pkOrdered w || k = .update) &&
      (!pkClean w || k.isRow || k = .shdupd) && (!pkFallback w || k.isRow) && fieldsOk k w

end Sys2Proof.Machine
end

