-- ==== Sys2Proof/Machine/IntArith.lean ====
section
/-! DEFINITION. OPR, the immediate forms and LI64 (09 R301, R302; 07 R231, R232, R236). -/

namespace Sys2Proof.Machine

/-- Sign extension of an immediate (07 R231). -/
def sext16 (i : BitVec 16) : Word := i.signExtend 64
/-- Zero extension of an immediate (07 R231). -/
def zext16 (i : BitVec 16) : Word := i.setWidth 64
/-- A truth value in a register. -/
def boolW (b : Bool) : Word := if b then 1 else 0

/-- Leading zero bits of x, over n bits (09 R301: x = 0 gives n). -/
def clzN : Nat → Nat → Nat
  | 0, _ => 0
  | n + 1, x => if bit x n then 0 else 1 + clzN n x
/-- Trailing zero bits of x, over n bits. -/
def ctzN : Nat → Nat → Nat
  | 0, _ => 0
  | n + 1, x => if bit x 0 then 0 else 1 + ctzN n (x / 2)
/-- Set bits of x, over n bits. -/
def popN : Nat → Nat → Nat
  | 0, _ => 0
  | n + 1, x => x % 2 + popN n (x / 2)

/-- Quotient rounded toward zero; a zero divisor gives all ones (09 R301). -/
def divS (x y : Word) : Word := if y = 0 then 0xFFFFFFFFFFFFFFFF else BitVec.ofInt 64 (x.toInt.tdiv y.toInt)
def divU (x y : Word) : Word := if y = 0 then 0xFFFFFFFFFFFFFFFF else BitVec.ofNat 64 (x.toNat / y.toNat)
/-- Remainder with the sign of x; a zero divisor gives x (09 R301). -/
def remS (x y : Word) : Word := if y = 0 then x else BitVec.ofInt 64 (x.toInt.tmod y.toInt)
def remU (x y : Word) : Word := if y = 0 then x else BitVec.ofNat 64 (x.toNat % y.toNat)

def execAdd (d a b : GReg) (s : State) : Out := .next (s.writeG d (s.g a + s.g b))
def execSub (d a b : GReg) (s : State) : Out := .next (s.writeG d (s.g a - s.g b))
def execAnd (d a b : GReg) (s : State) : Out := .next (s.writeG d (s.g a &&& s.g b))
def execOr (d a b : GReg) (s : State) : Out := .next (s.writeG d (s.g a ||| s.g b))
def execXor (d a b : GReg) (s : State) : Out := .next (s.writeG d (s.g a ^^^ s.g b))
def execSll (d a b : GReg) (s : State) : Out := .next (s.writeG d (s.g a <<< ((s.g b).toNat % 64)))
def execSrl (d a b : GReg) (s : State) : Out := .next (s.writeG d (s.g a >>> ((s.g b).toNat % 64)))
def execSra (d a b : GReg) (s : State) : Out := .next (s.writeG d ((s.g a).sshiftRight ((s.g b).toNat % 64)))
def execSlt (d a b : GReg) (s : State) : Out := .next (s.writeG d (boolW ((s.g a).slt (s.g b))))
def execSltu (d a b : GReg) (s : State) : Out := .next (s.writeG d (boolW ((s.g a).ult (s.g b))))
def execMul (d a b : GReg) (s : State) : Out := .next (s.writeG d (s.g a * s.g b))
def execMulh (d a b : GReg) (s : State) : Out :=
  .next (s.writeG d (BitVec.ofInt 64 ((s.g a).toInt * (s.g b).toInt / 2 ^ 64)))
def execMulhu (d a b : GReg) (s : State) : Out :=
  .next (s.writeG d (BitVec.ofNat 64 ((s.g a).toNat * (s.g b).toNat / 2 ^ 64)))
def execDiv (d a b : GReg) (s : State) : Out := .next (s.writeG d (divS (s.g a) (s.g b)))
def execDivu (d a b : GReg) (s : State) : Out := .next (s.writeG d (divU (s.g a) (s.g b)))
def execRem (d a b : GReg) (s : State) : Out := .next (s.writeG d (remS (s.g a) (s.g b)))
def execRemu (d a b : GReg) (s : State) : Out := .next (s.writeG d (remU (s.g a) (s.g b)))
def execMin (d a b : GReg) (s : State) : Out := .next (s.writeG d (if (s.g a).slt (s.g b) then s.g a else s.g b))
def execMax (d a b : GReg) (s : State) : Out := .next (s.writeG d (if (s.g a).slt (s.g b) then s.g b else s.g a))
def execMinu (d a b : GReg) (s : State) : Out := .next (s.writeG d (if (s.g a).ult (s.g b) then s.g a else s.g b))
def execMaxu (d a b : GReg) (s : State) : Out := .next (s.writeG d (if (s.g a).ult (s.g b) then s.g b else s.g a))
def execClz (d a : GReg) (s : State) : Out := .next (s.writeG d (BitVec.ofNat 64 (clzN 64 (s.g a).toNat)))
def execCtz (d a : GReg) (s : State) : Out := .next (s.writeG d (BitVec.ofNat 64 (ctzN 64 (s.g a).toNat)))
def execPopc (d a : GReg) (s : State) : Out := .next (s.writeG d (BitVec.ofNat 64 (popN 64 (s.g a).toNat)))
def execAddi (d a : GReg) (i : BitVec 16) (s : State) : Out := .next (s.writeG d (s.g a + sext16 i))
def execAndi (d a : GReg) (i : BitVec 16) (s : State) : Out := .next (s.writeG d (s.g a &&& zext16 i))
def execOri (d a : GReg) (i : BitVec 16) (s : State) : Out := .next (s.writeG d (s.g a ||| zext16 i))
def execXori (d a : GReg) (i : BitVec 16) (s : State) : Out := .next (s.writeG d (s.g a ^^^ zext16 i))
def execSlti (d a : GReg) (i : BitVec 16) (s : State) : Out := .next (s.writeG d (boolW ((s.g a).slt (sext16 i))))
def execSltiu (d a : GReg) (i : BitVec 16) (s : State) : Out := .next (s.writeG d (boolW ((s.g a).ult (sext16 i))))
def execSlli (d a : GReg) (sh : BitVec 6) (s : State) : Out := .next (s.writeG d (s.g a <<< sh.toNat))
def execSrli (d a : GReg) (sh : BitVec 6) (s : State) : Out := .next (s.writeG d (s.g a >>> sh.toNat))
def execSrai (d a : GReg) (sh : BitVec 6) (s : State) : Out := .next (s.writeG d ((s.g a).sshiftRight sh.toNat))
def execLih (d a : GReg) (i : BitVec 16) (s : State) : Out := .next (s.writeG d (s.g a + sext16 i <<< 16))
/-- LI64 (07 R236, 09 R302): the pair is eight bytes long. -/
def execLi64 (d : GReg) (h : Bool) (i : BitVec 32) (s : State) : Out :=
  let old := s.g d
  let v : Word := if h then BitVec.ofNat 64 (i.toNat * 2 ^ 32 + old.toNat % 2 ^ 32) else i.signExtend 64
  .next (s.modMe (fun st => (st.setG d v).advance 8))

end Sys2Proof.Machine
end

