-- ==== Sys2Proof/Machine/Presence.lean ====
section
/-! DEFINITION. Presence words (04 R138 to R145), monitors (09 R307), barriers (04 R159, 09 R317), atomics (09 R305), fences,
WFI, ACVT and ATST (01 R21 to R24), and the steps that end a wait: PRESENCE_REISSUE, MONITOR_WAKE, ASYNC_TRAP_ENTRY. -/

namespace Sys2Proof.Machine

/-- Answer an outstanding RDF or TAKE with its word (04 R139): a strand's instruction completes; a generator's or engine's reply
is kept until it is used. -/
def Dev.answer (d : Dev) (c : ClusterId) (tag : Nat) (v : Word) : Dev :=
  match (d.cl c).reqs.find? (fun r => r.tag = tag) with
  | none => d
  | some r =>
    match r.who, r.kind with
    | .strand k, .presence _ _ _ g =>
      (d.modCl c (fun cl => { cl with reqs := cl.reqs.filter (fun q => q.tag != tag) })).modStrand c k
        (fun st => (st.setG g v).advance 4)
    | _, _ =>
      d.modCl c (fun cl => { cl with reqs := cl.reqs.map (fun q => if q.tag = tag then { q with reply := some (leBytes 8 v.toNat) } else q) })

/-- A strand's outstanding RDF or TAKE fails: it is dropped and the strand traps (09 R299). -/
def Dev.trapReq (d : Dev) (c : ClusterId) (tag : Nat) (k : StrandIx) (cause : Cause) (ga : Word) : Dev :=
  (d.modCl c (fun cl => { cl with reqs := cl.reqs.filter (fun q => q.tag != tag) })).modStrand c k (fun st => st.enterTrap cause 0 ga st.pc)

/-- The strand that waits for an RDF or TAKE. -/
def Dev.reqStrand (d : Dev) (c : ClusterId) (tag : Nat) : Option (StrandIx × Word) :=
  match (d.cl c).reqs.find? (fun r => r.tag = tag) with
  | some r => match r.who with
    | .strand k => some (k, r.addr)
    | _ => none
  | none => none

/-- An outstanding RDF or TAKE finds its word full: it takes the word, a TAKE empties it (04 R138, R139); on a poisoned atom a strand
traps and takes nothing (03 R98, 09 R303). The second answer says that the word has become empty. -/
def Dev.deliverWord (d : Dev) (c : ClusterId) (tag : Nat) (take : Bool) (key : Nat) (v : Word) : Bool × Dev :=
  match d.reqStrand c tag with
  | some (k, ga) =>
    if smem d.poison (key / 64) then (false, d.trapReq c tag k .poison ga)
    else
      let d := (d.answer c tag v).acquire c k
      if take then (true, { d with full := sdel d.full (key / 8) }) else (false, d)
  | none => if take then (true, { d.answer c tag v with full := sdel d.full (key / 8) }) else (false, d.answer c tag v)

/-- Serve the wait-table entries of a word that is full, in the order they were allocated (04 R139): each RDF, then the first
TAKE, which empties the word and ends the serving. -/
def Dev.serve (d : Dev) (home : ClusterId) (word : Nat) (v : Word) : List WaitEntry → Dev
  | [] => d
  | w :: rest =>
    if w.word = word then
      let (ended, d) := (d.modCl home (fun cl => { cl with
        waits := cl.waits.filter (fun x => !(x.reqCluster = w.reqCluster && x.tag = w.tag)) })).deliverWord w.reqCluster w.tag w.take (word * 8) v
      if ended then d else d.serve home word v rest
    else d.serve home word v rest

/-- PUT at the bank (04 R138, R139), by an agent of its cluster or a remote one (02 R64), of a value that may be poisoned (06 R215): none where
the word is full. The change of the presence bit triggers every monitor of the granule, the issuer's own too (09 R307). -/
def Dev.putWord (d : Dev) (home : ClusterId) (key : Nat) (v : Word) (remote : Bool) (poison : Bool := false) : Option Dev :=
  if smem d.full (key / 8) then none
  else
    let d := d.bankWrite remote ((leBytes 8 v.toNat).zipIdx.map (fun y => (key + y.2, y.1))) poison none
    let d := { d with full := sins d.full (key / 8) }.notify none (key / 64)
    some (d.serve home (key / 8) v (d.cl home).waits)

/-- The word of a presence operation (04 R138): LOCAL or CLUSTER scratchpad, a multiple of 8. -/
def presenceTarget (x : Ctx) (ga : Word) : Acc (ClusterId × Nat) := do
  if ga.toNat % 8 != 0 then throw .misaligned
  match x.ap.decode ga.toNat with
  | some (id, _) =>
    if id != 1 && id != 2 then throw .aperture
    let t ← resolve x ga .read
    match t with
    | .scratch c o => do
      let d ← get
      match d.bankCheck (d.partOf c) c o with
      | some e => throw e
      | none => return (c, o)
    | _ => throw .aperture
  | none => throw .aperture

/-- What an RDF or TAKE finds at the bank. -/
inductive Found where
  | value (v : Word)
  | deferred (tag : Nat)
deriving DecidableEq, Repr

/-- RDF or TAKE issued (04 R138, R142): a full word answers; an empty one takes a wait-table entry, or is refused when the
bank's table is full and is issued again 32 cycles later. -/
def Dev.issuePresence (d : Dev) (c : ClusterId) (who : Who) (take : Bool) (home : ClusterId) (o : Nat) (g : GReg) (ga : Word)
    : Found × Dev :=
  let key := d.scratchKeyOf home o
  let bank := ((d.cl home).bankMap o).1
  if smem d.full (key / 8) then
    let v := leWord (memReadN d.mem key 8)
    (.value v, if take then { d with full := sdel d.full (key / 8) }.notify none (key / 64) else d)
  else
    let limit := (d.cl c).deferLimit.toNat * 1024
    let room := decide (((d.cl home).waits.filter (fun w => w.bank = bank)).length < 64)
    let r : Req := { tag := 0, who := who, kind := .presence take home o g, addr := ga, first := d.now, limit := limit,
                     reissue := if room then none else some (d.now + 32), reply := none, member := 0, port := none, act := none }
    let (tag, d) := d.addReq c r
    (.deferred tag,
      if room then d.modCl home (fun cl => { cl with waits := cl.waits ++ [⟨bank, key / 8, take, c, tag⟩] }) else d)

/-- A requester cancels an outstanding RDF or TAKE (04 R144): its entry is freed and the operation has no effect. -/
def Dev.cancelReq (d : Dev) (c : ClusterId) (tag : Nat) : Dev :=
  let d := d.modCl c (fun cl => { cl with reqs := cl.reqs.filter (fun q => q.tag != tag) })
  { d with clusters := d.clusters.map (fun cl =>
      if cl.waits.any (fun w => w.reqCluster = c && w.tag = tag) then
        { cl with waits := cl.waits.filter (fun w => !(w.reqCluster = c && w.tag = tag)) } else cl) }

/-- A strand's program starts here: its cluster and number. -/
def State.asStrand (s : State) (prog : ClusterId → StrandIx → Ctx → M Next) : Out :=
  s.runM (prog s.curC s.curK (s.dev.strandCtx s.curC s.curK))

/-- Read a register of the strand. -/
def regM (c : ClusterId) (k : StrandIx) (r : GReg) : M Word := do return ((← get).strand c k).getG r
/-- Write a register of the strand. -/
def setRegM (c : ClusterId) (k : StrandIx) (r : GReg) (v : Word) : M Unit := modify (fun d => d.modStrand c k (fun st => st.setG r v))

/-- PUT (09 R306): a release at SCOPE; a full word traps. -/
def execPut (a b : GReg) (sc : BitVec 3) (s : State) : Out :=
  s.asStrand fun c k x => do
    let ga ← regM c k a
    let v ← regM c k b
    let (h, o) ← liftAcc ga (presenceTarget x ga)
    liftAcc ga (releaseBy c k sc.toNat)
    let d ← get
    match d.putWord h (d.scratchKeyOf h o) v (h != c) with
    | some d => do
      set d
      return none
    | none => trapM .presenceDoublePut ga

/-- RDF and TAKE by a strand (09 R306): deferred, the strand waits. -/
def presenceRead (take : Bool) (g a : GReg) (c : ClusterId) (k : StrandIx) (x : Ctx) : M Next := do
  let ga ← regM c k a
  let (h, o) ← liftAcc ga (presenceTarget x ga)
  let d ← get
  if smem d.poison (d.scratchKeyOf h o / 64) && smem d.full (d.scratchKeyOf h o / 8) then trapM .poison ga
  match d.issuePresence c (.strand k) take h o g ga with
  | (.value v, d) => do
    set (d.acquire c k)
    setRegM c k g v
    return none
  | (.deferred tag, d) => do
    set d
    throw (.wait (.presence tag))

def execTake (g a : GReg) (_sc : BitVec 3) (s : State) : Out := s.asStrand (presenceRead true g a)
def execRdf (g a : GReg) (_sc : BitVec 3) (s : State) : Out := s.asStrand (presenceRead false g a)

/-- CLRP: the word becomes empty (09 R306). -/
def execClrp (a : GReg) (s : State) : Out :=
  s.asStrand fun c k x => do
    let ga ← regM c k a
    let (h, o) ← liftAcc ga (presenceTarget x ga)
    let d ← get
    let key := d.scratchKeyOf h o
    if smem d.full (key / 8) then set ({ d with full := sdel d.full (key / 8) }.notify none (key / 64))
    return none

/-- PRB: the presence bit (09 R306). -/
def execPrb (g a : GReg) (s : State) : Out :=
  s.asStrand fun c k x => do
    let ga ← regM c k a
    let (h, o) ← liftAcc ga (presenceTarget x ga)
    let d ← get
    setRegM c k g (boolW (smem d.full (d.scratchKeyOf h o / 8)))
    return none

/-- The bank refuses an RDF or TAKE that is issued again (02 R66, R72): a strand traps; a generator sees a reply with no byte for
BANK_MOVED, and with one byte for PROTECTION. -/
def Dev.bankRefuses (d : Dev) (c : ClusterId) (tag : Nat) (e : XFault) : Dev :=
  match d.reqStrand c tag with
  | some (k, ga) => d.trapReq c tag k (if e = .bankMoved then .bankMoved else .protection) ga
  | none => d.modCl c (fun cl => { cl with
      reqs := cl.reqs.map (fun q => if q.tag = tag then { q with reply := some (if e = .bankMoved then [] else [0]), reissue := none } else q) })

/-- A refused RDF or TAKE is issued again (04 R142), each 32 cycles, and meets the bank's checks as when it was first issued. -/
def Dev.presenceReissue (d : Dev) (c : ClusterId) (tag : Nat) : Dev :=
  match (d.cl c).reqs.find? (fun r => r.tag = tag) with
  | some r =>
    match r.reissue, r.kind with
    | some t, .presence take h o _ =>
      if d.now < t then d
      else match d.bankCheck (d.partOf c) h o with
      | some e => d.bankRefuses c tag e
      | none =>
        let key := d.scratchKeyOf h o
        let bank := ((d.cl h).bankMap o).1
        if smem d.full (key / 8) then
          let v := leWord (memReadN d.mem key 8)
          let (ended, d) := d.deliverWord c tag take key v
          let d := d.modCl c (fun cl => { cl with reqs := cl.reqs.map (fun q => if q.tag = tag then { q with reissue := none } else q) })
          if ended then d.notify none (key / 64) else d
        else if ((d.cl h).waits.filter (fun w => w.bank = bank)).length < 64 then
          (d.modCl c (fun cl => { cl with reqs := cl.reqs.map (fun q => if q.tag = tag then { q with reissue := none } else q) })).modCl h
            (fun cl => { cl with waits := cl.waits ++ [⟨bank, key / 8, take, c, tag⟩] })
        else
          d.modCl c (fun cl => { cl with reqs := cl.reqs.map (fun q => if q.tag = tag then { q with reissue := some (d.now + 32) } else q) })
    | _, _ => d
  | none => d

def execPresenceReissue (c : ClusterId) (tag : Nat) (s : State) : Out := .next { s with dev := s.dev.presenceReissue c tag }

/-- FENCE (09 R307, 04 R126, R131, R132): the words fetched ahead are discarded; every kind but acquire has the strand's earlier
accesses performed at SCOPE, and waits for no other agent (R135). -/
def execFence (sc : BitVec 3) (o : BitVec 2) (s : State) : Out :=
  s.asStrand fun c k _ => do
    if o != 1 then liftAcc 0 (fenceBy c k sc.toNat)
    if o != 2 then modify (fun d => d.acquire c k)
    modify (fun d => d.modStrand c k (fun st => { st with ahead := [] }))
    return none

/-- The granule a monitor watches: none where the arm triggers at once (09 R307: ROW, PEER, MMIO, class 2). -/
def monitorGranule (x : Ctx) (ga : Word) : Acc (Option Nat) := do
  let t ← resolve x ga .read
  let d ← get
  match x.ap.decode ga.toNat with
  | some (5, _) => return none
  | _ => pure ()
  match t with
  | .scratch c o =>
    match d.bankCheck (d.partOf c) c o with
    | some e => throw e
    | none => return some (d.scratchKeyOf c o / 64)
  | .node _ _ _ => throw .aperture
  | .phys p pa _ _ => return if paClass pa = 0 then some (d.physKey p pa / 64) else none
  | .peer _ _ => return none
  | .mmio _ => return none

/-- MONARM (09 R307): a cluster tracks 16 monitors; a seventeenth drops the oldest. -/
def execMonarm (a : GReg) (s : State) : Out :=
  s.asStrand fun c k x => do
    let ga ← regM c k a
    let g ← match ← tryAcc ga (monitorGranule x ga) with
      | some g => pure g
      | none => do
        modify (fun d => d.peerRefusal c k ga)
        pure none
    modify fun d =>
      let others : List Monitor := d.monitors.filter (fun m => !(m.c = c && m.k = k))
      let mine : List Monitor := others.filter (fun m => m.c = c)
      let others : List Monitor := if mine.length < 16 then others else
        match mine with
        | o :: _ => others.filter (fun m => !(m.c = c && m.k = o.k))
        | [] => others
      { d with monitors := others ++ [⟨c, k, g.getD 0, g.isNone⟩] }
    return none

/-- A strand's MONWAIT would return (09 R307): no armed monitor, a triggered one, or an asynchronous cause pending. -/
def Dev.monReady (d : Dev) (c : ClusterId) (k : StrandIx) : Bool :=
  match d.monitors.find? (fun m => m.c = c && m.k = k) with
  | none => true
  | some m => m.triggered || (d.pending c k).isSome
/-- Disarm a strand's monitor. -/
def Dev.disarm (d : Dev) (c : ClusterId) (k : StrandIx) : Dev :=
  { d with monitors := d.monitors.filter (fun m => !(m.c = c && m.k = k)) }

/-- MONWAIT (09 R307). -/
def execMonwait (s : State) : Out :=
  s.asStrand fun c k _ => do
    let d ← get
    if d.monReady c k then do
      set (d.disarm c k)
      return none
    else throw (.wait .monwait)

/-- WFI (09 R309): returns at once when an asynchronous cause is pending. -/
def execWfi (s : State) : Out :=
  s.asStrand fun c k _ => do
    let d ← get
    if (d.pending c k).isSome then return none else throw (.wait .wfi)

/-- A strand's MONWAIT ends, or its WFI when an asynchronous cause is pending (09 R307, R309). -/
def Dev.monitorWake (d : Dev) (c : ClusterId) (k : StrandIx) : Dev :=
  match (d.strand c k).state with
  | .wait .monwait _ => if d.monReady c k then (d.disarm c k).modStrand c k (fun st => st.advance 4) else d
  | .wait .wfi _ => if (d.pending c k).isSome then d.modStrand c k (fun st => st.advance 4) else d
  | _ => d
def execMonitorWake (c : ClusterId) (k : StrandIx) (s : State) : Out := .next { s with dev := s.dev.monitorWake c k }

/-- May an asynchronous cause be taken now (09 R299)? Loads outstanding at another device, and an MSGSEND between attempts,
complete first; an IDLE strand takes none. -/
def StrandState.takesAsync : StrandState → Bool
  | .idle => false
  | .wait (.remote _) _ => false
  | .wait (.msgsend _ _ _ _ _) _ => false
  | _ => true

/-- A strand gives up the reads of another device that its interrupted ENQS, FLOAD, KSAVE or KREST has made: they have no effect (09 R299). -/
def Dev.dropReads (d : Dev) (c : ClusterId) (k : StrandIx) : Dev :=
  d.modCl c (fun cl => { cl with reqs := cl.reqs.filter (fun r =>
    !(r.who = .strand k && (match r.kind with | .read _ _ _ => true | _ => false))) })

/-- A report that is taken is cleared at its source: REGFLT.PEND of a region (14 R427, R432). -/
def Dev.taken (d : Dev) (src : Source) : Dev :=
  match src with
  | .region c r => d.modCl c (fun cl => { cl with fab := { cl.fab with
      regions := vmod cl.fab.regions r (fun x => { x with flt := { x.flt with pend := false } }) } })
  | _ => d

/-- The barrier of an instruction (09 R317): 16-byte aligned, in LOCAL or CLUSTER scratchpad. -/
def barrierTarget (x : Ctx) (ga : Word) : Acc Nat := do
  if ga.toNat % 16 != 0 then throw .misaligned
  match x.ap.decode ga.toNat with
  | some (id, _) =>
    if id != 1 && id != 2 then throw .aperture
    let t ← resolve x ga .write
    match t with
    | .scratch c o => do
      let d ← get
      match d.bankCheck (d.partOf c) c o with
      | some e => throw e
      | none => return d.scratchKeyOf c o
    | _ => throw .aperture
  | none => throw .aperture

/-- Fields of barrier word 0 (04 R159). -/
def barPH (w : Nat) : Nat := bits w 63 63
def barARR (w : Nat) : Nat := bits w 62 48
def barPEND (w : Nat) : Nat := bits w 39 0
def barWord (ph arr pend : Nat) : Nat := ph * 2 ^ 63 + arr * 2 ^ 48 + pend

/-- The cluster of a scratchpad byte, by its storage key (02 R63). -/
def keyCluster (key : Nat) : Nat := (key - scratchKey 0 0 0 0) / 64 / 6144 / 32
/-- Store a word of a barrier at its bank, by an agent of a cluster (02 R64). -/
def Dev.putBar (d : Dev) (c : ClusterId) (key : Nat) (v : Nat) (by_ : Option (ClusterId × StrandIx)) : Dev :=
  d.bankWrite (keyCluster key != c.val) ((leBytes 8 v).zipIdx.map (fun y => (key + y.2, y.1))) false by_
/-- A step of a barrier by a strand comes a cycle after a remote write of its words (02 R64; log 103). -/
def barWait (c : ClusterId) (key : Nat) : M Unit := do
  if keyCluster key = c.val && (← get).sawRemote key 16 then retryM
def Dev.getBar (d : Dev) (key : Nat) : Nat := leNat (memReadN d.mem key 8)

/-- Decrement PEND, for a command of a cluster (04 R159): the step that brings both to zero flips PH and reloads ARR. It commutes with every
other step of the barrier, and so goes on in a cycle that has seen a remote one. -/
def Dev.barPend (d : Dev) (c : ClusterId) (key n : Nat) : Dev :=
  let w := d.getBar key
  let pend := (barPEND w + 2 ^ 40 - n % 2 ^ 40) % 2 ^ 40
  let v := if pend = 0 && barARR w = 0 then barWord (1 - barPH w) (bits (d.getBar (key + 8)) 14 0) 0 else barWord (barPH w) (barARR w) pend
  let cells := (leBytes 8 v).zipIdx.map (fun y => (key + y.2, y.1))
  if keyCluster key = c.val then d.arrayWrite cells false none else d.bankWrite true cells false none

/-- BINIT (09 R317). -/
def execBinit (a b : GReg) (sc : BitVec 3) (s : State) : Out :=
  s.asStrand fun c k x => do
    let ga ← regM c k a
    let v ← regM c k b
    let key ← liftAcc ga (barrierTarget x ga)
    liftAcc ga (releaseBy c k sc.toNat)
    barWait c key
    let n := v.toNat % 2 ^ 15
    modify (fun d => (d.putBar c (key + 8) n (some (c, k))).putBar c key (barWord 0 n 0) (some (c, k)))
    return none

/-- BARR (09 R317): bit 1 of the result says that the arrival did nothing. -/
def execBarr (g a : GReg) (sc : BitVec 3) (s : State) : Out :=
  s.asStrand fun c k x => do
    let ga ← regM c k a
    let key ← liftAcc ga (barrierTarget x ga)
    liftAcc ga (releaseBy c k sc.toNat)
    barWait c key
    let d ← get
    let w := d.getBar key
    if barARR w = 0 then do
      setRegM c k g (BitVec.ofNat 64 (barPH w + 2))
      return none
    else do
      let arr := barARR w - 1
      let w' := if arr = 0 && barPEND w = 0 then barWord (1 - barPH w) (bits (d.getBar (key + 8)) 14 0) 0
        else barWord (barPH w) arr (barPEND w)
      set (d.putBar c key w' (some (c, k)))
      setRegM c k g (BitVec.ofNat 64 (barPH w))
      return none

/-- BEXP (09 R317): PEND grows; PH never flips. -/
def execBexp (a b : GReg) (_sc : BitVec 3) (s : State) : Out :=
  s.asStrand fun c k x => do
    let ga ← regM c k a
    let v ← regM c k b
    let key ← liftAcc ga (barrierTarget x ga)
    liftAcc ga (pastFence c k)
    barWait c key
    let d ← get
    let w := d.getBar key
    set (d.putBar c key (barWord (barPH w) (barARR w) ((barPEND w + v.toNat % 2 ^ 40) % 2 ^ 40)) (some (c, k)))
    return none

/-- BWAIT (09 R317): waits until PH differs from g[b][0]; the result is word 0 as read. -/
def execBwait (g a b : GReg) (_sc : BitVec 3) (s : State) : Out :=
  s.asStrand fun c k x => do
    let ga ← regM c k a
    let v ← regM c k b
    let key ← liftAcc ga (barrierTarget x ga)
    let d ← get
    let w := d.getBar key
    if barPH w = v.toNat % 2 then retryM
    modify (fun d => d.acquire c k)
    setRegM c k g (BitVec.ofNat 64 w)
    return none

/-- The read-modify-writes of AMO (09 R305), over n bytes. -/
def amoFn (op : AmoOp) (n old v : Nat) : Nat :=
  let m := 2 ^ (8 * n)
  let sg := fun (x : Nat) => if x < m / 2 then (x : Int) else (x : Int) - m
  match op with
  | .add => (old + v) % m
  | .and => old &&& v
  | .or => old ||| v
  | .xor => old ^^^ v
  | .min => if sg old < sg v then old else v
  | .max => if sg old < sg v then v else old
  | .minu => Nat.min old v
  | .maxu => Nat.max old v
  | .swap => v

/-- An atomic of a strand (09 R305): checks as R303, APERTURE on MMIO and node windows, translated as a WRITE; `f` gives the new
value or none (a failed CAS); `act` is the access that another device performs. -/
def atomicM (g a : GReg) (sc : BitVec 3) (o : BitVec 2) (n : Nat) (f : Nat → Option Nat) (act : PeerAccess)
    (c : ClusterId) (k : StrandIx) (x : Ctx) : M Next := do
  let ga ← regM c k a
  if ga.toNat % n != 0 then trapM .misaligned ga
  let sx := fun (v : Nat) => if n = 4 then (BitVec.ofNat 32 v).signExtend 64 else BitVec.ofNat 64 v
  match ← tryAcc ga (resolve x ga .write) with
  | none => do
    modify (fun d => d.peerRefusal c k ga)
    setRegM c k g 0
    return none
  | some (.peer m off) => do
    if 2 ≤ o.toNat then liftAcc ga (releaseBy c k sc.toNat) else liftAcc ga (pastFence c k)
    let _ ← liftAcc ga (peerLocal x m off n false)
    let d ← get
    let r : Req := { tag := 0, who := .strand k, kind := .atomic g n, addr := ga, first := d.now, limit := 0, reissue := none,
                     reply := none, member := m, port := d.freePort, act := some act, off := off, acq := o.toNat % 2 = 1 }
    let (tag, d) := d.addReq c r
    set d
    throw (.wait (.remote tag))
  | some t => do
    let (bs, po) ← liftAcc ga (match t with
      | .scratch _ _ => readT x ga t n
      | .phys _ _ _ _ => readT x ga t n
      | _ => throw .aperture)
    if po then trapM .poison ga
    if 2 ≤ o.toNat && (f (leNat bs)).isSome then liftAcc ga (releaseBy c k sc.toNat) else liftAcc ga (pastFence c k)
    let (old, _) ← liftAcc ga (rmwT x t n f)
    if o.toNat % 2 = 1 then modify (fun d => d.acquire c k)
    setRegM c k g (sx old)
    return none

/-- AMO with one operation (09 R305). -/
def State.amo (s : State) (op : AmoOp) (g a b : GReg) (sc : BitVec 3) (o : BitVec 2) (w : Bool) : Out :=
  let n := if w then 8 else 4
  let v := (s.g b).toNat % 2 ^ (8 * n)
  s.asStrand (atomicM g a sc o n (fun old => some (amoFn op n old v)) (.atomic op n (BitVec.ofNat 64 v)))

def execAmoAdd (d a b : GReg) (sc : BitVec 3) (o : BitVec 2) (w : Bool) (s : State) : Out := s.amo .add d a b sc o w
def execAmoAnd (d a b : GReg) (sc : BitVec 3) (o : BitVec 2) (w : Bool) (s : State) : Out := s.amo .and d a b sc o w
def execAmoOr (d a b : GReg) (sc : BitVec 3) (o : BitVec 2) (w : Bool) (s : State) : Out := s.amo .or d a b sc o w
def execAmoXor (d a b : GReg) (sc : BitVec 3) (o : BitVec 2) (w : Bool) (s : State) : Out := s.amo .xor d a b sc o w
def execAmoMin (d a b : GReg) (sc : BitVec 3) (o : BitVec 2) (w : Bool) (s : State) : Out := s.amo .min d a b sc o w
def execAmoMax (d a b : GReg) (sc : BitVec 3) (o : BitVec 2) (w : Bool) (s : State) : Out := s.amo .max d a b sc o w
def execAmoMinu (d a b : GReg) (sc : BitVec 3) (o : BitVec 2) (w : Bool) (s : State) : Out := s.amo .minu d a b sc o w
def execAmoMaxu (d a b : GReg) (sc : BitVec 3) (o : BitVec 2) (w : Bool) (s : State) : Out := s.amo .maxu d a b sc o w
def execAmoSwap (d a b : GReg) (sc : BitVec 3) (o : BitVec 2) (w : Bool) (s : State) : Out := s.amo .swap d a b sc o w

/-- CAS (09 R305): the comparison value is g[d]; a failed CAS writes nothing. -/
def execCas (d a b : GReg) (sc : BitVec 3) (o : BitVec 2) (w : Bool) (s : State) : Out :=
  let n := if w then 8 else 4
  let v := (s.g b).toNat % 2 ^ (8 * n)
  let e := (s.g d).toNat % 2 ^ (8 * n)
  s.asStrand (atomicM d a sc o n (fun old => if old = e then some v else none) (.cas n (BitVec.ofNat 64 e) (BitVec.ofNat 64 v)))

/-- ACVT.TO (01 R22, R24). -/
def execAcvtTo (d a : GReg) (id : BitVec 3) (s : State) : Out :=
  let n := id.toNat
  let x := (s.g a).toNat
  let ap := (s.dev.cl s.curC).ap
  if n = 6 && !s.me.priv then
    .next (s.trapHere .protection 0 (BitVec.ofNat 64 (0x7C000000 + d.val * 2 ^ 21 + a.val * 2 ^ 16 + 6)))
  else if n != 0 && ap.window x = n && decide (x - ap.lo n < apExtent n) then .next (s.writeG d (BitVec.ofNat 64 (x - ap.lo n)))
  else .next (s.writeG d 0xFFFFFFFFFFFFFFFF)

/-- ACVT.FROM (01 R22, R24): the sum is exact. -/
def execAcvtFrom (d a : GReg) (id : BitVec 3) (s : State) : Out :=
  let n := id.toNat
  let x := (s.g a).toNat
  let ap := (s.dev.cl s.curC).ap
  let y := ap.lo n + x
  if n = 6 && !s.me.priv then
    .next (s.trapHere .protection 0 (BitVec.ofNat 64 (0x7C000100 + d.val * 2 ^ 21 + a.val * 2 ^ 16 + 6)))
  else if n != 0 && decide (x < apExtent n) && decide (y ≤ ap.hi n) && ap.window y = n then .next (s.writeG d (BitVec.ofNat 64 y))
  else .next (s.writeG d 0xFFFFFFFFFFFFFFFF)

/-- ATST (01 R23). -/
def execAtst (d a : GReg) (s : State) : Out :=
  let ap := (s.dev.cl s.curC).ap
  .next (s.writeG d (match ap.decode (s.g a).toNat with
    | some (id, _) => BitVec.ofNat 64 id
    | none => 0))

end Sys2Proof.Machine
end

