-- ==== Sys2Proof/Machine/Engine.lean ====
section
/-! DEFINITION. Command queues (11 R342 to R350): placing a command, its start and start checks, its end and publication
(04 R156, 11 R345 to R348), holds (R349), and the instructions ENQ, ENQS and QSTAT (09 R316). -/

namespace Sys2Proof.Machine

def Dev.queue (d : Dev) (c : ClusterId) (q : QueueIx) : EngQueue := vget (d.cl c).eng q
def Dev.modQ (d : Dev) (c : ClusterId) (q : QueueIx) (f : EngQueue → EngQueue) : Dev :=
  d.modCl c (fun cl => { cl with eng := vmod cl.eng q f })
/-- What names a command in its queue: its place there. A restored command keeps a sequence number that a command of the target's own
numbering may carry too (12 R399, 14 R451). -/
def Cmd.key (k : Cmd) : Word := BitVec.ofNat 64 k.place
/-- The command of a key. -/
def Dev.cmd (d : Dev) (c : ClusterId) (q : QueueIx) (key : Word) : Option Cmd := (d.queue c q).cmds.find? (fun k => k.key = key)
def Dev.modCmd (d : Dev) (c : ClusterId) (q : QueueIx) (key : Word) (f : Cmd → Cmd) : Dev :=
  d.modQ c q (fun x => { x with cmds := x.cmds.map (fun k => if k.key = key then f k else k) })
def Cmd.kind (k : Cmd) : Option CmdKind := cmdKind (pkCmd k.w)

/-- The word of an instruction, for TRAPVAL of ILLEGAL and PROTECTION (14 R425). -/
def instrWord (i : Instr) : Word :=
  match encode i with
  | some (w, _) => BitVec.ofNat 64 w
  | none => 0

/-- A queue by number; the decoder admits no 7. -/
def qIx (q : BitVec 3) : QueueIx := if h : q.toNat < 7 then ⟨q.toNat, h⟩ else 0

/-- A command as it enters a queue. -/
def Cmd.fresh (w : Vector Word 8) (seq : Word) (refused : Bool) (id : Ident) (sender : Sender) (place : Nat)
    (after : Option (RegionIx × Nat)) : Cmd where
  w := w
  seq := seq
  state := .queued
  refused := refused
  next := 0
  done := 0
  faulted := false
  path := 0
  pend := 0
  nfast := 0
  nnear := 0
  count := 0
  digest := if pkDigest w then some Digest.init else none
  id := id
  sender := sender
  ap := Apertures.reset
  place := place
  after := after
  pages := []
  finish := none
  digestPoison := false
  floor := 0
  pub := none
  map := none

/-- Place a packet in a queue that has room: its sequence number (09 R316, 11 R343). -/
def Dev.enqueue (d : Dev) (c : ClusterId) (q : QueueIx) (w : Vector Word 8) (ok : Bool) (id : Ident) (sender : Sender)
    (after : Option (RegionIx × Nat)) : Word × Dev :=
  let x := d.queue c q
  let k := Cmd.fresh w x.nextSeq (!(ok && packetOk q w)) id sender x.placed after
  (x.nextSeq, d.modQ c q (fun x => { x with cmds := x.cmds ++ [k], nextSeq := x.nextSeq + 1, placed := x.placed + 1 }))

/-- Room in a queue (09 R316). -/
def EngQueue.room (x : EngQueue) : Bool := decide (x.cmds.length < 16)

/-- A strand queues a packet: it waits while the queue is full (09 R316). -/
def enqM (d : GReg) (q : QueueIx) (w : Vector Word 8) (c : ClusterId) (k : StrandIx) : M Next := do
  let dv ← get
  if !(dv.queue c q).room then retryM
  let st := dv.strand c k
  let (seq, dv) := dv.enqueue c q w true st.ident ⟨c, k, st.instance_⟩ none
  set dv
  setRegM c k d seq
  return none

/-- ENQ: the packet from g[a] on (07 R239, 09 R316). -/
def execEnq (d a : GReg) (q : BitVec 3) (s : State) : Out :=
  let ext := bit (s.g a).toNat 48
  if 31 < a.val + (if ext then 7 else 3) then .next (s.trapHere .illegal 0 (instrWord (.enq d a q)))
  else
    let w : Vector Word 8 := Vector.ofFn fun i =>
      if h : a.val + i.val < 32 then (if i.val < 4 || ext then s.g ⟨a.val + i.val, h⟩ else 0) else 0
    s.asStrand fun c k _ => enqM d (qIx q) w c k

/-- A relaxed read of 32 aligned bytes as words, trapping as a load does (09 R303, R316); none where a PEER target refuses it: a report
then stands for the strand, and the words read as zero (01 R18). -/
def read32 (x : Ctx) (k : StrandIx) (ga : Word) : M (List Word) := do
  let r ← tryAcc ga do
    let t ← resolve x ga .read
    match t with
    | .mmio _ => throw .misaligned
    | _ => readT x ga t 32
  match r with
  | none => do
    modify (fun d => d.peerRefusal x.c k ga)
    return [0, 0, 0, 0]
  | some (bs, po) => do
    if po then trapM .poison ga
    return (List.range 4).map (fun i => leWord ((bs.drop (8 * i)).take 8))

/-- ENQS: the packet from memory (09 R316). -/
def execEnqs (d a : GReg) (q : BitVec 3) (s : State) : Out :=
  s.asStrand fun c k x => do
    let ga ← regM c k a
    if ga.toNat % 32 != 0 then trapM .misaligned ga
    let lo ← read32 x k ga
    let hi ← if bit (lo.getD 0 0).toNat 48 then read32 x k (ga + 32) else pure []
    let w : Vector Word 8 := Vector.ofFn fun i => (lo ++ hi).getD i.val 0
    let r ← enqM d (qIx q) w c k
    modify (fun dv => dv.purgeReads c (.strand k))
    return r

/-- QSTAT; reading clears ERR (09 R316). -/
def execQstat (d : GReg) (q : BitVec 3) (s : State) : Out :=
  s.asStrand fun c k _ => do
    let dv ← get
    let x := dv.queue c (qIx q)
    setRegM c k d (BitVec.ofNat 64 (x.nextSeq.toNat % 2 ^ 48 * 65536 + b2n x.err * 256 + (16 - x.cmds.length)))
    modify (fun dv => dv.modQ c (qIx q) (fun x => { x with err := false }))
    return none

/-- The decode and space checks of an address (01 R14, R17), without translation: aperture id and offset, or the code of
11 R347. -/
def Dev.spaceCheck (d : Dev) (c : ClusterId) (id : Ident) (ap : Apertures) (ga : Nat) : Except Nat (Nat × Nat) :=
  match ap.decode ga with
  | none => .error 2
  | some (n, off) =>
    let inMap := fun (o : Nat) => decide (o < 0xF00000)
    if n = 1 then (if inMap off then .ok (n, off) else .error 2)
    else if n = 2 then
      match clusterNo (off / 2 ^ 24) with
      | none => .error 2
      | some h =>
        if (d.partOf c).isNone || d.partOf h != d.partOf c then .error 4
        else if inMap (off % 2 ^ 24) then .ok (n, off) else .error 2
    else if n = 5 then
      match d.partOf c with
      | none => .error 2
      | some p => if (d.part p).pf.domMap.getLsbD (off / 2 ^ 40) then .ok (n, off) else .error 2
    else if n = 6 then (if id.sup && d.mmioGranted (d.partOf c) off then .error 2 else .error 4)
    else .ok (n, off)

/-- Is a checked address in a memory-node window, and at which LOCAL-form offset? -/
def localForm (n off : Nat) : Option Nat := if n = 1 then some off else if n = 2 then some (off % 2 ^ 24) else none
def inNode (n off : Nat) : Bool :=
  match localForm n off with
  | some o => decide (0xC00000 ≤ o)
  | none => false
def inScratch (n off : Nat) : Bool :=
  match localForm n off with
  | some o => decide (o < 0xC00000)
  | none => false

/-- The completion address at start (11 R350): none is a failure, DONE_ADDR. -/
def Dev.doneAddrOk (d : Dev) (c : ClusterId) (k : Cmd) : Bool :=
  let ga := pw k.w 3
  match pkCk k.w with
  | 0 => true
  | ck =>
    match d.spaceCheck c k.id k.ap ga with
    | .error _ => false
    | .ok (n, off) =>
      if ck = 1 then ga % 16 = 0 && inScratch n off
      else if ck = 2 then ga % 8 = 0 && !inNode n off && n != 4
      else ga % 8 = 0 && inScratch n off

/-- A node destination at start (02 R61, 11 R352): the node is configured, the offset and length are multiples of 32. -/
def Dev.nodeStart (d : Dev) (c : ClusterId) (o len : Nat) : Option Nat :=
  let n := o / 2 ^ 17 - 0x60
  if (vgetD (d.cl c).memNodes n MemNode.reset).nb = 0 then some 2
  else if o % 32 != 0 || len % 32 != 0 then some 3 else none

/-- The first failure of a list of checks. -/
def firstErr : List (Option Nat) → Option Nat
  | [] => none
  | none :: t => firstErr t
  | some e :: _ => some e

/-- A source of a copy at start. -/
def Dev.srcCheck (d : Dev) (c : ClusterId) (k : Cmd) (ga : Nat) : Option Nat :=
  match d.spaceCheck c k.id k.ap ga with
  | .error e => some e
  | .ok (n, off) => if inNode n off then some 2 else none
/-- A destination of a copy at start. -/
def Dev.dstCheck (d : Dev) (c : ClusterId) (k : Cmd) (ga len : Nat) : Option Nat :=
  match d.spaceCheck c k.id k.ap ga with
  | .error e => some e
  | .ok (n, off) =>
    match localForm n off with
    | some o => if o < 0xC00000 then none else
        d.nodeStart (if n = 1 then c else (clusterNo (off / 2 ^ 24)).getD c) o len
    | none => none
/-- An address that must lie in some apertures, not in a node window. DESIGN CHOICE (log 98): where the address fails a space check of 01 R17 and
names a space that the command does not accept, the code is that of R17 (PROTECTION for another partition's cluster or a register
block not granted), not the APERTURE of 03 R93 and R104: the spec does not order the two. -/
def Dev.inSpaces (d : Dev) (c : ClusterId) (k : Cmd) (ga : Nat) (ids : List Nat) : Option Nat :=
  match d.spaceCheck c k.id k.ap ga with
  | .error e => some e
  | .ok (n, off) => if !ids.contains n || inNode n off then some 2 else none
/-- An alignment rule. -/
def alignErr (ga n : Nat) : Option Nat := if ga % n = 0 then none else some 3

/-- The clusters that MCAST names (11 R356). -/
def mcastClusters (w : Vector Word 8) : List ClusterId :=
  ((List.range 18).filter (fun i => bit (pw w 4) i)).filterMap (fun i => clusterNo (18 * bits (pw w 4) 25 24 + i))

/-- The settings that BANKCFG would leave (02 R71): refused where a group would be unequal, a mode needs GLOG, or the owner is
neither the cluster's partition nor 0xF. -/
def Dev.bankcfgOk (d : Dev) (c : ClusterId) (w : Vector Word 8) : Bool :=
  let owner := bits (pw w 2) 11 8
  let glog := bits (pw w 2) 4 2
  let mode := bits (pw w 2) 1 0
  let new := fun (n : Nat) =>
    let b := vgetD (d.cl c).banks n BankCfg.reset
    if bit (pw w 1) n then (owner, glog, mode) else (b.owner.toNat, b.glog.toNat, b.mode.toNat)
  decide (glog ≤ 5) && decide (mode ≤ 2) && (mode = 0 || decide (1 ≤ glog)) &&
    (owner = 15 || (match d.partOf c with | some p => owner = p.val | none => false)) &&
    (List.range 32).all (fun n =>
      let g := 2 ^ (new n).2.1
      (List.range g).all (fun i => new (n - n % g + i) = new n))

/-- The checks at the start of a command of ce0 to ce3, MG0 or MG1 (11 R350): none, or the code it ends with. -/
def Dev.startCheck (d : Dev) (c : ClusterId) (k : Cmd) : Option Nat :=
  let w1 := pw k.w 1
  let w2 := pw k.w 2
  let n := pkCount k.w
  if !d.doneAddrOk c k then some 10
  else match k.kind with
    | some .copy => firstErr [d.srcCheck c k w1, d.dstCheck c k w2 n]
    | some .copy2d => firstErr [d.srcCheck c k w1, d.dstCheck c k w2 n]
    | some .copy3d => firstErr [d.srcCheck c k w1, d.dstCheck c k w2 n]
    | some .gather =>
      firstErr [d.dstCheck c k w2 (transferBytes .gather k.w), d.srcCheck c k (pw k.w 5),
        alignErr (pw k.w 5) (if bit (pw k.w 4) 4 then 8 else 4)]
    | some .scatter =>
      firstErr [d.srcCheck c k w1, d.srcCheck c k (pw k.w 5), alignErr (pw k.w 5) (if bit (pw k.w 4) 4 then 8 else 4)]
    | some .fill => d.dstCheck c k w2 n
    | some .mcast =>
      firstErr [d.srcCheck c k w1,
        match k.ap.decode w2 with
        | some (2, off) =>
          if (mcastClusters k.w).any (fun h => d.partOf h != d.partOf c || (d.partOf c).isNone) ||
              (mcastClusters k.w).length != popN 18 (bits (pw k.w 4) 17 0) then some 4
          else if 0xF00000 ≤ off % 2 ^ 24 then some 2
          else if off % 2 ^ 24 < 0xC00000 then none
          else firstErr ((mcastClusters k.w).map (fun h => d.nodeStart h (off % 2 ^ 24) n))
        | _ => some 2]
    | some .reduce =>
      let e := redSize (bits (pkFmt k.w) 3 0)
      firstErr [d.srcCheck c k w1, d.inSpaces c k w2 [1, 2, 3, 4, 5], alignErr n e, alignErr w1 e, alignErr w2 e]
    | some .signal =>
      firstErr [if n = 0 then d.inSpaces c k w2 [1, 2, 3, 4, 5] else d.inSpaces c k w2 [1, 2], alignErr w2 8]
    | some .prefetch => d.inSpaces c k w1 [3, 4]
    | some .llsclean => d.inSpaces c k w1 [3, 4]
    | some .llsinv => d.inSpaces c k w1 [3, 4]
    | some .llsflush => d.inSpaces c k w1 [3, 4]
    | some .bankcfg => if !k.id.sup then some 4 else if d.bankcfgOk c k.w then none else some 1
    | some .rowfill => d.inSpaces c k w2 [3, 4]
    | some .rowcopy => firstErr [d.inSpaces c k w1 [3, 4], d.inSpaces c k w2 [3, 4]]
    | some .rownot => firstErr [d.inSpaces c k w1 [3, 4], d.inSpaces c k w2 [3, 4]]
    | some .rowand => firstErr [d.inSpaces c k w1 [3, 4], d.inSpaces c k w2 [3, 4], d.inSpaces c k (pw k.w 4) [3, 4]]
    | some .rowor => firstErr [d.inSpaces c k w1 [3, 4], d.inSpaces c k w2 [3, 4], d.inSpaces c k (pw k.w 4) [3, 4]]
    | some .rowxor => firstErr [d.inSpaces c k w1 [3, 4], d.inSpaces c k w2 [3, 4], d.inSpaces c k (pw k.w 4) [3, 4]]
    | some .rowmaj =>
      firstErr [d.inSpaces c k w1 [3, 4], d.inSpaces c k w2 [3, 4], d.inSpaces c k (pw k.w 4) [3, 4],
        d.inSpaces c k (pw k.w 5) [3, 4]]
    | some .update =>
      firstErr [d.srcCheck c k w1, d.inSpaces c k w2 [1, 2, 3],
        if pw k.w 4 = 0 then none else d.srcCheck c k (pw k.w 4), alignErr w1 16, alignErr (pw k.w 4) 16]
    | _ => none

/-- The commands whose completion AFTER waits for are DONE (04 R155). -/
def EngQueue.afterDone (x : EngQueue) (k : Cmd) : Bool :=
  (List.range 4).all fun i =>
    !bit (pkAfter k.w) i || !x.cmds.any (fun o => o.place + i + 1 = k.place && decide (k.floor ≤ o.place))

/-- Started commands of a queue (11 R349, ACT). -/
def EngQueue.act (x : EngQueue) : Nat := (x.cmds.filter (fun k => k.state != .queued)).length

/-- The oldest QUEUED command (11 R342). -/
def EngQueue.oldest (x : EngQueue) : Option Cmd := x.cmds.find? (fun k => k.state = .queued)

/-- Writes of a region's rounds up to n are handed over: no half of those rounds drains (04 R154). -/
def Dev.roundsDrained (d : Dev) (c : ClusterId) (r : RegionIx) (n : Nat) : Bool :=
  match (vget (d.cl c).fab.regions r).drain with
  | some h => decide (n < h.round)
  | none => true

/-- May the command start now (11 R342, R373; 04 R154; 12 R388)? -/
def Dev.mayStart (d : Dev) (c : ClusterId) (q : QueueIx) (k : Cmd) : Bool :=
  let x := d.queue c q
  let earlier := x.cmds.filter (fun o => decide (o.place < k.place))
  !x.hold && decide (x.act < 4) && x.afterDone k &&
    (match k.after with | some (r, n) => d.roundsDrained c r n | none => true) &&
    (k.kind != some .uflush || earlier.isEmpty) &&
    (q.val != 6 || !earlier.any (fun o => !o.refused && pkCount o.w % 16 = pkCount k.w % 16))

/-- The oldest QUEUED command of a queue starts, if it is of this kind and its conditions hold: with REL the issuer's earlier
accesses are performed first, a strand's signal operations among them (04 R153; before a command that may run row frames at their homes, whatever
the scope, R160), then its addresses are decoded and checked (11 R350). -/
def Dev.startCmd (d : Dev) (c : ClusterId) (q : QueueIx) (kind : CmdKind) (check : Dev → Cmd → Option Nat) : Dev :=
  match (d.queue c q).oldest with
  | none => d
  | some k =>
    if k.refused || k.kind != some kind || !d.mayStart c q k then d
    else if pkRel k.w && k.after.isNone && (d.cl k.sender.c).signals.any (fun s => s.k = k.sender.k) then d
    else match (if pkRel k.w then release c (if kind.isRow || kind = .shdupd then Nat.max 2 (pkScope k.w) else pkScope k.w) else (pure () : Acc Unit)) d with
      | (.error _, d) => d
      | (.ok _, d) =>
        let k := { k with ap := (d.cl c).ap, state := .active }
        d.modCmd c q k.key (fun _ => { k with finish := check d k })

/-- The start of a command of a copy engine. -/
def State.startCe (s : State) (c : ClusterId) (q : CeIx) (kind : CmdKind) : Out :=
  .next { s with dev := s.dev.startCmd c ⟨q.val, by omega⟩ kind (fun d k => d.startCheck c k) }

def execCopy (c : ClusterId) (q : CeIx) (s : State) : Out := s.startCe c q .copy
def execCopy2d (c : ClusterId) (q : CeIx) (s : State) : Out := s.startCe c q .copy2d
def execCopy3d (c : ClusterId) (q : CeIx) (s : State) : Out := s.startCe c q .copy3d
def execGather (c : ClusterId) (q : CeIx) (s : State) : Out := s.startCe c q .gather
def execScatter (c : ClusterId) (q : CeIx) (s : State) : Out := s.startCe c q .scatter
def execFill (c : ClusterId) (q : CeIx) (s : State) : Out := s.startCe c q .fill
def execMcast (c : ClusterId) (q : CeIx) (s : State) : Out := s.startCe c q .mcast
def execReduce (c : ClusterId) (q : CeIx) (s : State) : Out := s.startCe c q .reduce
def execStamp (c : ClusterId) (q : CeIx) (s : State) : Out := s.startCe c q .stamp
def execSignal (c : ClusterId) (q : CeIx) (s : State) : Out := s.startCe c q .signal
def execPrefetch (c : ClusterId) (q : CeIx) (s : State) : Out := s.startCe c q .prefetch
def execLlsclean (c : ClusterId) (q : CeIx) (s : State) : Out := s.startCe c q .llsclean
def execLlsinv (c : ClusterId) (q : CeIx) (s : State) : Out := s.startCe c q .llsinv
def execLlsflush (c : ClusterId) (q : CeIx) (s : State) : Out := s.startCe c q .llsflush
def execBankcfg (c : ClusterId) (q : CeIx) (s : State) : Out := s.startCe c q .bankcfg
def execRowcopy (c : ClusterId) (q : CeIx) (s : State) : Out := s.startCe c q .rowcopy
def execRowfill (c : ClusterId) (q : CeIx) (s : State) : Out := s.startCe c q .rowfill
def execRowand (c : ClusterId) (q : CeIx) (s : State) : Out := s.startCe c q .rowand
def execRowor (c : ClusterId) (q : CeIx) (s : State) : Out := s.startCe c q .rowor
def execRowxor (c : ClusterId) (q : CeIx) (s : State) : Out := s.startCe c q .rowxor
def execRownot (c : ClusterId) (q : CeIx) (s : State) : Out := s.startCe c q .rownot
def execRowmaj (c : ClusterId) (q : CeIx) (s : State) : Out := s.startCe c q .rowmaj

/-- The start of a command of a merge unit. -/
def State.startMg (s : State) (c : ClusterId) (m : MgIx) (kind : CmdKind) : Out :=
  .next { s with dev := s.dev.startCmd c ⟨4 + m.val, by omega⟩ kind (fun d k => d.startCheck c k) }
def execUpdate (c : ClusterId) (m : MgIx) (s : State) : Out := s.startMg c m .update
def execUflush (c : ClusterId) (m : MgIx) (s : State) : Out := s.startMg c m .uflush

/-- Frames of a tensor of the step table (12 R397). -/
def StepEntry.tiles (e : StepEntry) : Nat :=
  let p := pw e.words 6
  (bits p 63 58 + 1) * (bits p 57 52 + 1)
/-- Bytes of an element of a format code of R218. -/
def fmtBytes (f : Nat) : Nat := match f with | 0 => 4 | 1 => 2 | 2 => 1 | 3 => 4 | 4 => 2 | 5 => 2 | _ => 1
/-- Frames of 98,304 bytes that the output tensor covers, the last perhaps in part (12 R397). -/
def StepEntry.frames (e : StepEntry) : Nat := (e.tiles * 1024 * fmtBytes (bits (pw e.words 6) 44 42) + 98303) / 98304
/-- The entry that a command of queue 6 names. -/
def Dev.stepEntry (d : Dev) (c : ClusterId) (k : Cmd) : StepEntry :=
  vgetD (d.cl c).step.entries (pkCount k.w % 16) ⟨false, Vector.replicate 8 0, 0, 0⟩

/-- The units of work of a command: sectors, frames, tokens, tiles. -/
def Dev.cmdUnits (d : Dev) (c : ClusterId) (k : Cmd) : Nat :=
  match k.kind with
  | some .stamp => 0
  | some .uflush => 0
  | some .signal => 1
  | some .bankcfg => 2
  | some .stepset => 1
  | some .steprd => 1
  | some .update => pkCount k.w
  | some .sigcmp => (d.stepEntry c k).tiles
  | some .shdupd => (d.stepEntry c k).frames
  | some kd => if kd.isRow then pkCount k.w else (transferBytes kd k.w + 4095) / 4096
  | none => 0

/-- Destination bytes counted by PEND under CK = 1 (11 R351, R367). -/
def Cmd.pendTotal (k : Cmd) : Nat :=
  match k.kind with
  | some .mcast => pkCount k.w * (mcastClusters k.w).length
  | some .shdupd => k.count.toNat
  | some kd => if kd.isRow then pkCount k.w * 98304 else transferBytes kd k.w
  | none => 0

/-- The agent of a command's accesses. -/
def Cmd.ctx (k : Cmd) (c : ClusterId) (q : QueueIx) : Ctx := ⟨c, .queue q k.key, k.id, k.ap⟩

/-- Chunks of a command that still wait for a memory node. -/
def Dev.chunksWait (d : Dev) (c : ClusterId) (q : QueueIx) (key : Word) : Bool :=
  d.clusters.toList.any (fun cl => cl.memNodes.toList.any (fun n => n.wait.any (fun x => x.owner = .cmd c q key)))
/-- Tokens of a command that are still in the eddy window. -/
def EngQueue.inWindow (x : EngQueue) (key : Word) : Bool := x.groups.any (fun g => g.toks.any (fun t => t.cmd = key))
/-- Writes of a command to other devices that are not acknowledged, and those that were refused. -/
def Dev.unacked (d : Dev) (c : ClusterId) (q : QueueIx) (key : Word) : Bool :=
  (d.cl c).reqs.any (fun r => r.who = .queue q key && r.kind = .store && r.reply.isNone)
def Dev.refusedStore (d : Dev) (c : ClusterId) (q : QueueIx) (key : Word) : Bool :=
  (d.cl c).reqs.any (fun r => r.who = .queue q key && r.kind = .store && (match r.reply with | some l => !l.isEmpty | none => false))

/-- The body of a started command has ended: its code (11 R347). -/
def Dev.bodyCode (d : Dev) (c : ClusterId) (q : QueueIx) (k : Cmd) : Option Nat :=
  if k.state != .active || d.chunksWait c q k.key || (d.queue c q).inWindow k.key then none
  else match k.finish with
    | some e => some e
    | none => if d.cmdUnits c k ≤ k.next then some (if k.digestPoison then 8 else 0) else none

/-- The ENGLOG entry (11 R346). -/
def engLog (k : Cmd) (code : Nat) : Word :=
  let row := match k.kind with | some kd => kd.isRow || kd = .shdupd | none => false
  let quiet := !row || code = 1 || code = 2 || code = 5
  BitVec.ofNat 64 (k.seq.toNat % 65536 * 2 ^ 48 + code * 2 ^ 40 +
    (if quiet then 0 else k.path % 4 * 2 ^ 38 + k.nfast % 2 ^ 17 * 2 ^ 19 + k.nnear % 2 ^ 17 * 4) + 1)

/-- The strand that a report for a queue or region names, or strand 0 of the unit's cluster (11 R348, 14 R433). -/
def Dev.reportStrand (d : Dev) (home c : ClusterId) (k : StrandIx) : ClusterId × StrandIx :=
  if (d.strand c k).state = .idle || d.partOf c != d.partOf home || (d.partOf home).isNone then (home, 0) else (c, k)

/-- The command becomes DONE (11 R346, R348). -/
def Dev.cmdDone (d : Dev) (c : ClusterId) (q : QueueIx) (k : Cmd) (code : Nat) : Dev :=
  let x := d.queue c q
  let d := d.modCl c (fun cl => { cl with reqs := cl.reqs.filter (fun r => r.who != .queue q k.key) })
  let d := d.modQ c q (fun x => { x with
    cmds := x.cmds.filter (fun o => o.key != k.key),
    log := tset x.log (k.seq.toNat % 16) (engLog k code),
    err := x.err || code != 0 })
  if code != 0 && x.errTrap then
    let (rc, rk) := d.reportStrand c k.sender.c k.sender.k
    d.report ⟨.engine c q, rc, rk, .engineFault, 0,
      BitVec.ofNat 64 (q.val * 2 ^ 61 + code * 2 ^ 48 + k.seq.toNat % 2 ^ 48)⟩
  else d

/-- Accesses of a unit: a failure names its generic address and whether it was a write (01 R38). -/
abbrev UA := ExceptT (XFault × Word × Bool) (StateM Dev)

/-- An access of a unit at an address. -/
def atGa {α : Type} (ga : Word) (wr : Bool) (a : Acc α) : UA α := do
  let d ← get
  match a d with
  | (.ok x, d) => do
    set d
    return x
  | (.error e, d) => do
    set d
    throw (e, ga, wr)

/-- The aligned 64-byte granules that a range touches: address and bytes in each. -/
def granules : Nat → Word → Nat → List (Word × Nat)
  | 0, _, _ => []
  | fuel + 1, ga, n =>
    if n = 0 then []
    else
      let k := Nat.min n (64 - ga.toNat % 64)
      (ga, k) :: granules fuel (ga + BitVec.ofNat 64 k) (n - k)

/-- Resolve an access so that it cannot fail later: bank checks made, no node or register reached. -/
def uResolve (x : Ctx) (kind : AccKind) (g : Word × Nat) : UA Target :=
  atGa g.1 (kind == .write) do
    let t ← resolve x g.1 kind
    match t with
    | .scratch h o =>
      let d ← get
      match d.bankCheck (d.partOf h) h o with
      | some e => throw e
      | none => return t
    | .node _ _ _ => if kind = .write then return t else throw .aperture
    | .mmio _ => throw .aperture
    | _ => return t

/-- Write bytes that may cross 64-byte granules: every granule is resolved before the first write. -/
def writeBytes (x : Ctx) (ga : Word) (bs : List Byte) (poison : Bool) : UA Unit := do
  let gs := granules (bs.length / 64 + 2) ga bs.length
  let ts ← gs.mapM (uResolve x .write)
  for (g, t) in gs.zip ts do
    atGa g.1 true (writeT x g.1 t (cellsOf ((bs.drop (g.1 - ga).toNat).take g.2)) poison)

/-- Read bytes that may cross 64-byte granules, every granule resolved first: each byte with its poison. -/
def readMarked (x : Ctx) (runs : List (Word × Nat)) : UA (List (Byte × Bool)) := do
  let gs := runs.flatMap (fun r => granules (r.2 / 64 + 2) r.1 r.2)
  let ts ← gs.mapM (uResolve x .read)
  let parts ← (gs.zip ts).mapM (fun gt => do
    let (bs, po) ← atGa gt.1.1 false (readT x gt.1.1 gt.2 gt.1.2)
    return bs.map (fun b => (b, po)))
  return parts.flatten

/-- As readMarked, for one range: bytes and whether any is poisoned. -/
def readBytes (x : Ctx) (ga : Word) (n : Nat) : UA (List Byte × Bool) := do
  let l ← readMarked x [(ga, n)]
  return (l.map (·.1), l.any (·.2))

/-- The code of an access that fails without a translation fault (11 R347). -/
def XFault.code : XFault → Nat
  | .aperture => 2 | .misaligned => 3 | .protection => 4 | .bankMoved => 6 | .poison => 8 | .doublePut => 7 | .refused => 4
  | _ => 4

/-- Bit of the fault record that names a queue's unit (01 R40). -/
def queueAgent (q : QueueIx) : Nat := if q.val < 4 then 41 else if q.val = 6 then 43 else 42

/-- A translation fault of a command: recorded, and the command is suspended (01 R38, 11 R358). -/
def Dev.suspendCmd (d : Dev) (c : ClusterId) (q : QueueIx) (k : Cmd) (ga : Word) (write : Bool) (code level : Nat) : Dev :=
  let d := match k.ap.decode ga.toNat, d.partOf c with
    | some (n, off), some p => d.recordFault p c k.id.asid off (n == 4) write code level (queueAgent q)
    | _, _ => d
  d.modCmd c q k.key (fun k => { k with state := .suspended, faulted := true })

/-- The digest goes before its stamp (04 R156): written, or zero after an error (11 R345), and on its way to its home. -/
def digestWrite (x : Ctx) (k : Cmd) (err : Bool) : UA Unit := do
  match k.digest with
  | some dg => do
    writeBytes x (BitVec.ofNat 64 (pw k.w 3) + 8) (if err then List.replicate 48 0 else dg.final) false
    if 2 ≤ pkScope k.w then modify (fun d => d.drain x.c)
  | none => pure ()

/-- The write of a completion (04 R156, 11 R345): by kind; err sets bit 63. PEND counts modulo 2^40 (04 R159). -/
def publishWrite (x : Ctx) (k : Cmd) (err : Bool) : UA Unit := do
  let ga : Word := BitVec.ofNat 64 (pw k.w 3)
  let v : Word := if err then k.seq ||| 0x8000000000000000 else k.seq
  match pkCk k.w with
  | 1 => do
    let key ← atGa ga true (barrierTarget x ga)
    let left := (k.pendTotal + 2 ^ 40 - k.pend.toNat) % 2 ^ 40
    if left != 0 then modify (fun d => d.barPend x.c key left)
  | 2 => writeBytes x ga (leBytes 8 v.toNat) false
  | 3 => do
    let (h, o) ← atGa ga true (presenceTarget x ga)
    let d ← get
    match d.putWord h (d.scratchKeyOf h o) v (h != x.c) with
    | some d => set d
    | none => throw (.doublePut, ga, true)
  | _ => pure ()

/-- COMPLETION_PUBLISH (04 R156, 11 R343, R345, R350): a refused command at the head of QUEUED, or a started one whose body has
ended and whose writes are performed at SCOPE, publishes and becomes DONE; a stamp on another device waits for its
acknowledgement. -/
def Dev.publish (d : Dev) (c : ClusterId) (q : QueueIx) (key : Word) : Dev :=
  match d.cmd c q key with
  | none => d
  | some k =>
    if k.refused then
      match (d.queue c q).oldest with
      | some o => if o.key = key && !(d.queue c q).hold then d.cmdDone c q k 1 else d
      | none => d
    else match d.bodyCode c q k with
      | none => d
      | some code =>
        if d.unacked c q key then d
        else if k.pub = some 1 && d.refusedStore c q key then d.cmdDone c q k (if code = 0 then 10 else code)
        else if k.pub = some 0 then
          d.cmdDone c q k (if d.refusedStore c q key then (if code = 0 then 10 else code) else code)
        else
          let code := if code = 0 && d.refusedStore c q key then 4 else code
          let d := d.modCl c (fun cl => { cl with reqs := cl.reqs.filter (fun r => r.who != .queue q key) })
          if code = 1 || code = 10 then d.cmdDone c q k code
          else
            let isRow := match k.kind with | some kd => kd.isRow | none => false
            let d := if decide (2 ≤ pkScope k.w) || isRow then d.drain c else d
            if d.unacked c q key then d
            else
              let x := k.ctx c q
              let failed := fun (d : Dev) (e : XFault × Word × Bool) => match e.1 with
                | .walk wc lv => (d.suspendCmd c q k e.2.1 true wc lv).modCmd c q key (fun k => { k with finish := some code })
                | .wait => d
                | .doublePut => d.cmdDone c q k (if code = 0 then 7 else code)
                | _ => d.cmdDone c q k (if code = 0 then 10 else code)
              match (if pkCk k.w = 2 && k.pub.isNone then digestWrite x k (code != 0) else (pure () : UA Unit)) d with
              | (.error e, d) => failed d e
              | (.ok _, d) =>
                if d.unacked c q key then d.modCmd c q key (fun k => { k with pub := some 1, finish := some code })
                else match publishWrite x k (code != 0) d with
                | (.error e, d) => failed d e
                | (.ok _, d) =>
                  let toPeer := (d.cl c).buffer.any (fun w => w.who = .queue q key && (match w.dest with | .peer _ => true | _ => false))
                  if toPeer then (d.drain c).modCmd c q key (fun k => { k with pub := some 0, finish := some code })
                  else d.cmdDone c q k code

def execCompletionPublish (c : ClusterId) (q : QueueIx) (key : Word) (s : State) : Out :=
  .next { s with dev := s.dev.publish c q key }

/-- A write of ENGCTLq (11 R349): with HOLD = 0 the queue resumes. -/
def Dev.writeEngctl (d : Dev) (c : ClusterId) (q : QueueIx) (v : Word) : Dev :=
  d.modQ c q fun x =>
    if bit v.toNat 0 then { x with errTrap := bit v.toNat 2, hold := true }
    else { x with
      errTrap := bit v.toNat 2, hold := false, held := false,
      cmds := x.cmds.map (fun k => if k.state = .suspended && !k.faulted then { k with state := .active } else k) }

/-- HOLD: a write of ENGCTL with HOLD = 1. -/
def execHold (c : ClusterId) (q : QueueIx) (v : Word) (s : State) : Out :=
  if bit v.toNat 0 then .next { s with dev := s.dev.writeEngctl c q v } else .next s
/-- HOLD_RELEASE: a write of ENGCTL with HOLD = 0. -/
def execHoldRelease (c : ClusterId) (q : QueueIx) (v : Word) (s : State) : Out :=
  if bit v.toNat 0 then .next s else .next { s with dev := s.dev.writeEngctl c q v }

/-- Work of a queue that is in flight (11 R349): chunks that wait for a node, unacknowledged writes, tokens in the window, a
bank reassignment under way, a frame of tiles begun (12 R397), a body that has ended and is not published. -/
def Dev.inFlight (d : Dev) (c : ClusterId) (q : QueueIx) : Bool :=
  let x := d.queue c q
  !x.groups.isEmpty || x.cmds.any (fun k =>
    d.chunksWait c q k.key || d.unacked c q k.key || (k.kind = some .bankcfg && k.next = 1) || k.tilesDone != 0 || (d.bodyCode c q k).isSome)

/-- HELD: the hold is complete; every started command is SUSPENDED (11 R349). What the queue has written is performed at its homes, so that a
read of HELD that acquires synchronises with it (04 R137). -/
def Dev.complHold (d : Dev) (c : ClusterId) (q : QueueIx) : Dev :=
  let x := d.queue c q
  if x.hold && !x.held && !d.inFlight c q then
    (d.drain c).modQ c q (fun x => { x with
      held := true, cmds := x.cmds.map (fun k => if k.state = .active then { k with state := .suspended } else k) })
  else d
def execHeld (c : ClusterId) (q : QueueIx) (s : State) : Out := .next { s with dev := s.dev.complHold c q }

/-- FQRETRY reaches the commands of a cluster's queues (01 R44, 11 R358). -/
def Dev.retryCmds (d : Dev) (c : ClusterId) : Dev :=
  (List.finRange 7).foldl (fun d q => d.modQ c q fun x => { x with
    cmds := x.cmds.map (fun k =>
      if k.faulted then { k with faulted := false, state := if x.held then .suspended else .active } else k) }) d

end Sys2Proof.Machine
end

