-- ==== Sys2Proof/Machine/Transfer.lean ====
section
/-! DEFINITION. The sectors of copy-engine commands (11 R352 to R366), writes into memory nodes (02 R61) and the reassignment
of banks (02 R72). -/

namespace Sys2Proof.Machine

/-- Bytes lo to hi of a transfer of rows: source and destination of each piece of a row (11 R352). -/
def rowRuns (row n1 : Nat) (w1 w2 s1 d1 s2 d2 : Word) : Nat → Nat → Nat → List ((Word × Nat) × (Word × Nat))
  | 0, _, _ => []
  | fuel + 1, lo, hi =>
    if hi ≤ lo then []
    else
      let r := lo / row
      let b := lo % row
      let i1 := BitVec.ofNat 64 (r % n1)
      let i2 := BitVec.ofNat 64 (r / n1)
      let n := Nat.min (row - b) (hi - lo)
      ((w1 + i1 * s1 + i2 * s2 + BitVec.ofNat 64 b, n), (w2 + i1 * d1 + i2 * d2 + BitVec.ofNat 64 b, n)) ::
        rowRuns row n1 w1 w2 s1 d1 s2 d2 fuel (lo + n) hi

/-- A signed 32-bit field in a word. -/
def sfield (x hi lo : Nat) : Word := (BitVec.ofNat 32 (bits x hi lo)).signExtend 64

/-- A target o bytes before this one, in the same granule. -/
def Target.back (t : Target) (o : Nat) : Target :=
  match t with
  | .scratch c a => .scratch c (a - o)
  | .node c n f => .node c n (f - o)
  | .phys p pa cache enc => .phys p (pa - o) cache enc
  | .peer m off => .peer m (off - o)
  | .mmio a => .mmio (a - o)

/-- Read ranges whose granules are to be read once, though another sector reads them too (04 R122): a granule among `keep` is read whole, and kept
with the number of the last sector that needs it. -/
def readKept (x : Ctx) (k : Cmd) (keep : List (Nat × Nat)) (runs : List (Word × Nat)) : UA (List (Byte × Bool)) := do
  let gs := runs.flatMap (fun r => granules (r.2 / 64 + 2) r.1 r.2)
  let ts ← gs.mapM (uResolve x .read)
  let parts ← (gs.zip ts).mapM (fun gt => do
    let g := gt.1.1.toNat / 64
    let o := gt.1.1.toNat % 64
    match keep.find? (fun e => e.1 = g) with
    | none => do
      let (bs, po) ← atGa gt.1.1 false (readT x gt.1.1 gt.2 gt.1.2)
      return bs.map (fun b => (b, po))
    | some e => do
      let q := match x.who with | .queue q _ => q | _ => 0
      let d ← get
      let have_ : Option (Nat × Nat × List (Byte × Bool)) := match d.cmd x.c q k.key with
        | some k => k.shared.find? (fun s => s.2.1 = g)
        | none => none
      match have_ with
      | some s => return (s.2.2.drop o).take gt.1.2
      | none => do
        let (bs, po) ← atGa gt.1.1 false (readT x (gt.1.1 - BitVec.ofNat 64 o) (gt.2.back o) 64)
        let whole := bs.map (fun b => (b, po))
        modify (fun (d : Dev) => d.modCmd x.c q k.key (fun k => { k with shared := k.shared ++ [(e.2, g, whole)] }))
        return (whole.drop o).take gt.1.2)
  return parts.flatten

/-- Index size of a GATHER or SCATTER, and the address of the index of an element (11 R353). -/
def Cmd.indexBytes (k : Cmd) : Nat := if bit (pw k.w 4) 4 then 8 else 4
def Cmd.indexAt (k : Cmd) (e : Nat) : Nat := pw k.w 5 + e * k.indexBytes

/-- The element ranges of transfer bytes lo to hi, those of sector i, of a GATHER or SCATTER (11 R353): a poisoned index ends the command. The first
and last may be parts of elements. A granule of indices that the sectors beside this one read too is read once (04 R122). -/
def indexed (x : Ctx) (k : Cmd) (base : Word) (i lo hi : Nat) : UA (List (Word × Nat)) := do
  let e := 2 ^ bits (pw k.w 4) 3 0
  let iw := k.indexBytes
  let e0 := lo / e
  let n := (hi + e - 1) / e - e0
  let keep := (if e0 = 0 then [] else [(k.indexAt e0 / 64, i)]) ++ [(k.indexAt (e0 + n - 1) / 64, i + 1)]
  let l ← readKept x k keep.reverse [(BitVec.ofNat 64 (k.indexAt e0), n * iw)]
  let bs := l.map (·.1)
  if l.any (·.2) then throw (.poison, BitVec.ofNat 64 (k.indexAt e0), false)
  return (List.range n).map (fun i =>
    let v := leNat ((bs.drop (iw * i)).take iw)
    let ix : Word := if iw = 8 then BitVec.ofNat 64 v else (BitVec.ofNat 32 v).signExtend 64
    let from_ := Nat.max lo ((e0 + i) * e)
    let to_ := Nat.min hi ((e0 + i + 1) * e)
    (base + ix * sfield (pw k.w 6) 31 0 + BitVec.ofNat 64 (from_ - (e0 + i) * e), to_ - from_))

/-- The pieces of rows of a COPY2D or COPY3D: source and destination ranges of transfer bytes lo to hi. -/
def Cmd.rows (k : Cmd) (lo hi : Nat) : List ((Word × Nat) × (Word × Nat)) :=
  let three := k.kind = some .copy3d
  rowRuns (pkCount k.w) (bits (pw k.w 4) 31 0) (vgetD k.w 1 0) (vgetD k.w 2 0) (sfield (pw k.w 5) 31 0) (sfield (pw k.w 5) 63 32)
    (if three then sfield (pw k.w 6) 31 0 else 0) (if three then sfield (pw k.w 6) 63 32 else 0) 4400 lo hi

/-- Source ranges of transfer bytes lo to hi, those of sector i, in transfer order. -/
def srcRuns (x : Ctx) (k : Cmd) (i lo hi : Nat) : UA (List (Word × Nat)) :=
  match k.kind with
  | some .copy2d | some .copy3d => pure ((k.rows lo hi).map (·.1))
  | some .gather => indexed x k (vgetD k.w 1 0) i lo hi
  | some .fill => pure []
  | _ => pure [(vgetD k.w 1 0 + BitVec.ofNat 64 lo, hi - lo)]
/-- Destination ranges, as srcRuns. -/
def dstRuns (x : Ctx) (k : Cmd) (i lo hi : Nat) : UA (List (Word × Nat)) :=
  match k.kind with
  | some .copy2d | some .copy3d => pure ((k.rows lo hi).map (·.2))
  | some .scatter => indexed x k (vgetD k.w 2 0) i lo hi
  | _ => pure [(vgetD k.w 2 0 + BitVec.ofNat 64 lo, hi - lo)]

/-- Transfer bytes of a copy command. -/
def Cmd.total (k : Cmd) : Nat := match k.kind with | some kd => transferBytes kd k.w | none => 0

/-- The granule of the source or destination of a transfer byte; none where an index gives the address, or there is none. -/
def Cmd.granule (k : Cmd) (src : Bool) (t : Nat) : Option Nat :=
  match k.kind with
  | some .copy2d | some .copy3d => match k.rows t (t + 1) with
    | r :: _ => some ((if src then r.1.1 else r.2.1).toNat / 64)
    | [] => none
  | some .gather => if src then none else some ((vgetD k.w 2 0 + BitVec.ofNat 64 t).toNat / 64)
  | some .scatter => if src then some ((vgetD k.w 1 0 + BitVec.ofNat 64 t).toNat / 64) else none
  | some .fill => if src then none else some ((vgetD k.w 2 0 + BitVec.ofNat 64 t).toNat / 64)
  | some .copy | some .mcast | some .reduce => some ((vgetD k.w (if src then 1 else 2) 0 + BitVec.ofNat 64 t).toNat / 64)
  | _ => none

/-- The first transfer byte from t on, at most n further, that does not go into the destination granule of the byte before it. -/
def Cmd.pastGranule (k : Cmd) (t : Nat) : Nat → Nat
  | 0 => t
  | n + 1 => if k.total ≤ t || (k.granule false t).isNone || k.granule false t != k.granule false (t - 1) then t else k.pastGranule (t + 1) n

/-- Where a sector begins: at a multiple of 4,096 transfer bytes, or behind the destination granule that such a byte lies in the middle of, in one
row or over several, so that each granule is written once (04 R122, R158; log 100). -/
def Cmd.cut (k : Cmd) (t : Nat) : Nat :=
  if t = 0 then 0 else if k.total ≤ t then k.total else k.pastGranule t 128

/-- The source granule that two sectors share, the later of which begins with transfer byte s (04 R122). -/
def Cmd.sharedGranule (k : Cmd) (s : Nat) : Option Nat :=
  if s = 0 || k.total ≤ s then none
  else match k.granule true (s - 1), k.granule true s with
    | some a, some b => if a = b then some a else none
    | _, _ => none

/-- The source bytes of sector i: a granule that the sectors beside it read too is read once (04 R122, R158). -/
def readSector (x : Ctx) (k : Cmd) (i lo hi : Nat) : UA (List (Byte × Bool)) := do
  if hi ≤ lo then return []
  let keep := ((k.sharedGranule hi).toList.map (fun g => (g, i + 1))) ++ ((k.sharedGranule lo).toList.map (fun g => (g, i)))
  readKept x k keep (← srcRuns x k i lo hi)

/-- A piece of a destination range, within one 64-byte granule, its target resolved; `joins`: it goes on where the piece before it ends. -/
structure Piece where
  ga : Word
  n : Nat
  target : Target
  joins : Bool
deriving DecidableEq, Repr

/-- Resolve every granule of destination ranges, in transfer order. -/
def planWrites (x : Ctx) (runs : List (Word × Nat)) : UA (List Piece) :=
  (runs.flatMap (fun r => (granules (r.2 / 64 + 2) r.1 r.2).zipIdx)).mapM (fun g => do
    let t ← uResolve x .write g.1
    return ⟨g.1.1, g.1.2, t, g.2 != 0⟩)

/-- The same at the LOCAL-form offset of a range, in a named cluster (MCAST). -/
def planLocal (x : Ctx) (h : ClusterId) (runs : List (Word × Nat)) : UA (List Piece) :=
  (runs.flatMap (fun r => (granules (r.2 / 64 + 2) r.1 r.2).zipIdx)).mapM (fun g => do
    let ga := g.1.1
    match localTarget h (ga.toNat % 2 ^ 24) with
    | .error e => throw (e, ga, true)
    | .ok t =>
      let d ← get
      match t with
      | .scratch _ o =>
        match d.bankCheck (d.partOf x.c) h o with
        | some e => throw (e, ga, true)
        | none => return ⟨ga, g.1.2, t, g.2 != 0⟩
      | _ => return ⟨ga, g.1.2, t, g.2 != 0⟩)

/-- Bytes in transfer order shared out among pieces. -/
def layPieces : List Piece → List (Byte × Bool) → List (Piece × List (Byte × Bool))
  | [], _ => []
  | p :: t, bs => (p, bs.take p.n) :: layPieces t (bs.drop p.n)

/-- A write into a node window: cluster, node, offset, bytes (02 R61). -/
structure NodeRun where
  ga : Word
  h : ClusterId
  n : Nat
  f : Nat
  bytes : List (Byte × Bool)
deriving DecidableEq, Repr

/-- The writes into node windows among pieces, in transfer order: a range that goes on through granules of one window is one write. -/
def nodeRuns : List (Piece × List (Byte × Bool)) → List NodeRun
  | [] => []
  | (p, bs) :: t =>
    match p.target with
    | .node h n f =>
      match nodeRuns t, t with
      | r :: rest, (q, _) :: _ => if q.joins && q.ga = r.ga && r.h = h && r.n = n && r.f = f + p.n then ⟨p.ga, h, n, f, bs ++ r.bytes⟩ :: rest
          else ⟨p.ga, h, n, f, bs⟩ :: r :: rest
      | l, _ => ⟨p.ga, h, n, f, bs⟩ :: l
    | _ => nodeRuns t

/-- The 32-byte chunks of a write into a node window, checked in the order of 02 R61: first the bounds, then the alignment. -/
def NodeRun.chunks (d : Dev) (r : NodeRun) (o : ChunkOwner) : Except XFault (List (ClusterId × Nat × NodeChunk)) :=
  let node := vgetD (d.cl r.h).memNodes r.n MemNode.reset
  if node.nb = 0 || decide (node.bufu.toNat * 4096 < r.f + r.bytes.length) then .error .aperture
  else if r.f % 32 != 0 || r.bytes.length % 32 != 0 then .error .misaligned
  else .ok ((List.range (r.bytes.length / 32)).map (fun i =>
    let c := (r.bytes.drop (32 * i)).take 32
    (r.h, r.n, (⟨r.f + 32 * i, c.map (·.1), c.any (·.2), o⟩ : NodeChunk))))

/-- Cells as runs of bytes that follow each other: the offset of each run and its bytes. -/
def cellRuns : List (Nat × Byte) → List (Nat × List Byte)
  | [] => []
  | (i, b) :: t =>
    match cellRuns t with
    | (j, bs) :: rest => if j = i + 1 then (i, b :: bs) :: rest else (i, [b]) :: (j, bs) :: rest
    | [] => [(i, [b])]

/-- The other writes among pieces, one for each granule with all its bytes (a later byte wins): an address, its target, cells, poison. -/
def granuleWrites (l : List (Piece × List (Byte × Bool))) : List (Word × Target × List (Nat × Byte) × Bool) :=
  let l := l.filter (fun e => match e.1.target with | .node _ _ _ => false | _ => true)
  let keys := (l.map (fun e => e.1.ga.toNat / 64)).eraseDups
  keys.filterMap (fun g =>
    let here := l.filter (fun e => e.1.ga.toNat / 64 = g)
    (here.head?).map (fun e =>
      let low := here.foldl (fun m y => Nat.min m (y.1.ga.toNat % 64)) 63
      let t := match here.find? (fun y => y.1.ga.toNat % 64 = low) with
        | some y => y.1.target
        | none => e.1.target
      (BitVec.ofNat 64 (g * 64 + low), t,
        here.flatMap (fun y => y.2.zipIdx.map (fun b => (y.1.ga.toNat % 64 + b.2 - low, b.1.1))), here.any (fun y => y.2.any (·.2)))))

/-- Perform the writes of a unit of work, everything resolved: chunks for memory nodes join the queues of their nodes. Says whether there were
any. -/
def performPieces (x : Ctx) (o : ChunkOwner) (l : List (Piece × List (Byte × Bool))) : UA Bool := do
  let d ← get
  let runs := nodeRuns l
  let chunks ← runs.mapM (fun r => match r.chunks d o with
    | .ok l => (pure l : UA _)
    | .error e => throw (e, r.ga, true))
  for w in granuleWrites l do
    atGa w.1 true (writeT x w.1 w.2.1 w.2.2.1 w.2.2.2)
  modify (fun d => chunks.flatten.foldl (fun d ch => d.modCl ch.1 (fun cl => { cl with
    memNodes := vsetD cl.memNodes ch.2.1 { vgetD cl.memNodes ch.2.1 MemNode.reset with
      wait := (vgetD cl.memNodes ch.2.1 MemNode.reset).wait ++ [ch.2.2] } })) d)
  return !runs.isEmpty

/-- A signed value of w bits. -/
def signedOf (w x : Nat) : Int := if x < 2 ^ (w - 1) then (x : Int) else (x : Int) - 2 ^ w

/-- The floating-point format of a REDUCE code. -/
def redFmt (fmt : Nat) : Fmt := if fmt = 3 then .f32 else if fmt = 4 then .bf16 else .f16

/-- FMIN and FMAX on patterns, without FTZ (08 R267). -/
def fmtMin (f : Fmt) (mx : Bool) (a b : Nat) : Nat :=
  match f.decode a, f.decode b with
  | .nan, _ => f.nan
  | _, .nan => f.nan
  | va, vb => if fvBelow va vb != mx then a else b

/-- One element of REDUCE and UPDATE: d combined with s (11 R355). -/
def redElem (fmt op d s : Nat) : Nat :=
  let w := 8 * redSize fmt
  if op = 3 then d ||| s
  else if fmt < 3 then
    if op = 0 then (d + s) % 2 ^ w
    else if op = 1 then (if signedOf w d < signedOf w s then d else s)
    else (if signedOf w d < signedOf w s then s else d)
  else
    let f := redFmt fmt
    if op = 0 then (fvAdd f ⟨0, false, false, 0⟩ (f.decode d) (f.decode s)).1
    else fmtMin f (op == 2) d s

/-- n elements combined. -/
def redCombine (fmt op : Nat) : Nat → Nat → Nat → Nat
  | 0, _, _ => 0
  | n + 1, d, s =>
    let m := 2 ^ (8 * redSize fmt)
    redElem fmt op (d % m) (s % m) + m * redCombine fmt op n (d / m) (s / m)

/-- The sector of a REDUCE: each destination granule combined in one step at its home (11 R355), another device's too, where the members'
requests carry it (04 R136). -/
def reduceSector (x : Ctx) (k : Cmd) (i lo hi : Nat) : UA Unit := do
  let ga : Word := vgetD k.w 2 0 + BitVec.ofNat 64 lo
  let gs := granules 66 ga (hi - lo)
  let ts ← gs.mapM (uResolve x .write)
  let src ← readSector x k i lo hi
  let fmt := bits (pkFmt k.w) 3 0
  let op := bits (pkFmt k.w) 6 4
  for (g, t) in gs.zip ts do
    match t with
    | .peer m off => do
      let _ ← atGa g.1 true (peerLocal x m off g.2 false)
    | .scratch h o => if h = x.c && (← get).sawRemote ((← get).scratchKeyOf h o) g.2 then throw (.wait, g.1, true)
    | _ => pure ()
  for (g, t) in gs.zip ts do
    let part := (src.drop (g.1 - ga).toNat).take g.2
    let v := leNat (part.map (·.1))
    match t with
    | .peer m off => modify (fun d => (d.addReq x.c { tag := 0, who := x.who, kind := .store, addr := g.1, first := d.now, limit := 0, reissue := none,
                                                      reply := none, member := m, port := d.freePort,
                                                      act := some (.reduce fmt op (part.map (·.1)) (part.any (·.2))), off := off }).2)
    | t => do
      let _ ← atGa g.1 true (rmwT x t g.2 (fun old => some (redCombine fmt op (g.2 / redSize fmt) old v)) (part.any (·.2)) (x.countVa g.1))

/-- The bytes of a FILL from transfer byte lo on (11 R354). -/
def fillBytes (w1 : Nat) (lo n : Nat) : List (Byte × Bool) :=
  (List.range n).map (fun i => (BitVec.ofNat 8 (w1 / 256 ^ ((lo + i) % 8)), false))

/-- Sector i of a copy command, transfer bytes lo to hi: everything is translated before the first write (11 R357); what was read is answered, and
whether a node window was written. A sector other than the lowest not done leaves node windows alone. -/
def moveSector (x : Ctx) (k : Cmd) (i j lo hi : Nat) : UA (List (Byte × Bool) × Bool) := do
  let owner := match x.who with | .queue q key => ChunkOwner.cmd x.c q key | _ => ChunkOwner.cmd x.c 0 0
  let pieces ← if k.kind = some .mcast then do
      let off := (k.ap.decode (pw k.w 2)).map (·.2)
      let l ← (mcastClusters k.w).mapM (fun h => planLocal x h [(BitVec.ofNat 64 (off.getD 0 + lo), hi - lo)])
      pure l
    else do
      let l ← planWrites x (← dstRuns x k i lo hi)
      pure [l]
  if j != 0 && pieces.any (fun l => l.any (fun p => match p.target with | .node _ _ _ => true | _ => false)) then throw (.wait, 0, false)
  let bs ← if k.kind = some .fill then pure (fillBytes (pw k.w 1) lo (hi - lo)) else readSector x k i lo hi
  let node ← pieces.mapM (fun l => performPieces x owner (layPieces l bs))
  return (bs, node.any id)

/-- The 128-byte lines of a range that belong to a sector: line address, and whether the line lies wholly in the range. -/
def rangeLines (w1 : Word) (n lo hi : Nat) : List (Word × Bool) :=
  let a := w1.toNat
  let first := a / 128
  let last := (a + n - 1) / 128
  ((List.range 33).map (fun i => (a + lo) / 128 + i)).filterMap (fun l =>
    let start := Nat.max (l * 128) a - a
    if first ≤ l && l ≤ last && decide (lo ≤ start) && decide (start < hi) then
      some (BitVec.ofNat 64 (l * 128), decide (a ≤ l * 128) && decide (l * 128 + 128 ≤ a + n))
    else none)

/-- A dirty line is written to memory and stays valid and clean (03 R93). -/
def Dev.cleanLine (d : Dev) (p : PartId) (pa : Nat) : Dev :=
  match d.llsFind p pa with
  | none => d
  | some w =>
    let l := vget w.lines (lineIx pa)
    if l.valid && l.dirty then
      (d.writeBackLine w (lineIx pa)).llsPut { w with lines := vset w.lines (lineIx pa) { l with dirty := false } }
    else d
/-- A line is invalidated, its dirty data discarded (03 R93). -/
def Dev.invLine (d : Dev) (p : PartId) (pa : Nat) : Dev :=
  match d.llsFind p pa with
  | none => d
  | some w =>
    let lines := vset w.lines (lineIx pa) LlsLine.empty
    if (List.finRange 4).any (fun i => (vget lines i).valid) then d.llsPut { w with lines := lines }
    else { d with lls := d.lls.filter (fun y => !(y.part = w.part && y.tag = w.tag)) }

/-- A sector of LLSCLEAN, LLSINV, LLSFLUSH or PREFETCH (03 R93, 11 R364, R365). -/
def rangeSector (x : Ctx) (k : Cmd) (lo hi : Nat) : UA Unit := do
  let lines := rangeLines (vgetD k.w 1 0) (pkCount k.w) lo hi
  for l in lines do
    match x.ap.decode l.1.toNat with
    | some (3, _) | some (4, _) => pure ()
    | _ => throw (.aperture, l.1, false)
  if k.kind = some .prefetch then
    for l in lines do
      let d ← get
      match (resolve x l.1 .read) d with
      | (.ok (.phys p pa cache _), d) =>
        if cache = 2 then set (d.countVa p (x.countVa l.1) pa 2)
        else
          let (_, d) := d.homeAtom p pa cache false
          set ((d.homeAtom p (pa + 64) cache false).2.countVa p (x.countVa l.1) pa 2)
      | (_, d) => set d
  else
    let ts ← lines.mapM (fun l => uResolve x .read (l.1, 128))
    modify (fun d => (lines.zip ts).foldl (fun d lt =>
      match lt.2 with
      | .phys p pa _ _ =>
        let d := d.countVa p (x.countVa lt.1.1) pa 2
        match k.kind with
        | some .llsclean => d.cleanLine p pa
        | some .llsinv => if lt.1.2 then d.invLine p pa else (d.cleanLine p pa).invLine p pa
        | _ => (d.cleanLine p pa).invLine p pa
      | _ => d) d)

/-- SIGNAL (11 R363): an atomic add at the home, or a PUT; a release at SCOPE. -/
def signalSector (x : Ctx) (k : Cmd) : UA Unit := do
  let ga : Word := vgetD k.w 2 0
  let v : Word := vgetD k.w 1 0
  if pkCount k.w = 1 then
    let (h, o) ← atGa ga true (presenceTarget x ga)
    atGa ga true (release x.c (pkScope k.w))
    let d ← get
    match d.putWord h (d.scratchKeyOf h o) v (h != x.c) with
    | some d => set d
    | none => throw (.doublePut, ga, true)
  else
    let t ← uResolve x .write (ga, 8)
    atGa ga true (release x.c (pkScope k.w))
    match t with
    | .peer m off => do
      let _ ← atGa ga true (peerLocal x m off 8 false)
      modify (fun d => (d.addReq x.c { tag := 0, who := x.who, kind := .store, addr := ga, first := d.now, limit := 0, reissue := none,
                                       reply := none, member := m, port := d.freePort, act := some (.atomic .add 8 v), off := off }).2)
    | t =>
      let _ ← atGa ga true (rmwT x t 8 (fun old => some ((old + v.toNat) % 2 ^ 64)) false (x.countVa ga))
      if 2 ≤ pkScope k.w then modify (fun d => d.drain x.c)

/-- A half that drains still has a granule for one of the banks (02 R72 step 1). -/
def Dev.drainTouches (d : Dev) (c : ClusterId) (mask : Nat) : Bool :=
  (List.finRange 72).any fun h => (List.finRange 4).any fun r =>
    match (vget (d.cl h).fab.regions r).drain with
    | none => false
    | some half => half.grans.any (fun g =>
      match half.ap.decode g.addr.toNat with
      | some (1, o) => h = c && decide (o < 0xC00000) && bit mask ((d.cl c).bankMap o).1
      | some (2, o) => clusterNo (o / 2 ^ 24) = some c && decide (o % 2 ^ 24 < 0xC00000) && bit mask ((d.cl c).bankMap (o % 2 ^ 24)).1
      | _ => false)

/-- A waiting RDF or TAKE is refused with BANK_MOVED (02 R72): a strand traps; a generator sees an empty reply. -/
def Dev.refuseWait (d : Dev) (w : WaitEntry) : Dev :=
  match (d.cl w.reqCluster).reqs.find? (fun r => r.tag = w.tag) with
  | none => d
  | some r =>
    match r.who with
    | .strand k =>
      (d.cancelReq w.reqCluster w.tag).modStrand w.reqCluster k (fun st => st.enterTrap .bankMoved 0 r.addr st.pc)
    | _ => d.modCl w.reqCluster (fun cl => { cl with
        reqs := cl.reqs.map (fun q => if q.tag = w.tag then { q with reply := some [] } else q) })

/-- BANKCFG step 1: BUSY, and the wait tables of the banks are refused (02 R72). -/
def Dev.bankBusy (d : Dev) (c : ClusterId) (mask : Nat) : Dev :=
  let ws := (d.cl c).waits.filter (fun w => bit mask w.bank)
  let d := ws.foldl (fun d w => d.refuseWait w) d
  d.modCl c (fun cl => { cl with
    waits := cl.waits.filter (fun w => !bit mask w.bank),
    banks := Vector.ofFn fun n => let b := vget cl.banks n; if bit mask n.val then { b with busy := true } else b })

/-- Zero the lines, poison and presence bits of a physical bank (02 R72, R69). -/
def Dev.scrubBank (d : Dev) (c : ClusterId) (b : Nat) : Dev :=
  let lo := scratchKey c.val b 0 0
  let hi := lo + 6144 * 64
  { d with mem := memZeroRange d.mem lo hi, poison := sdelRange d.poison (lo / 64) (hi / 64), full := sdelRange d.full (lo / 8) (hi / 8) }

/-- BANKCFG steps 3 and 4 (02 R72). -/
def Dev.bankSet (d : Dev) (c : ClusterId) (w : Vector Word 8) : Dev :=
  let mask := pw w 1
  let owner := BitVec.ofNat 4 (bits (pw w 2) 11 8)
  let d := (List.range 32).foldl (fun d n =>
    if bit mask n && (vgetD (d.cl c).banks n BankCfg.reset).owner != owner then d.scrubBank c n else d) d
  let set := fun (n : Fin 32) (b : BankCfg) =>
    if bit mask n.val then
      (⟨b.epoch + 1, false, owner, BitVec.ofNat 3 (bits (pw w 2) 4 2), BitVec.ofNat 2 (bits (pw w 2) 1 0)⟩ : BankCfg)
    else b
  d.modCl c (fun cl => { cl with banks := Vector.ofFn (fun n => set n (vget cl.banks n)) })

/-- Sector next + j is done (11 R358, R359): NEXT moves over it and the done sectors behind it. -/
def Cmd.markDone (k : Cmd) (j : Nat) : Cmd :=
  if j = 0 then
    let t := ctzN 4 (15 - k.done.toNat)
    { k with next := k.next + 1 + t, done := BitVec.ofNat 4 (k.done.toNat / 2 ^ (t + 1)) }
  else { k with done := k.done ||| BitVec.ofNat 4 (2 ^ (j - 1)) }

/-- The transfer bytes of sector i of a copy command. -/
def Cmd.sectorRange (k : Cmd) (i : Nat) : Nat × Nat := (k.cut (4096 * i), k.cut (4096 * (i + 1)))

/-- A sector of a copy-engine command: what it read, and whether it wrote a node window. -/
def ceSector (d : Dev) (c : ClusterId) (k : Cmd) (q : QueueIx) (j : Nat) : UA (List (Byte × Bool) × Bool) := do
  let x := k.ctx c q
  let i := k.next + j
  let (lo, hi) := k.sectorRange i
  match k.kind with
  | some .signal => do
    signalSector x k
    return ([], false)
  | some .bankcfg => do
    if k.next = 0 then
      if d.drainTouches c (pw k.w 1) then
        throw (.wait, 0, false)
      modify (fun d => d.bankBusy c (pw k.w 1))
      return ([], false)
    else
      modify (fun d => d.bankSet c k.w)
      return ([], false)
  | some .reduce => do
    reduceSector x k i lo hi
    return ([], false)
  | some .prefetch | some .llsclean | some .llsinv | some .llsflush => do
    rangeSector x k (4096 * i) (Nat.min (4096 * i + 4096) (pkCount k.w))
    return ([], false)
  | _ => moveSector x k i j lo hi

/-- The end of an attempt at a unit of work: waiting changes nothing of the command, a translation fault suspends it, any other
failure ends it with its code (11 R347, R358). -/
def Dev.unitFault (d : Dev) (c : ClusterId) (q : QueueIx) (k : Cmd) (e : XFault × Word × Bool) : Dev :=
  match e.1 with
  | .wait => d
  | .remote => d
  | .walk code lv => d.suspendCmd c q k e.2.1 e.2.2 code lv
  | x => d.modCmd c q k.key (fun k => { k with finish := some x.code })

/-- The bytes that a sector just done adds to PEND's decrement under CK = 1 (11 R351), where they are performed at SCOPE. -/
def Dev.pendSector (d : Dev) (c : ClusterId) (q : QueueIx) (k : Cmd) (n : Nat) : Dev :=
  if pkCk k.w != 1 || 4 ≤ pkScope k.w || n = 0 then d
  else
    let d := if 2 ≤ pkScope k.w then d.drain c else d
    if d.unacked c q k.key then d
    else match barrierTarget (k.ctx c q) (vgetD k.w 3 0) d with
      | (.ok key, d) => (d.barPend c key n).modCmd c q k.key (fun k => { k with pend := k.pend + BitVec.ofNat 40 n })
      | (.error _, d) => d

/-- Chunks of a command wait for a node in such number that it starts no further sector: any (11 R357); of an MCAST, at one member the chunks of
five sectors, since the other members go on (02 R61, 10 R339). -/
def Dev.chunksHold (d : Dev) (c : ClusterId) (q : QueueIx) (k : Cmd) : Bool :=
  if k.kind = some .mcast then
    d.clusters.toList.any (fun cl => cl.memNodes.toList.any (fun n =>
      decide (512 < (n.wait.filter (fun x => x.owner = .cmd c q k.key)).length)))
  else d.chunksWait c q k.key

/-- The rows that a COPY2D or COPY3D writes may overlap: neither dimension steps over all that the other one covers. -/
def Cmd.rowsOverlap (k : Cmd) : Bool :=
  let span := fun (w : Word) => if w.toNat < 2 ^ 63 then w.toNat else 2 ^ 64 - w.toNat
  let d1 := span (sfield (pw k.w 5) 63 32)
  let d2 := span (sfield (pw k.w 6) 63 32)
  let n := pkCount k.w
  let n1 := bits (pw k.w 4) 31 0
  let n2 := bits (pw k.w 4) 63 32
  let meets := fun (d n : Nat) (c : Nat) => decide (2 ≤ n) && decide (d < c)
  match k.kind with
  | some .copy2d => meets d1 n1 n
  | some .copy3d => !((!meets d1 n1 n && !meets d2 n2 ((n1 - 1) * d1 + n)) || (!meets d2 n2 n && !meets d1 n1 ((n2 - 1) * d2 + n)))
  | _ => false

/-- A sector of a started command of ce0 to ce3 (11 R344, R357, R358, R361): SCATTER's go in order, so that of two elements at one place the
later remains (R353), and so do those of overlapping rows (R352). A sector that fails other than in translation does so once it is the lowest
not done: the sectors before it stand. -/
def Dev.ceStep (d : Dev) (c : ClusterId) (q : QueueIx) (k : Cmd) (j : Fin 5) : Dev :=
  let units := d.cmdUnits c k
  let held := (d.queue c q).hold && !(k.kind = some .bankcfg && k.next = 1)
  let taken := j.val != 0 && bit k.done.toNat (j.val - 1)
  let single := k.digest.isSome || k.kind = some .bankcfg || k.kind = some .scatter || k.rowsOverlap
  if k.state != .active || k.finish.isSome || held || decide (units ≤ k.next + j.val) || taken ||
      (single && j.val != 0) || d.chunksHold c q k then d
  else match ceSector d c k q j.val d with
    | (.error (.walk code lv, ga, wr), d') => (d'.uncount d).unitFault c q k (.walk code lv, ga, wr)
    | (.error e, d') => if j.val = 0 then (d'.uncount d).unitFault c q k e else d'.uncount d
    | (.ok (bs, node), d) =>
      let (lo, hi) := k.sectorRange (k.next + j.val)
      let copies := match k.kind with
        | some .mcast => (mcastClusters k.w).length
        | some .signal | some .bankcfg | some .prefetch | some .llsclean | some .llsinv | some .llsflush => 0
        | _ => 1
      let n := if node then 0 else (hi - lo) * copies
      let d := d.purgeReads c (.queue q k.key)
      let d := d.modCmd c q k.key (fun k =>
        let k := k.markDone j.val
        { k with
          shared := k.shared.filter (fun e => decide (k.next ≤ e.1)),
          digest := k.digest.map (fun g => g.feed (bs.map (·.1))),
          digestPoison := k.digestPoison || (k.digest.isSome && bs.any (·.2)) })
      d.pendSector c q k n

/-- MN_CHUNK_WRITE (02 R61): the chunk that waits first at a node, if it is this one, is written when the buffer being filled is
not full. Two chunks of one producer that follow each other and make a whole atom are a write of the whole atom, which clears its poison (03 R98,
11 R354); any other chunk is a partial write (log 118). -/
def Dev.mnChunk (d : Dev) (c : ClusterId) (n : MnIx) (off : Nat) (chunk : List Byte) (poison : Bool) : Dev :=
  let node := vget (d.cl c).memNodes n
  match node.wait with
  | [] => d
  | h :: rest =>
    if h.off != off || h.data != chunk || h.poison != poison || bit node.full.toNat node.fptr.toNat || node.nb = 0 then d
    else
      let key := nodeKey c.val n.val ((node.fptr.toNat * (node.bufu.toNat * 4096) + off) % 2 ^ 18)
      let cells := chunk.zipIdx.map (fun y => (key + y.2, y.1))
      let whole := match node.last with
        | some l => l.key + 32 = key && key % 64 = 32 && l.owner = h.owner
        | none => false
      let bad := poison || (match node.last with | some l => l.poison | none => false)
      let d := if whole then { d.arrayWrite cells bad none with poison := sput d.poison (key / 64) bad } else d.arrayWrite cells poison none
      let node : MemNode := { node with last := some (LastChunk.mk key h.owner poison) }
      let cnt : BitVec 13 := node.fcnt + 1
      let node := if cnt = node.fillu then
          { node with wait := rest, full := node.full ||| BitVec.ofNat 16 (2 ^ node.fptr.toNat), fcnt := 0,
                      fptr := BitVec.ofNat 4 ((node.fptr.toNat + 1) % node.nb.toNat) }
        else { node with wait := rest, fcnt := cnt }
      d.modCl c (fun cl => { cl with memNodes := vset cl.memNodes n node })

end Sys2Proof.Machine
end

