-- ==== Sys2Proof/Machine/AgenOps.lean ====
section
/-! DEFINITION. Address generators (02 R73 to R82): the elements of a vector and the position after it, the loads of a vector issued
ahead of its slot, the take record (04 R144), and what a storer puts into the round store buffer. -/

namespace Sys2Proof.Machine

def Dev.region (d : Dev) (c : ClusterId) (r : RegionIx) : Region := vget (d.cl c).fab.regions r
def Dev.modRegion (d : Dev) (c : ClusterId) (r : RegionIx) (f : Region → Region) : Dev :=
  d.modCl c (fun cl => { cl with fab := { cl.fab with regions := vmod cl.fab.regions r f } })
def Dev.agen (d : Dev) (c : ClusterId) (g : AgIx) : Agen := vget (d.cl c).fab.agens g
def Dev.modAgen (d : Dev) (c : ClusterId) (g : AgIx) (f : Agen → Agen) : Dev :=
  d.modCl c (fun cl => { cl with fab := { cl.fab with agens := vmod cl.fab.agens g f } })
def Agen.modBlock (a : Agen) (b : Fin 4) (f : AgBlock → AgBlock) : Agen := { a with blocks := vmod a.blocks b (Option.map f) }

/-- Elements of a pattern, of one tile (02 R75, R77), and tiles. -/
def AgBlock.tileLen (b : AgBlock) : Nat := b.n 0 * b.n 1
def AgBlock.tiles (b : AgBlock) : Nat := b.n 2 * b.n 3
def AgBlock.total (b : AgBlock) : Nat := b.tileLen * b.tiles
/-- Address(q) of KIND 0 (02 R75). -/
def AgBlock.affine (b : AgBlock) (q : Nat) : Word :=
  let i0 := q % b.n 0
  let i1 := q / b.n 0 % b.n 1
  let i2 := q / (b.n 0 * b.n 1) % b.n 2
  let i3 := q / (b.n 0 * b.n 1 * b.n 2)
  vgetD b.words 1 0 + BitVec.ofNat 64 i0 * b.s 0 + BitVec.ofNat 64 i1 * b.s 1 + BitVec.ofNat 64 i2 * b.s 2 + BitVec.ofNat 64 i3 * b.s 3

/-- Where a generic address lies, whichever window names it: space and offset, with LOCAL as its CLUSTER form. -/
def locKey (c : ClusterId) (ap : Apertures) (ga : Word) : Option (Nat × Nat) :=
  match ap.decode ga.toNat with
  | some (n, off) => if n = 1 then some (2, c.val * 2 ^ 24 + off) else some (n, off)
  | none => none

/-- A granule of the half that drains holds the location of a generic address: the same place in a scratchpad, else the same address of the
same address space (02 R80, R83; log 112). -/
def Region.sameGranule (r : Region) (x : Ctx) (h : Half) (g : Granule) (ga : Word) : Bool :=
  match locKey x.c x.ap (ga - BitVec.ofNat 64 (ga.toNat % 64)), locKey x.c h.ap g.addr with
  | some a, some b => a = b && (a.1 = 2 || (vget r.kernels g.kern).id = x.id)
  | _, _ => false
/-- A byte of the half that drains, over memory (02 R80), with the mark of the half's granule alone: the bytes that it replaces do not count (06 R215;
DESIGN CHOICE, log 125). -/
def Region.halfByte (r : Region) (x : Ctx) (ga : Word) : Option (Byte × Bool) :=
  match r.drain with
  | none => none
  | some h =>
    let i := ga.toNat % 64
    (h.grans.find? (fun g => g.mask.getLsbD i && r.sameGranule x h g ga)).map (fun g => (BitVec.ofNat 8 (g.data.toNat / 2 ^ (8 * i)), g.poison))

/-- Read elements: one access for each distinct granule of 64 (or 16) bytes, in order of first elements (02 R79), under the bytes
of a half that drains. -/
def gatherElems (x : Ctx) (r : Region) (gran : Bool) (esz : Nat) (addrs : List Word) : UA (List (List (Byte × Bool))) := do
  let gsz := if gran then 16 else 64
  let bytes := addrs.map (fun a => (List.range esz).map (fun i => a + BitVec.ofNat 64 i))
  let keys := (bytes.flatten.map (fun a => a.toNat / gsz)).eraseDups
  let gas := keys.map (fun k => BitVec.ofNat 64 (k * gsz))
  let ts ← gas.mapM (fun ga => uResolve x .read (ga, gsz))
  let parts ← (gas.zip ts).mapM (fun gt => do
    let (bs, po) ← atGa gt.1 false (readT x gt.1 gt.2 gsz gran)
    return (gt.1.toNat / gsz, bs, po))
  return bytes.map (fun l => l.map (fun a =>
    match r.halfByte x a with
    | some b => b
    | none => match parts.find? (fun p => p.1 = a.toNat / gsz) with
      | some p => (p.2.1.getD (a.toNat % gsz) 0, p.2.2)
      | none => (0, false)))

/-- A vector to be: an address for each element, none where the element is masked; the position after. -/
structure VecPlan where
  addrs : List (Option Word)
  after : AgPos
deriving DecidableEq, Repr

/-- The bytes of a pattern's elements that hold none: those of missing elements, or all where the vector has none (02 R75 to R77). -/
def VecPlan.mask (p : VecPlan) (lanes esz : Nat) : BitVec 32 :=
  if p.addrs.all Option.isNone then BitVec.allOnes 32
  else BitVec.ofNat 32 (((List.range lanes).filter (fun e => (p.addrs.getD e none).isNone)).foldl (fun m e => m + (2 ^ esz - 1) * 2 ^ (esz * e)) 0)

/-- The bytes of a block's skip map (02 R77). -/
def AgBlock.mapAddrs (b : AgBlock) : List Word :=
  let off := bits (b.w 7) 31 0
  (List.range ((off % 8 + b.tiles + 7) / 8)).map (fun i => BitVec.ofNat 64 (b.w 6 + off / 8) + BitVec.ofNat 64 i)
/-- The skip map of KIND 2, bit 0 for tile 0 (02 R77, 14 R444). The mark of a poisoned byte of the map is dropped and its bits are used: DESIGN
CHOICE, log 113. -/
def readSkipMap (x : Ctx) (r : Region) (b : AgBlock) : UA (List Byte) := do
  let off := bits (b.w 7) 31 0
  let n := b.tiles
  let bs ← gatherElems x r false 1 b.mapAddrs
  let v := leNat (bs.map (fun l => ((l.head?.map (·.1)).getD 0))) / 2 ^ (off % 8) % 2 ^ n
  return leBytes ((n + 7) / 8) v

/-- The first tile from t on that is not skipped. -/
def nextTile (m : List Byte) (n : Nat) : Nat → Nat → Option Nat
  | 0, _ => none
  | fuel + 1, t => if n ≤ t then none else if bit (m.getD (t / 8) 0).toNat (t % 8) then nextTile m n fuel (t + 1) else some t

/-- The indices of the next n elements of a KIND 1 block, masked beyond the end of an index block without WRAP (02 R76). -/
def readIndices (x : Ctx) (r : Region) (ib : AgBlock) (idx n : Nat) : UA (List (Option Word)) := do
  let p := ib.total
  let at_ := fun j => if ib.wrap then some ((idx + j) % p) else if idx + j < p then some (idx + j) else none
  let qs := (List.range n).map at_
  let vals ← gatherElems x r ib.gran 4 (qs.filterMap (fun q => q.map ib.affine))
  match (qs.filterMap id).zip vals |>.find? (fun v => v.2.any (·.2)) with
  | some v => throw (.poison, ib.affine v.1, false)
  | none => pure ()
  let ws := vals.map (fun l => (BitVec.ofNat 32 (leNat (l.map (·.1)))).signExtend 64)
  return (qs.foldl (fun (acc : List (Option Word) × List Word) q => match q with
    | none => (acc.1 ++ [none], acc.2)
    | some _ => (acc.1 ++ [acc.2.head?], acc.2.drop 1)) ([], ws)).1

/-- The next vector of a block at a position (02 R75 to R77). -/
def AgBlock.plan (x : Ctx) (r : Region) (b : AgBlock) (ib : Option AgBlock) (pos : AgPos) : UA VecPlan := do
  if pos.ended then return ⟨[], pos⟩
  if b.kind = 2 then
    let m ← if pos.map.isEmpty then readSkipMap x r b else pure pos.map
    let pos := { pos with map := m }
    let fresh := { pos with q := 0, tile := 0, map := [], ended := !b.wrap }
    match (if pos.q = 0 then nextTile m b.tiles (b.tiles + 1) pos.tile else some pos.tile) with
    | none => return ⟨[], fresh⟩
    | some t =>
      let n := Nat.min b.lanes (b.tileLen - pos.q)
      let es := (List.range n).map (fun i => some (b.affine (pos.q + i + b.tileLen * t)))
      let pos := { pos with ord := pos.ord + n }
      let fresh := { fresh with ord := pos.ord }
      if pos.q + n < b.tileLen then return ⟨es, { pos with q := pos.q + n, tile := t }⟩
      else if (nextTile m b.tiles (b.tiles + 1) (t + 1)).isSome then return ⟨es, { pos with q := 0, tile := t + 1 }⟩
      else return ⟨es, fresh⟩
  else
    let n := Nat.min b.lanes (b.total - pos.q)
    let pos' := if pos.q + n < b.total then { pos with q := pos.q + n, ord := pos.ord + n }
      else { pos with q := 0, ended := !b.wrap, ord := pos.ord + n }
    match b.kind, ib with
    | 1, some ib => do
      let ix ← readIndices x r ib pos.idx n
      let scale : Word := (BitVec.ofNat 32 (bits (b.w 5) 63 32)).signExtend 64
      let idx := if ib.wrap then (pos.idx + n) % ib.total else Nat.min (pos.idx + n) ib.total
      return ⟨ix.map (fun i => i.map (fun v => vgetD b.words 1 0 + v * scale)), { pos' with idx := idx }⟩
    | _, _ => return ⟨(List.range n).map (fun i => some (b.affine (pos.q + i))), pos'⟩

/-- The granules that the plain accesses of a vector read: its elements, the indices it uses and the skip map where it reads that. -/
def AgBlock.readsOf (b : AgBlock) (ib : Option AgBlock) (pos : AgPos) (p : VecPlan) : List Word :=
  let indices := match b.kind, ib with
    | 1, some ib => (List.range p.addrs.length).map (fun j => ib.affine ((pos.idx + j) % ib.total))
    | _, _ => []
  let map := if b.kind = 2 && pos.map.isEmpty then b.mapAddrs else []
  (((p.addrs.filterMap id).flatMap (fun a => [a, a + BitVec.ofNat 64 (b.esz - 1)]) ++ indices.flatMap (fun a => [a, a + 3]) ++ map).map
    (fun a => a - BitVec.ofNat 64 (a.toNat % 64))).eraseDups

/-- The kernel that a block serves: the owner of its slot. -/
def Region.kernelOf (r : Region) (b : AgBlock) : Option (Fin 4) := r.owner b.slot
/-- The context of a block's accesses (01 R16, R20). -/
def agCtx (c : ClusterId) (r : Region) (g : AgIx) (n : Fin 4) (b : AgBlock) (ord : Nat) : Ctx :=
  ⟨c, .gen g n ord, (vget r.kernels ((r.kernelOf b).getD 0)).id, r.ap⟩
/-- The index source of a block. -/
def Dev.indexBlock (d : Dev) (c : ClusterId) (b : AgBlock) : Option AgBlock :=
  if b.kind = 1 then vgetD (vgetD (d.cl c).fab.agens b.isrcGen Agen.reset).blocks b.isrcBlk none else none

/-- Put an element of a loader's vector in place, with its mark (02 R75, 06 R215). -/
def VecVal.setElem (v : VecVal) (esz e : Nat) (bs : List (Byte × Bool)) : VecVal :=
  { v with
    bits := v.bits ||| BitVec.ofNat 256 (leNat (bs.map (·.1)) * 2 ^ (8 * esz * e))
    mark := v.mark ||| (if bs.any (·.2) then BitVec.ofNat 32 ((2 ^ esz - 1) * 2 ^ (esz * e)) else 0) }

/-- A served TAKE is kept in the take record (04 R144). -/
def Dev.recordTake (d : Dev) (c : ClusterId) (g : AgIx) (t : TakeRec) : Dev :=
  d.modAgen c g (fun a => { a with takes := a.takes ++ [t] })

/-- Issue one element of a presence-mode loader (02 R78, 04 R144): its word, or the tag of its request. -/
def issueElem (c : ClusterId) (g : AgIx) (n : Fin 4) (take : Bool) (x : Ctx) (ord : Nat) (ga : Word) : UA (Word × Bool ⊕ Nat) := do
  let d ← get
  match (d.agen c g).takes.find? (fun t => take && t.block = n.val && t.ord = ord) with
  | some t => return .inl (t.val, t.mark)
  | none =>
    let (h, o) ← atGa ga false (presenceTarget x ga)
    let d ← get
    let key := d.scratchKeyOf h o
    let po := smem d.poison (key / 64)
    match d.issuePresence c (.gen g n ord) take h o 0 ga with
    | (.value v, d) => do
      set (if take then d.recordTake c g ⟨v, ord, n.val, po⟩ else d)
      return .inl (v, po)
    | (.deferred tag, d) => do
      set d
      return .inr tag

/-- The cause of a unit's failed access (14 R425). -/
def XFault.cause : XFault → Cause
  | .aperture => .aperture
  | .misaligned => .misaligned
  | .bankMoved => .bankMoved
  | .poison => .poison
  | .doublePut => .presenceDoublePut
  | .walk code _ => if code ≤ 3 then .pageFault else if code = 10 then .poison else .protection
  | _ => .protection

/-- Run accesses and keep the device whatever they end in. -/
def uaTry {α : Type} (a : UA α) : UA (Except (XFault × Word × Bool) α) := fun d => match a d with | (r, d) => (.ok r, d)

/-- The loads of a vector (02 R79, R80). In presence mode an element that fails leaves the requests of the elements before it outstanding: a TAKE
among them that is served goes into the take record (04 R144). -/
def loadVector (c : ClusterId) (r : Region) (g : AgIx) (n : Fin 4) (b : AgBlock) (ib : Option AgBlock) (x : Ctx) (pos : AgPos) :
    UA AgVec := do
  let p ← b.plan x r ib pos
  let es := p.addrs.zipIdx.filterMap (fun a => a.1.map (fun ga => (a.2, ga)))
  let mask := p.mask b.lanes b.esz
  if b.pres = 0 then
    let vals ← gatherElems x r b.gran b.esz (es.map (·.2))
    let v := (es.zip vals).foldl (fun v e => v.setElem b.esz e.1.1 e.2) VecVal.zero
    return ⟨v, mask, b.readsOf ib pos p, [], p.addrs.length, p.after, none, false⟩
  else
    let mut v := VecVal.zero
    let mut pend : List (Nat × Nat) := []
    for (e, ga) in es do
      match ← uaTry (issueElem c g n (b.pres = 2) { x with who := .gen g n (pos.ord + e) } (pos.ord + e) ga) with
      | .ok (.inl (w, po)) => v := v.setElem 8 e ((leBytes 8 w.toNat).map (fun y => (y, po)))
      | .ok (.inr tag) => pend := pend ++ [(e, tag)]
      | .error (f, fa, _) => return ⟨v, mask, [], pend, 0, b.issue, some (f.cause.code.toNat, fa), false⟩
    return ⟨v, mask, [], pend, p.addrs.length, p.after, none, false⟩

/-- Record a translation fault of a region (01 R38). -/
def Dev.recordRegion (d : Dev) (c : ClusterId) (id : Ident) (ap : Apertures) (ga : Word) (write : Bool) (code level : Nat) : Dev :=
  match ap.decode ga.toNat, d.partOf c with
  | some (n, off), some p => d.recordFault p c id.asid off (n == 4) write code level 40
  | _, _ => d

/-- Firings that a block can still have in the round (04 R147 to R149). -/
def Region.firingsLeft (r : Region) (b : AgBlock) : Nat :=
  r.roundLen - r.period - (if r.weir = .none && b.slot < r.slot then 1 else 0) -
    (if r.weir = .whole then 1 else 0)

/-- A loader has, for every firing of the round that is left, a vector ahead that waits for no reply. -/
def Region.roundAhead (r : Region) (b : AgBlock) : Bool :=
  let n := r.firingsLeft b
  decide (n ≤ b.ahead.length) && (b.ahead.take n).all (fun v => v.pend.isEmpty)
/-- Loaders of a region may run ahead into the next round: every presence element of this round has its reply (04 R148), and every ACQ port
has delivered its marker (04 R149). -/
def Dev.mayPassRound (d : Dev) (c : ClusterId) (r : RegionIx) : Bool :=
  let x := d.region c r
  ((d.cl c).blocks r.val).all (fun b =>
    let up := (x.kernelOf b.2.2).any (fun k => (vget x.kernels k).st = .running || (vget x.kernels k).st = .exiting)
    b.2.2.store || b.2.2.pres = 0 || !up || x.roundAhead b.2.2) &&
  (d.cl c).fab.ports.toList.all (fun p => match p.cfg with
    | some k => k.out || k.region != r || !k.acq || p.head = some 1
    | none => true)

/-- AG_RUN_AHEAD_ISSUE (02 R80): the accesses of the next vector of a loader, up to LEAD vectors ahead: those of the round, then those of the
next one where 04 R148 and R149 let it and its kernel goes on. -/
def Dev.runAhead (d : Dev) (c : ClusterId) (g : AgIx) (n : Fin 4) : Dev :=
  let a := d.agen c g
  match a.region, vget a.blocks n with
  | some ri, some b =>
    let r := d.region c ri
    let k := vget r.kernels ((r.kernelOf b).getD 0)
    let up := (r.kernelOf b).isSome && (k.st = .running || k.st = .exiting)
    let ok := up && (r.st = .running || r.st = .frozen || r.st = .stopping) && !b.store && !(d.cl c).isIndexSource ri.val g.val n.val &&
      decide (b.ahead.length < b.lead) && b.ahead.all (fun v => v.fault.isNone) &&
      (decide (b.ahead.length < r.firingsLeft b) || (k.st = .running && !k.exit_ && d.mayPassRound c ri))
    if !ok then d
    else
      let x := agCtx c r g n b b.issue.ord
      let purge := fun (d : Dev) => d.modCl c (fun cl => { cl with reqs := cl.reqs.filter (fun q =>
        !(q.who = x.who && q.reply.isSome && (match q.kind with | .read _ _ _ => true | _ => false))) })
      let put := fun (d : Dev) (v : AgVec) =>
        d.modAgen c g (fun a => a.modBlock n (fun b => { b with ahead := b.ahead ++ [v], issue := v.after }))
      match loadVector c r g n b (d.indexBlock c b) x b.issue d with
      | (.ok v, d) => put (purge d) v
      | (.error (.wait, _, _), e) => e.uncount d
      | (.error (.remote, _, _), e) => e.uncount d
      | (.error (.walk code lv, ga, wr), d) =>
        put (purge ((d.recordRegion c x.id x.ap ga wr code lv).modAgen c g (fun a => { a with suspended := true })))
          ⟨VecVal.zero, 0, [ga - BitVec.ofNat 64 (ga.toNat % 64)], [], 0, b.issue, some ((XFault.walk code lv).cause.code.toNat, ga), true⟩
      | (.error (e, ga, _), d) => put (purge d) ⟨VecVal.zero, 0, [ga - BitVec.ofNat 64 (ga.toNat % 64)], [], 0, b.issue, some (e.cause.code.toNat, ga), false⟩
  | _, _ => d

def execAgRunAheadIssue (c : ClusterId) (g : AgIx) (b : Fin 4) (s : State) : Out := .next { s with dev := s.dev.runAhead c g b }

/-- The replies that have come for a vector's elements are put in place (02 R78, 04 R144); an empty reply is a refusal with
BANK_MOVED, one of a byte a refusal with PROTECTION (02 R66, R72). -/
def Dev.collect (d : Dev) (c : ClusterId) (g : AgIx) (n : Fin 4) (take : Bool) (base : Nat) (v : AgVec) : AgVec × Dev :=
  v.pend.foldl (fun (acc : AgVec × Dev) p =>
    match (acc.2.cl c).reqs.find? (fun q => q.tag = p.2) with
    | some q =>
      match q.reply with
      | none => acc
      | some [] | some [_] =>
        ({ acc.1 with
            pend := acc.1.pend.filter (fun y => y.2 != p.2)
            fault := some (acc.1.fault.getD ((if q.reply = some [] then Cause.bankMoved else .protection).code.toNat, q.addr)) },
          acc.2.modCl c (fun cl => { cl with reqs := cl.reqs.filter (fun q => q.tag != p.2) }))
      | some bs =>
        let d := acc.2.modCl c (fun cl => { cl with reqs := cl.reqs.filter (fun q => q.tag != p.2) })
        let po := match q.kind with
          | .presence _ h o _ => smem d.poison (d.scratchKeyOf h o / 64)
          | _ => false
        let d := if take then d.recordTake c g ⟨leWord bs, base + p.1, n.val, po⟩ else d
        ({ acc.1 with
            val := acc.1.val.setElem 8 p.1 (bs.map (fun y => (y, po)))
            pend := acc.1.pend.filter (fun y => y.2 != p.2) }, d)
    | none => acc) (v, d)
/-- Collect for the whole run-ahead of a block. -/
def Dev.collectBlock (d : Dev) (c : ClusterId) (g : AgIx) (n : Fin 4) : Dev :=
  match vget (d.agen c g).blocks n with
  | none => d
  | some b =>
    if b.pres = 0 then d
    else
      let (vs, d, _) := b.ahead.foldl (fun (acc : List AgVec × Dev × Nat) v =>
        let (v, d) := acc.2.1.collect c g n (b.pres = 2) acc.2.2 v
        (acc.1 ++ [v], d, acc.2.2 + v.n)) ([], d, b.pos.ord)
      d.modAgen c g (fun a => a.modBlock n (fun b => { b with ahead := vs }))
def Dev.collectAll (d : Dev) (c : ClusterId) (r : RegionIx) : Dev :=
  (List.finRange 8).foldl (fun d g =>
    if (d.agen c g).region = some r then (List.finRange 4).foldl (fun d n => d.collectBlock c g n) d else d) d

/-- Put bytes of a store into a filling half (02 R82, R83): a later store to the same byte replaces the earlier one, whichever
address form or kernel names it. A granule that a poisoned element has marked keeps its mark when a later store replaces those bytes (06 R215;
DESIGN CHOICE, log 125). -/
def storeBytes (c : ClusterId) (ap : Apertures) (kerns : Vector Kernel 4) (k : Fin 4) (put poison : Bool) (ga : Word)
    (bs : List Byte) (fill : List Granule) : List Granule :=
  let i := ga.toNat % 64
  let n := bs.length
  let mask : BitVec 64 := BitVec.ofNat 64 ((2 ^ n - 1) * 2 ^ i)
  let puts : BitVec 8 := if put then BitVec.ofNat 8 (2 ^ (i / 8)) else 0
  let clear : BitVec 8 := BitVec.ofNat 8 (((List.range 8).map (fun w => if i ≤ 8 * w + 7 ∧ 8 * w < i + n then 2 ^ w else 0)).foldl (· + ·) 0)
  let bmask : BitVec 512 := BitVec.ofNat 512 ((2 ^ (8 * n) - 1) * 2 ^ (8 * i))
  let data : BitVec 512 := BitVec.ofNat 512 (leNat bs * 2 ^ (8 * i))
  let base := ga - BitVec.ofNat 64 i
  let loc := locKey c ap base
  let id := (vget kerns k).id
  let same := fun (g : Granule) => locKey c ap g.addr = loc && (vget kerns g.kern).id = id
  let other := fun (g : Granule) => !same g && locKey c ap g.addr = loc && (match loc with | some (2, _) => true | _ => false)
  let fill := fill.map (fun g => if other g then { g with mask := g.mask &&& ~~~mask, puts := g.puts &&& ~~~clear } else g)
  if fill.any same then
    fill.map (fun g => if same g then { g with
      mask := g.mask ||| mask
      puts := (g.puts &&& ~~~clear) ||| puts
      data := (g.data &&& ~~~bmask) ||| data
      poison := g.poison || poison } else g)
  else fill ++ [⟨base, mask, puts, data, poison, k, false⟩]

/-- The pieces of an element's bytes within 64-byte granules. -/
def elemPieces (ga : Word) (bs : List Byte) : List (Word × List Byte) :=
  (granules (bs.length / 64 + 2) ga bs.length).map (fun g => (g.1, (bs.drop (g.1 - ga).toNat).take g.2))

/-- A store address that no drain could write: its cause (01 R14, R17; 02 R78). -/
def Dev.storeCheck (d : Dev) (c : ClusterId) (x : Ctx) (put : Bool) (ga : Word) : Option Cause :=
  match d.spaceCheck c x.id x.ap ga.toNat with
  | .error 4 => some .protection
  | .error _ => some .aperture
  | .ok (n, off) => if put && !inScratch n off then some .aperture else if put && ga.toNat % 8 != 0 then some .misaligned else none

/-- What a storer does with its vector: addresses from its plan, a value with its mask or none (02 R73). It writes nothing for an element that
is masked in its first byte (log 112). The filling half after it, or the cause of a fault with its address. -/
def Dev.storeVector (d : Dev) (c : ClusterId) (r : Region) (x : Ctx) (k : Fin 4) (b : AgBlock) (p : VecPlan) (v : Option (VecVal × BitVec 32))
    (fill : List Granule) : Except (Cause × Word) (List Granule) :=
  match v with
  | none => .ok fill
  | some (v, mask) =>
    let es := p.addrs.zipIdx.filterMap (fun a => if mask.getLsbD (b.esz * a.2) then none else a.1.map (fun ga => (a.2, ga)))
    match es.findSome? (fun e => (d.storeCheck c x (b.pres != 0) e.2).map (fun q => (q, e.2))) with
    | some f => .error f
    | none => .ok (es.foldl (fun fill e =>
        let bs := leBytes b.esz (v.bits.toNat / 2 ^ (8 * b.esz * e.1) % 2 ^ (8 * b.esz))
        let po := v.mark.toNat / 2 ^ (b.esz * e.1) % 2 ^ b.esz != 0
        (elemPieces e.2 bs).foldl (fun fill q => storeBytes c x.ap r.kernels k (b.pres != 0) po q.1 q.2 fill) fill) fill)

/-- The round starts: positions are recorded (02 R81). Vectors that a plain loader issued ahead are issued again where they read a granule that
the sealed half holds (04 R147), or where the apertures that the round latches are others (01 R16). -/
def AgBlock.roundStart (r : Region) (x : Ctx) (ap : Apertures) (b : AgBlock) : AgBlock :=
  let stale := b.pres = 0 && (ap != r.ap || (match r.drain with
    | some h => b.ahead.any (fun v => v.reads.any (fun ga => h.grans.any (fun g => r.sameGranule x h g ga)))
    | none => false))
  if stale then { b with saved := b.pos, ahead := [], issue := b.pos } else { b with saved := b.pos }
/-- The round is void (02 R81): back to the recorded state. -/
def AgBlock.rewind (b : AgBlock) : AgBlock := { b with pos := b.saved, ahead := [], issue := b.saved }
/-- The round commits: take records of delivered elements are cleared (04 R144). -/
def Agen.commit (a : Agen) : Agen :=
  { a with takes := a.takes.filter (fun t => match vgetD a.blocks t.block none with
    | some b => decide (b.pos.ord ≤ t.ord)
    | none => false) }
/-- KRUN of the kernel that owns a block's slot: the pattern starts anew (02 R77, 04 R144). -/
def AgBlock.restart (b : AgBlock) : AgBlock := { b with pos := AgPos.zero, saved := AgPos.zero, ahead := [], issue := AgPos.zero }

end Sys2Proof.Machine
end

