-- ==== Sys2Proof/Machine/Branch.lean ====
section
/-! DEFINITION. Branches and jumps (09 R308, 07 R231), software traps (09 R300) and the return from a trap (09 R298). -/

namespace Sys2Proof.Machine

/-- A branch: to its own address + 4 SExt(off16), or on to the next word (07 R231). -/
def State.branch (s : State) (taken : Bool) (o : BitVec 16) : Out :=
  .next (s.modMe (fun st => if taken then st.goto (st.pc + (o.signExtend 64 <<< 2)) else st.advance 4))

def execBeq (a b : GReg) (o : BitVec 16) (s : State) : Out := s.branch (s.g a == s.g b) o
def execBne (a b : GReg) (o : BitVec 16) (s : State) : Out := s.branch (s.g a != s.g b) o
def execBlt (a b : GReg) (o : BitVec 16) (s : State) : Out := s.branch ((s.g a).slt (s.g b)) o
def execBge (a b : GReg) (o : BitVec 16) (s : State) : Out := s.branch (!(s.g a).slt (s.g b)) o
def execBltu (a b : GReg) (o : BitVec 16) (s : State) : Out := s.branch ((s.g a).ult (s.g b)) o
def execBgeu (a b : GReg) (o : BitVec 16) (s : State) : Out := s.branch (!(s.g a).ult (s.g b)) o

/-- JAL links in g31 (09 R308). -/
def execJal (o : BitVec 26) (s : State) : Out :=
  .next (s.modMe (fun st => (st.setG 31 (st.pc + 4)).goto (st.pc + (o.signExtend 64 <<< 2))))

/-- JALR reads g[a] before it writes g[d]; a target that is no multiple of 4 traps, g[d] unchanged (09 R308). -/
def execJalr (d a : GReg) (i : BitVec 16) (s : State) : Out :=
  let t := s.g a + i.signExtend 64
  if t.toNat % 4 = 0 then .next (s.modMe (fun st => (st.setG d (st.pc + 4)).goto t))
  else .next (s.trapHere .misaligned 0 t)

/-- TRAP: SYSCALL, complete, TRAPPC at the next instruction (09 R299, R300). -/
def execTrap (n : BitVec 8) (s : State) : Out :=
  .next (s.modMe (fun st => st.enterTrap .syscall 0 (n.setWidth 64) (st.pc + 4)))
/-- BRK: BREAK, as TRAP (09 R299, R300). -/
def execBrk (n : BitVec 8) (s : State) : Out :=
  .next (s.modMe (fun st => st.enterTrap .break_ 0 (n.setWidth 64) (st.pc + 4)))

/-- RTE at supervisor privilege returns to TRAPPC; at user privilege it traps with PROTECTION, TRAPVAL holding its word
(09 R293, R298, 14 R425). -/
def execRte (s : State) : Out :=
  if s.me.priv then .next (s.modMe Strand.leaveTrap) else .next (s.trapHere .protection 0 0x78000400)

/-- An unassigned word: ILLEGAL, TRAPVAL the word (07 R230, 14 R425). -/
def execIllegalInstruction (w : W32) (s : State) : Out := .next (s.trapHere .illegal 0 (w.setWidth 64))

end Sys2Proof.Machine
end

