-- ==== Sys2Proof/Machine/Matrix.lean ====
section
/-! DEFINITION. Matrix nodes (10 R321 to R341): operands in the buffers, MMA and MMAS by chunks (06 R212, R213, R216), the queued
operations, the output entries, and the steps of a node's queue. -/

namespace Sys2Proof.Machine

def Dev.node (d : Dev) (c : ClusterId) (n : NodeIx) : MNode := vget (d.cl c).fab.nodes n
def Dev.modNode (d : Dev) (c : ClusterId) (n : NodeIx) (f : MNode → MNode) : Dev :=
  d.modCl c (fun cl => { cl with fab := { cl.fab with nodes := vmod cl.fab.nodes n f } })
/-- The memory nodes of A and of B (02 R59). -/
def mnA (n : NodeIx) : MnIx := ⟨2 * n.val, by omega⟩
def mnB (n : NodeIx) : MnIx := ⟨2 * n.val + 1, by omega⟩
def Dev.memNode (d : Dev) (c : ClusterId) (m : MnIx) : MemNode := vget (d.cl c).memNodes m
def MemNode.isFull (m : MemNode) (k : Nat) : Bool := bit m.full.toNat k

/-- Where a buffer's bytes lie. -/
def Dev.bufBase (d : Dev) (c : ClusterId) (m : MnIx) (k : Nat) : Nat := nodeKey c.val m.val (k * ((d.memNode c m).bufu.toNat * 4096))
/-- z bits at a bit offset of a buffer, and whether their atom is poisoned (10 R328, 06 R216). -/
def Dev.bufElem (d : Dev) (base off z : Nat) : Nat × Bool :=
  (leNat (memReadN d.mem (base + off / 8) ((z + 7) / 8)) / 2 ^ (off % 8) % 2 ^ z, smem d.poison ((base + off / 8) / 64))

/-- The floating-point format of an operand code (10 R241). -/
def mxFmt (f : Nat) : Fmt :=
  if f = 0 then .bf16 else if f = 1 then .f16 else if f = 2 ∨ f = 5 then .e4m3 else if f = 3 ∨ f = 6 then .e5m2
  else if f = 4 then .e2m1 else .f32

/-- Bit offset of A(r, 32q + j) and B(32q + j, c) (10 R328). -/
def mxAOff (e : Word) (r q j : Nat) : Nat :=
  (if mxFlag e 19 then (32 * q + j) * mxM e + r else (q * mxM e + r) * 32 + j) * mxBits (mxAfmt e)
def mxBOff (e : Word) (q j c : Nat) : Nat :=
  (if mxFlag e 20 then (q * mxN e + c) * 32 + j else (32 * q + j) * mxN e + c) * mxBits (mxBfmt e)
/-- Data bytes, without scales. -/
def mxAData (e : Word) : Nat := (mxM e * (if mxMop e = 2 then 16 else 32) * mxQ e * mxBits (mxAfmt e) + 7) / 8
def mxBData (e : Word) : Nat := (32 * mxQ e * mxN e * mxBits (mxBfmt e) + 7) / 8

/-- A pair of elements to multiply, with poison. -/
structure MxPair where
  a : Nat
  b : Nat
  po : Bool
deriving DecidableEq, Repr

/-- The pairs of chunk q for element (r, c) (10 R328, R329). -/
def Dev.mxPairs (d : Dev) (ba bb : Nat) (e : Word) (r q c : Nat) : List MxPair :=
  let pair := fun (a : Nat × Bool) (j : Nat) (po : Bool) =>
    let b := d.bufElem bb (mxBOff e q j c) (mxBits (mxBfmt e))
    (⟨a.1, b.1, a.2 || b.2 || po⟩ : MxPair)
  if mxMop e = 2 then
    let za := mxBits (mxAfmt e)
    let base := if mxFlag e 21 then bb + mxBBytes e else ba + mxABytes e
    (List.range 16).map fun h =>
      let m := d.bufElem base (((q * mxM e + r) * 8 + h / 2) * 4) 4
      let t := if h % 2 = 0 then m.1 % 4 else m.1 / 4
      pair (d.bufElem ba (((q * mxM e + r) * 16 + h) * za) za) (4 * (h / 2) + t) m.2
  else
    (List.range 32).map fun j => pair (d.bufElem ba (mxAOff e r q j) (mxBits (mxAfmt e))) j false

/-- The E8M0 scales of row r and column c in chunk q: exponent, or none for NaN, and poison (06 R195, 10 R328). -/
def Dev.mxScale (d : Dev) (ba bb : Nat) (e : Word) (r q c : Nat) : Option Int × Bool :=
  let one := fun (mx : Bool) (base : Nat) =>
    if !mx then (some (0 : Int), false)
    else
      let s := d.bufElem base 0 8
      (if s.1 = 255 then none else some ((s.1 : Int) - 127), s.2)
  let a := one (mxIsMx (mxAfmt e)) (ba + mxAData e + q * mxM e + r)
  let b := one (mxIsMx (mxBfmt e)) (bb + mxBData e + q * mxN e + c)
  (match a.1, b.1 with
    | some x, some y => some (x + y)
    | _, _ => none, a.2 || b.2)

/-- An exact product, and whether it is 0 times infinity. -/
def exactMul (a b : FV) : FV × Bool :=
  match a, b with
  | .nan, _ => (.nan, false)
  | _, .nan => (.nan, false)
  | .inf s, .inf t => (.inf (s != t), false)
  | .inf s, .num t m _ => if m = 0 then (.nan, true) else (.inf (s != t), false)
  | .num s m _, .inf t => if m = 0 then (.nan, true) else (.inf (s != t), false)
  | .num s m e, .num t n f => (.num (s != t) (m * n) (e + f), false)

/-- Truncated to a multiple of 2^q, as an integer count; and whether something was lost. -/
def truncTo (q : Int) : FV → Int × Bool
  | .num s m e =>
    let t : Nat := if q ≤ e then m * 2 ^ (e - q).toNat else m / 2 ^ (q - e).toNat
    (if s then -(t : Int) else t, decide (e < q) && m % 2 ^ (q - e).toNat != 0)
  | _ => (0, false)

/-- The sum of a chunk's products (06 R212, R213): c, NV raised, and whether a product was truncated. A scale of 0xFF makes every
product NaN, and none of them raises NV. -/
def chunkSum (ps : List (FV × Bool)) (scale : Option Int) : FV × Bool × Bool :=
  let pos := ps.any (fun p => p.1 = .inf false)
  let neg := ps.any (fun p => p.1 = .inf true)
  let nv := ps.any (·.2) || (pos && neg)
  match scale with
  | none => (.nan, false, false)
  | some sc =>
    if ps.any (fun p => p.1 = .nan) || (pos && neg) then (.nan, nv, false)
    else if pos then (.inf false, nv, false)
    else if neg then (.inf true, nv, false)
    else
      let lead := ps.foldl (fun (acc : Option Int) p => match p.1 with
        | .num _ m e =>
          if m = 0 then acc
          else
            let l : Int := (bitLen m : Int) - 1 + e
            some (match acc with
              | none => l
              | some k => max k l)
        | _ => acc) none
      match lead with
      | none => (.num (ps.all (fun p => match p.1 with | .num s _ _ => s | _ => false)) 0 0, nv, false)
      | some l =>
        let q := l - 64
        let ts := ps.map (fun p => truncTo q p.1)
        let s : Int := ts.foldl (fun (acc : Int) t => acc + t.1) 0
        (.num (decide (s < 0)) s.natAbs (q + sc), nv, ts.any (·.2))

/-- An accumulator element after one chunk (10 R330): pattern and flags. -/
def mxAccumulate (e : Word) (acc : Nat) (ps : List MxPair) (scale : Option Int) : Nat × Flags :=
  let semi := mxSemi e
  let fa := mxFmt (mxAfmt e)
  let fb := mxFmt (mxBfmt e)
  let i8 := fun (x : Nat) => signedOf 8 x
  let rne : Rnd := ⟨0, false, false, 0⟩
  let bits32 := fun (v : Int) => (v % 2 ^ 32).toNat
  if semi = 0 || mxMop e = 2 then
    if mxAfmt e = 7 then (bits32 ((acc : Int) + ps.foldl (fun s p => s + i8 p.a * i8 p.b) 0), 0)
    else
      let (c, nv, lost) := chunkSum (ps.map (fun p => exactMul (fa.decode p.a) (fb.decode p.b))) scale
      let (v, fl) := fvAdd .f32 rne (Fmt.f32.decode acc) c
      (v, fl ||| (if nv then flagNV else 0) ||| (if lost then flagNX else 0))
  else if semi = 5 then ((ps.foldl (fun x p => x ||| (p.a &&& p.b)) 0) ||| acc, 0)
  else if semi = 6 then ((ps.foldl (fun x p => x ^^^ (p.a &&& p.b)) 0) ^^^ acc, 0)
  else
    let mx := semi = 2 || semi = 3
    let times := semi = 3 || semi = 4
    if mxAfmt e = 7 then
      let xs := ps.map (fun p => if times then i8 p.a * i8 p.b else i8 p.a + i8 p.b)
      let best := xs.foldl (fun b x => if mx then max b x else min b x) (signedOf 32 acc)
      (bits32 best, 0)
    else
      let xs := ps.map (fun p => (if times then fvMul else fvAdd) .f32 rne (fa.decode p.a) (fb.decode p.b))
      (xs.foldl (fun b x => fmtMin .f32 mx b x.1) acc, xs.foldl (fun f x => f ||| x.2) 0)

/-- Identity of a semiring (10 R330). -/
def mxIdentity (e : Word) : Nat :=
  let int := mxAfmt e = 7
  if mxMop e = 2 then 0
  else if mxSemi e = 1 || mxSemi e = 4 then (if int then 0x7FFFFFFF else 0x7F800000)
  else if mxSemi e = 2 || mxSemi e = 3 then (if int then 0x80000000 else 0xFF800000)
  else 0

/-- An accumulator element. -/
def MNode.elem (m : MNode) (t r c : Nat) : Nat := ((tget (vgetD m.acc t []) (128 * r + c)).getD 0).toNat
def MNode.marked (m : MNode) (t r c : Nat) : Bool := smem (vgetD m.marks t []) (128 * r + c)
/-- Accumulator t with elements (r, c), r < rows and c < cols, given by a function of pattern and mark. -/
def MNode.setTile (m : MNode) (t rows cols : Nat) (f : Nat → Nat → Nat × Bool) : MNode :=
  let at_ := fun i => if decide (i / 128 < rows) && decide (i % 128 < cols) then f (i / 128) (i % 128)
    else (m.elem t (i / 128) (i % 128), m.marked t (i / 128) (i % 128))
  let all := (List.range 16384).map (fun i => (i, at_ i))
  { m with
    acc := vsetD m.acc t (all.filterMap (fun x => if x.2.1 = 0 then none else some (x.1, BitVec.ofNat 32 x.2.1)))
    marks := vsetD m.marks t (all.filterMap (fun x => if x.2.2 then some x.1 else none)) }

/-- One chunk of an MMA or MMAS (10 R330): the node after it and the flags raised. -/
def Dev.mxChunk (d : Dev) (c : ClusterId) (n : NodeIx) (e : Word) (q : Nat) : MNode × Flags :=
  let m := d.node c n
  let ba := d.bufBase c (mnA n) (mxAbuf e)
  let bb := d.bufBase c (mnB n) (mxBbuf e)
  let cell := fun r k =>
    let ps := d.mxPairs ba bb e r q k
    let sc := d.mxScale ba bb e r q k
    let (v, fl) := mxAccumulate e (m.elem (mxAcc e) r k) ps sc.1
    (v, m.marked (mxAcc e) r k || sc.2 || ps.any (·.po), fl)
  let fl := (List.range (mxM e)).foldl (fun f r => (List.range (mxN e)).foldl (fun f k => f ||| (cell r k).2.2) f) (0 : Flags)
  (m.setTile (mxAcc e) (mxM e) (mxN e) (fun r k => ((cell r k).1, (cell r k).2.1)), fl)

/-- Four times the rate of an entry (10 R326). -/
def mxRate4 (e : Word) : Nat :=
  let a := mxAfmt e
  let b := mxBfmt e
  if mxMop e = 2 then (if a = 4 && b = 4 then 32 else 16)
  else if mxSemi e != 0 then 1
  else if a ≤ 1 then 4
  else if a = 8 then 1
  else if a = 4 && b = 4 then 16
  else 8
/-- The time of one chunk (10 R331). -/
def mxChunkTime (e : Word) : Nat := (mxM e + 63) / 64 * ((mxN e + 63) / 64) * 32 * 4 / mxRate4 e
/-- Cycles of the other queued operations (10 R331). -/
def mxCycles (e : Word) : Nat := if mxMop e = 4 || mxMop e = 8 then 4 + mxM e * mxN e / 256 else 1

/-- The buffers an entry names are full (10 R331). -/
def Dev.mxBuffersFull (d : Dev) (c : ClusterId) (n : NodeIx) (e : Word) : Bool :=
  let a := (d.memNode c (mnA n)).isFull (mxAbuf e)
  let b := (d.memNode c (mnB n)).isFull (mxBbuf e)
  match mxMop e with
  | 1 | 2 | 8 => a && b
  | 4 => a
  | _ => true
/-- Release of a buffer (02 R62): its full bit clears with the end of this cycle. -/
def Dev.releaseBuf (d : Dev) (c : ClusterId) (m : MnIx) (k : Nat) : Dev :=
  d.modCl c (fun cl => { cl with memNodes := vmod cl.memNodes m (fun x => { x with freeing := x.freeing ||| BitVec.ofNat 16 (2 ^ k) }) })
/-- The end of a cycle of a memory node. -/
def MemNode.settle (m : MemNode) : MemNode := { m with full := m.full &&& ~~~m.freeing, freeing := 0 }
/-- The buffers of an entry that releases them (10 R325). -/
def Dev.mxRelease (d : Dev) (c : ClusterId) (n : NodeIx) (e : Word) : Dev :=
  let d := if mxFlag e 17 then d.releaseBuf c (mnA n) (mxAbuf e) else d
  if mxFlag e 18 then d.releaseBuf c (mnB n) (mxBbuf e) else d

/-- The region of the head of a node's queue, or the one the node is bound to. -/
def Dev.nodeRegion (d : Dev) (c : ClusterId) (n : NodeIx) : Option RegionIx :=
  match (d.node c n).queue with
  | h :: _ => some h.rg
  | [] => (d.node c n).region
/-- The node's region lets its queue run: it is not STOPPED (10 R338). -/
def Dev.nodeRuns (d : Dev) (c : ClusterId) (n : NodeIx) : Bool :=
  match d.nodeRegion c n with
  | some r => (d.region c r).st != .stopped
  | none => true
/-- The node's region stands at the weir at which it stops (10 R338). -/
def Dev.nodeStops (d : Dev) (c : ClusterId) (n : NodeIx) : Bool :=
  match d.nodeRegion c n with
  | some r => (d.region c r).st = .stopping && (d.region c r).weir = .wrap
  | none => false
/-- A new instance may start: the region is not about to stop at its weir. -/
def Dev.nodeStarts (d : Dev) (c : ClusterId) (n : NodeIx) : Bool := d.nodeRuns c n && !d.nodeStops c n

/-- Change the head instance. -/
def MNode.modHead (m : MNode) (f : MInst → MInst) : MNode :=
  match m.queue with
  | h :: t => { m with queue := f h :: t }
  | [] => m

/-- The head instance starts (10 R331). -/
def Dev.mxStart (d : Dev) (c : ClusterId) (n : NodeIx) (h : MInst) : Dev :=
  if !(d.nodeStarts c n && decide (h.due < d.now) && decide ((d.node c n).lastDone < d.now) &&
      (d.mxBuffersFull c n h.entry || (decide (mxMop h.entry ≤ 2) && decide (mxQ h.entry ≤ h.p)))) then d
  else
    let d := if mxMop h.entry ≤ 2 && h.p = 0 && mxFlag h.entry 16 then
        d.modNode c n (fun m => m.setTile (mxAcc h.entry) (mxM h.entry) (mxN h.entry) (fun _ _ => (mxIdentity h.entry, false)))
      else d
    d.modNode c n (fun m => m.modHead (fun h => { h with began := some (d.now, h.p) }))

/-- The next chunk of the head instance: chunk boundaries stand T cycles apart, the 16 cycles after the last (10 R331; log 120). The buffers are
released with the last chunk's reads. Where its region stops, the instance stops at this boundary (R338). -/
def Dev.mxNextChunk (d : Dev) (c : ClusterId) (n : NodeIx) (h : MInst) (s p0 : Nat) : Dev :=
  if !d.nodeRuns c n || mxQ h.entry ≤ h.p || d.now + 1 < s + (h.p + 1 - p0) * mxChunkTime h.entry then d
  else
    let (m, fl) := d.mxChunk c n h.entry h.p
    let halt := d.nodeStops c n
    let d := if h.p + 1 = mxQ h.entry then d.mxRelease c n h.entry else d
    d.modNode c n (fun _ => m.modHead (fun h => { h with
      p := h.p + 1
      flags := h.flags ||| fl
      began := if halt then none else h.began }))

/-- MMA, MMAS: the head instance starts, or runs its next chunk. -/
def Dev.mxStep (d : Dev) (c : ClusterId) (n : NodeIx) (mop : Nat) : Dev :=
  match (d.node c n).queue with
  | [] => d
  | h :: _ =>
    if mxMop h.entry != mop then d
    else match h.began with
      | none => d.mxStart c n h
      | some (s, p0) => if mop ≤ 2 then d.mxNextChunk c n h s p0 else d

/-- MLDA's words (10 R332). -/
def Dev.mxLoad (d : Dev) (c : ClusterId) (n : NodeIx) (e : Word) : MNode :=
  let ba := d.bufBase c (mnA n) (mxAbuf e)
  (d.node c n).setTile (mxAcc e) (mxM e) (mxN e) (fun r k => d.bufElem ba (32 * (r * mxN e + k)) 32)

/-- The state of a stochastic register after n steps, as a list of draws (06 R203, R204). -/
def lfsrDraws : Nat → W32 → List W32
  | 0, _ => []
  | n + 1, s => lfsrStep s :: lfsrDraws n (lfsrStep s)

/-- MSCALE (10 R332). -/
def Dev.mxScaleTile (d : Dev) (c : ClusterId) (n : NodeIx) (e : Word) (rnd : Nat) : MNode × Flags :=
  let m := d.node c n
  let mode := if mxSemi e = 6 then rnd else mxSemi e
  let draws := if mode = 5 then lfsrDraws (mxM e * mxN e) m.lfsr else []
  let ba := d.bufBase c (mnA n) (mxAbuf e)
  let bb := d.bufBase c (mnB n) (mxBbuf e)
  let cell := fun r k =>
    let a := d.bufElem ba (32 * r) 32
    let b := d.bufElem bb (32 * k) 32
    let (s, nv) := exactMul (Fmt.f32.decode a.1) (Fmt.f32.decode b.1)
    let (v, fl) := fvMul .f32 ⟨mode, false, false, draws.getD (r * mxN e + k) 0⟩ (Fmt.f32.decode (m.elem (mxAcc e) r k)) s
    (v, m.marked (mxAcc e) r k || a.2 || b.2, fl ||| (if nv then flagNV else 0))
  let fl := (List.range (mxM e)).foldl (fun f r => (List.range (mxN e)).foldl (fun f k => f ||| (cell r k).2.2) f) (0 : Flags)
  let m' := m.setTile (mxAcc e) (mxM e) (mxN e) (fun r k => ((cell r k).1, (cell r k).2.1))
  ({ m' with lfsr := draws.getLast?.getD m.lfsr }, fl)

/-- The effect of a queued operation that is no MMA (10 R332). -/
def Dev.mxEffect (d : Dev) (c : ClusterId) (n : NodeIx) (h : MInst) : MNode × Flags :=
  let e := h.entry
  let m := d.node c n
  match mxMop e with
  | 3 => (m.setTile (mxAcc e) (mxM e) (mxN e) (fun _ _ => (0, false)), 0)
  | 4 => (d.mxLoad c n e, 0)
  | 8 => d.mxScaleTile c n e h.rnd
  | 9 =>
    let a := mxAcc e
    let b := mxAbuf e % 4
    ({ m with
        acc := vsetD (vsetD m.acc a (vgetD m.acc b [])) b (vgetD m.acc a [])
        marks := vsetD (vsetD m.marks a (vgetD m.marks b [])) b (vgetD m.marks a []) }, 0)
  | _ => (m, 0)

/-- A region gathers a node's flags (06 R206, 10 R330); an idle one has no round in progress, and they go to FPFLAGS at once
(log 45). -/
def Dev.gatherFlags (d : Dev) (c : ClusterId) (r : RegionIx) (fl : Flags) : Dev :=
  if (d.region c r).st = .idle then
    d.modCl c (fun cl => { cl with fpFlags := cl.fpFlags ||| BitVec.ofNat 64 (fl.toNat * 2 ^ (8 * r.val)) })
  else d.modRegion c r (fun x => { x with nflags := x.nflags ||| fl })

/-- A RETIRING kernel whose last half has drained and whose instances have completed is RETIRED (04 R151, 10 R324), and its ports
send END (05 R183). -/
def Dev.retireKernels (d : Dev) (c : ClusterId) (r : RegionIx) : Dev :=
  (List.finRange 4).foldl (fun d k =>
    let x := d.region c r
    let kn := vget x.kernels k
    let busy := (d.cl c).fab.nodes.toList.any (fun m => m.queue.any (fun i => i.rg = r && i.kern = k))
    if kn.st = .retiring && decide (kn.need ≤ x.drainedN) && !busy && x.st != .stopped && x.st != .faulted then
      (d.modRegion c r (fun x => { x with kernels := vmod x.kernels k (fun kn => { kn with st := .retired }) })).modCl c
        (fun cl => cl.sendEnds r.val k)
    else d) d

/-- The head instance leaves the queue (10 R331). A kernel that it lets retire has no half that drains (04 R149): its END waits for one that
does. -/
def Dev.mxFinish (d : Dev) (c : ClusterId) (n : NodeIx) (m : MNode) (h : MInst) (fl : Flags) : Dev :=
  let d := d.modNode c n (fun _ => { m with queue := m.queue.drop 1, doneCnt := m.doneCnt + 1, lastDone := d.now })
  (d.gatherFlags c h.rg (fl ||| h.flags)).retireKernels c h.rg

/-- MATRIX_INSTANCE_COMPLETE (10 R331): the head instance, when it has run its cycles. An MMA past its last chunk boundary stops there when its
region stops (R338). -/
def Dev.mxComplete (d : Dev) (c : ClusterId) (n : NodeIx) : Dev :=
  match (d.node c n).queue with
  | [] => d
  | h :: _ =>
    match h.began with
    | none => d
    | some (s, p0) =>
      if !d.nodeRuns c n then d
      else if mxMop h.entry ≤ 2 then
        (if h.p < mxQ h.entry then d
        else if d.nodeStops c n then d.modNode c n (fun m => m.modHead (fun h => { h with began := none }))
        else if d.now + 1 < s + 16 + (mxQ h.entry - p0) * mxChunkTime h.entry then d
        else d.mxFinish c n (d.node c n) h 0)
      else if mxMop h.entry = 10 || d.now + 1 < s + mxCycles h.entry then d
      else
        let (m, fl) := d.mxEffect c n h
        (d.mxRelease c n h.entry).mxFinish c n m h fl

/-- The gang of an MGANG at the head of a node's queue (10 R340): the nodes of its members, when all stand there. -/
def Dev.gangOf (d : Dev) (c : ClusterId) (e : Word) (s : Nat) : List (ClusterId × NodeIx) :=
  let cs := if mxBbuf e % 2 = 1 && d.partOf (pairCluster c) = d.partOf c then [c, pairCluster c] else [c]
  let cs := if (pairCluster c).val < c.val then cs.reverse else cs
  cs.flatMap fun k => ((List.finRange 12).filter fun n =>
    let m := d.node k n
    match m.queue with
    | h :: _ => mxMop h.entry = 10 && mxAbuf h.entry = mxAbuf e && mxKch h.entry = mxKch e && mxBbuf h.entry % 2 = mxBbuf e % 2 &&
        vgetD m.gang (mxAbuf e) 0 = s && d.nodeRuns k n && decide (h.due < d.now) && decide (m.lastDone < d.now)
    | [] => false).map (fun n => (k, n))

/-- MGANG: the gang forms and its members complete together (10 R340). Where more members than it takes stand at their heads, those of the lower
cluster and then the lower node number complete (DESIGN CHOICE, log 121). -/
def Dev.mxGang (d : Dev) (c : ClusterId) (n : NodeIx) : Dev :=
  match (d.node c n).queue with
  | [] => d
  | h :: _ =>
    if mxMop h.entry != 10 || !d.nodeStarts c n then d
    else
      let id := mxAbuf h.entry
      let g := d.gangOf c h.entry (vgetD (d.node c n).gang id 0)
      let members := g.take (mxKch h.entry)
      if members.length < mxKch h.entry || !members.contains (c, n) then d
      else members.foldl (fun d x =>
        match (d.node x.1 x.2).queue with
        | h :: _ =>
          let m := d.node x.1 x.2
          (d.mxRelease x.1 x.2 h.entry).mxFinish x.1 x.2 { m with gang := vsetD m.gang id (vgetD m.gang id 0 + 1) } h 0
        | [] => d) d

def execMma (c : ClusterId) (n : NodeIx) (s : State) : Out := .next { s with dev := s.dev.mxStep c n 1 }
def execMmas (c : ClusterId) (n : NodeIx) (s : State) : Out := .next { s with dev := s.dev.mxStep c n 2 }
def execMzero (c : ClusterId) (n : NodeIx) (s : State) : Out := .next { s with dev := s.dev.mxStep c n 3 }
def execMlda (c : ClusterId) (n : NodeIx) (s : State) : Out := .next { s with dev := s.dev.mxStep c n 4 }
def execMscale (c : ClusterId) (n : NodeIx) (s : State) : Out := .next { s with dev := s.dev.mxStep c n 8 }
def execMswap (c : ClusterId) (n : NodeIx) (s : State) : Out := .next { s with dev := s.dev.mxStep c n 9 }
def execMgang (c : ClusterId) (n : NodeIx) (s : State) : Out := .next { s with dev := s.dev.mxGang c n }
def execMatrixInstanceComplete (c : ClusterId) (n : NodeIx) (s : State) : Out := .next { s with dev := s.dev.mxComplete c n }

/-- The conversion of an MSTA element (10 R334). -/
def mstaElem (af bf mode : Nat) (draw : W32) (x : Nat) : Nat × Flags :=
  let r : Rnd := ⟨mode, true, false, draw⟩
  if bf = 7 then
    if af = 7 then (((max (-128) (min 127 (signedOf 32 x))) % 256).toNat, 0)
    else
      let (v, fl) := fvToInt 8 mode draw true (Fmt.f32.decode x)
      ((v % 256).toNat, fl)
  else if af = 7 then intToFv (mxFmt bf) r (signedOf 32 x)
  else fvConvert (mxFmt bf) r (Fmt.f32.decode x)

/-- An output instance executes (10 R333, R334): vectors with their delays to the rim, the node after it, flags. -/
def MNode.output (m : MNode) (e : Word) (num rnd ver : Nat) : List (Nat × VecVal) × MNode × Flags :=
  let nn := mxN e
  let t := mxAcc e
  let cnt := if mxMop e = 5 then 256 / mxBits (mxBfmt e) else if mxMop e = 7 then 32 else 8
  let v := vgetD m.opos num 0
  let ix := (List.range cnt).map (fun i => cnt * v + i)
  let els := ix.map (fun i => m.elem t (i / nn) (i % nn))
  let mks := ix.map (fun i => m.marked t (i / nn) (i % nn))
  let mode := if mxSemi e = 6 then rnd else mxSemi e
  let sr := mxMop e != 6 && mode = 5
  let draws := if sr then lfsrDraws cnt m.lfsr else []
  let (vecs, fl) : List (Nat × VecVal) × Flags :=
    if mxMop e = 6 then ([(1, ⟨BitVec.ofNat 256 (joinEls 32 els), markBytes 4 mks, BitVec.ofNat 2 ver⟩)], 0)
    else if mxMop e = 5 then
      let rs := els.zipIdx.map (fun x => mstaElem (mxAfmt e) (mxBfmt e) mode (draws.getD x.2 0) x.1)
      let z := mxBits (mxBfmt e)
      ([(1, ⟨BitVec.ofNat 256 (joinEls z (rs.map (·.1))), markBytes (z / 8) mks, BitVec.ofNat 2 ver⟩)],
        rs.foldl (fun f x => f ||| x.2) 0)
    else
      let (sc, xs, fl) := mxBlock (mxFmt (mxBfmt e)) mode draws els
      let po := mks.any id
      let w := (mxFmt (mxBfmt e)).width
      ([(1, ⟨BitVec.ofNat 256 (joinEls w xs), if po then (if w = 4 then 0xFFFF else 0xFFFFFFFF) else 0, BitVec.ofNat 2 ver⟩),
        (2, ⟨BitVec.ofNat 256 sc, if po then 1 else 0, BitVec.ofNat 2 ver⟩)], fl)
  let m := if mxFlag e 16 then
      m.setTile t 128 128 (fun r k => if decide (k < nn) && ix.contains (r * nn + k) then (0, false) else (m.elem t r k, m.marked t r k))
    else m
  let total := mxM e * nn / cnt
  (vecs, { m with opos := vsetD m.opos num (if v + 1 < total then v + 1 else 0), lfsr := draws.getLast?.getD m.lfsr }, fl)

/-- The accumulators that a queued instance names (10 R335). -/
def mxNames (e : Word) (t : Nat) : Bool := mxMop e != 10 && (mxAcc e = t || (mxMop e = 9 && mxAbuf e % 4 = t))

/-- The entries of a node that are due in a slot (10 R322): entry numbers and entries. -/
def MNode.dueIn (m : MNode) (r : Region) (slot : Nat) : List (Nat × Word) :=
  m.act.toList.zipIdx.filterMap fun (x : Word × Nat) =>
    if x.1 != 0 && mxMop x.1 != 0 && mxSlot x.1 = slot && (match r.owner slot with
      | some k => (vget r.kernels k).sp.getLsbD 0
      | none => false) then some (x.2, x.1) else none

/-- What one node did in a slot: the node, vectors for the rim with lane and delay, and flags. -/
abbrev NodeTake := MNode × List (Nat × Nat × VecVal) × Flags
def NodeTake.before (vs : List (Nat × Nat × VecVal)) (fl : Flags) (x : NodeTake) : NodeTake := (x.1, vs ++ x.2.1, fl ||| x.2.2)

/-- What a node does with the entries due in an executed slot (10 R322, R333, R337); none: the node asserts the stall wire (R335). -/
def MNode.take (rnd ver now : Nat) (own : RegionIx × Fin 4) : List (Nat × Word) → MNode → Option NodeTake
  | [], m => some (m, [], 0)
  | (num, e) :: t, m =>
    if m.seen < m.replay then
      let k := if !mxOutput e then 0 else if mxMop e = 7 then 2 else 1
      let vs := ((m.recorded.drop m.rpos).take k).zipIdx.map (fun (v : VecVal × Nat) =>
        (mxBbuf e % 8, v.2 + 1, { v.1 with ver := BitVec.ofNat 2 ver }))
      let m : MNode := { m with seen := m.seen + 1, rpos := m.rpos + k }
      (MNode.take rnd ver now own t m).map (NodeTake.before vs 0)
    else if mxOutput e then
      if m.queue.any (fun h => mxNames h.entry (mxAcc e)) then none
      else
        let (vs, m, fl) := m.output e num rnd ver
        let k := vs.length
        let m : MNode := { m with
          replay := m.replay + 1
          seen := m.seen + 1
          rpos := m.rpos + k
          recorded := m.recorded ++ vs.map (fun (v : Nat × VecVal) => v.2) }
        (MNode.take rnd ver now own t m).map (NodeTake.before (vs.map (fun (v : Nat × VecVal) => (mxBbuf e % 8, v.1, v.2))) fl)
    else if 8 ≤ m.queue.length then none
    else
      let m : MNode := { m with
        replay := m.replay + 1
        seen := m.seen + 1
        queue := m.queue ++ [(⟨e, 0, num, rnd, now, none, 0, own.1, own.2⟩ : MInst)] }
      MNode.take rnd ver now own t m

/-- The round is sealed: the replay record is cleared (10 R337). -/
def MNode.sealRound (m : MNode) : MNode := { m with replay := 0, seen := 0, seen0 := 0, recorded := [], rpos := 0, rpos0 := 0 }
/-- A void: the round's entries come again (10 R337). -/
def MNode.void (m : MNode) : MNode := { m with seen := m.seen0, rpos := m.rpos0 }

end Sys2Proof.Machine
end

