-- ==== Sys2Proof/Machine/CellExec.lean ====
section
/-! DEFINITION. What the cells of a region do in one executed slot (05 R168, 08 R252 to R257): the word each cell executes (05 R186),
its operands (07 R219), what it needs (05 R175), the faults it meets, and its effects on registers, links, rim and ports. -/

namespace Sys2Proof.Machine

/-- What the port operand of a cell delivers in a cycle (02 R58, 05 R179). -/
structure PortIn where
  val : VecVal
  /-- VER of the value, where one is delivered. -/
  ver : Option Nat
  /-- The bytes of elements that are there: a reading operation treats the guard bits of the others as 0 (02 R75, 05 R179). -/
  live : BitVec 32
  ready : Bool
  /-- Elements taken from the stream port. -/
  n : Nat
  port : Option PortIx
deriving DecidableEq, Repr
def PortIn.none_ : PortIn := ⟨VecVal.zero, none, BitVec.allOnes 32, true, 0, none⟩

/-- The port operand: the value that reached the rim tap in the previous cycle on a lane, or the vector of the stream port. -/
def Cluster.portIn (cl : Cluster) (g i lane : Nat) : PortIn :=
  if (cl.cell i).rimTap then
    match (cl.region g).rim.find? (fun v => v.arrived && some v.station = cellStation i && v.lane = lane) with
    | some v => ⟨v.val, some v.val.ver.toNat, ~~~v.mask, true, 0, none⟩
    | none => PortIn.none_
  else match cl.portOf i false with
    | none => PortIn.none_
    | some p => match (vget cl.fab.ports p).look with
      | none => ⟨VecVal.zero, none, BitVec.allOnes 32, false, 0, some p⟩
      | some x => ⟨x.val, if x.masked then none else some x.val.ver.toNat, BitVec.ofNat 32 (2 ^ (4 * x.lanes) - 1), true, x.n, some p⟩

/-- Link input n, e, s or w (0 to 3) of a cell and its VER, where a value was placed there (02 R52, 05 R186). -/
def Cluster.linkIn (cl : Cluster) (g i dir : Nat) : VecVal × Option Nat :=
  match neighbour i dir with
  | some j =>
    if cellRegion cl.layout.toNat j = g then
      let o := (dir + 2) % 4
      let v := vgetD (cl.cell j).out o VecVal.zero
      (v, if (cl.cell j).driven.getLsbD o then some v.ver.toNat else none)
    else (VecVal.zero, none)
  | none => (VecVal.zero, none)

/-- RBASE of a kernel in a window of rsz registers (02 R50, 05 R170). -/
def Kernel.rbase (k : Kernel) (rsz : Nat) : Nat := if rsz = 0 then 0 else (rsz - k.periods % rsz) % rsz
/-- The physical register of name wk (02 R50). -/
def physW (k : Kernel) (lv : Live) (n : Nat) : Nat := lv.rog + (if lv.rsz = 0 then 0 else (n + k.rbase lv.rsz) % lv.rsz)

/-- Lanes of a constant (07 R222). -/
def spread (k : W32) : V256 := BitVec.ofNat 256 (joinEls 32 (List.replicate 8 k.toNat))

/-- The link, port and rim operands that a slot's word reads, as source codes 56 to 60 (05 R186). -/
def Plane.inputs (p : Plane) (s : Nat) : List Nat :=
  (p.word s).sources.filter (fun x => decide (56 ≤ x) && decide (x ≤ 60)) ++
  (List.range 5).filterMap (fun o => let x := routeOut (p.route s) o
    if 3 ≤ x then some (53 + x) else none)
/-- The VER that an operand carries. -/
def Cluster.verOf (cl : Cluster) (g i : Nat) (p : Plane) (s code : Nat) : Option Nat :=
  if code = 60 then (cl.portIn g i (routeLane (p.route s))).ver else (cl.linkIn g i (code - 56)).2
/-- The VER expected of an operand under the old and the new configuration (05 R186, R187). -/
def Cluster.verWanted (cl : Cluster) (g i : Nat) (old : Bool) (code : Nat) : Nat :=
  let r := cl.region g
  let own := (if old then r.oldVer else r.ver).toNat % 4
  if code = 60 && !(cl.cell i).rimTap then
    match cl.portOf i false with
    | some p =>
      let q := vget cl.fab.ports p
      (if old then q.oldVer else (match q.cfg with | some c => c.ver | none => 0)).toNat
    | none => own
  else own

/-- A source operand (07 R219). -/
def Cluster.operand (cl : Cluster) (g i : Nat) (k : Kernel) (lv : Live) (pin : PortIn) (const : W32) (code : Nat) : VecVal :=
  let x := cl.cell i
  if code < 16 then vgetD x.v code VecVal.zero
  else if code < 56 then vgetD x.w (physW k lv (code - 16)) VecVal.zero
  else if code < 60 then (cl.linkIn g i (code - 56)).1
  else if code = 60 then pin.val
  else if code = 61 then ⟨spread const, 0, 0⟩
  else if code = 63 then x.prev
  else VecVal.zero
/-- A predicate (02 R48): p0 is all ones, p8 to p15 are the kernel's stages. -/
def Cell.pred (x : Cell) (k : Kernel) (n : Nat) : W32 :=
  if n = 0 then 0xFFFFFFFF else if n < 8 then vgetD x.p n 0 else if k.sp.getLsbD (n - 8) then 0xFFFFFFFF else 0

/-- What a cell is about to execute. -/
structure CellTurn where
  i : Nat
  k : Fin 4
  w : CellWord
  route : W32
  ver : Nat
  port : PortIn
  readsPort : Bool
  x : CellIn
  /-- Received and expected VER of a stale operand (05 R187). -/
  stale : Option (Nat × Nat)
deriving DecidableEq, Repr

/-- The word that a cell executes in a slot, with its operands; none: the slot is a NOP (05 R168). -/
def Cluster.turnOf (cl : Cluster) (g i : Nat) : Option CellTurn := do
  let r := cl.region g
  let s := r.slot
  let k ← r.owner s
  let kn := vget r.kernels k
  if !(kn.st = .running || kn.st = .exiting || kn.st = .retiring) then none
  let x := cl.cell i
  let old := r.left != 0 && (x.stb.inputs s).any (fun q => cl.verOf g i x.stb s q = some (cl.verWanted g i true q))
  let p := if old then x.stb else x.act
  let w := p.word s
  let route := p.route s
  let pin := cl.portIn g i (routeLane route)
  let lv := vget x.live k
  let const := (vgetD p.ops s ⟨0, 0⟩).const
  let op := cl.operand g i kn lv pin const
  let gd := x.pred kn w.pidx
  let gd := if w.pneg then ~~~gd else gd
  let gd := if w.sources.contains 60 then gd &&& pin.live else gd
  let dyn := w.mod % 8 = 6
  let stale := if r.left != 0 then none else (p.inputs s).findSome? (fun q =>
    match cl.verOf g i p s q with
    | some v => if v = cl.verWanted g i false q then none else some (v, cl.verWanted g i false q)
    | none => none)
  return {
    i := i
    k := k
    w := w
    route := route
    ver := (if old then r.oldVer else r.ver).toNat % 4
    port := pin
    readsPort := p.readsPort s
    stale := stale
    x := {
      w := w
      a := op w.sa
      b := op w.sb
      c := op w.dst
      quad := if w.op = .cvtmx then [op (w.sa + 1), op (w.sa + 2), op (w.sa + 3)] else []
      guard := gd
      p := x.pred kn (w.sa % 16)
      q := x.pred kn (w.sb % 16)
      const := const
      mode := if dyn then r.fp.toNat % 8 else w.mod % 8
      ftz := r.fp.getLsbD 3
      lfsr := vget x.lfsr k } }

/-- The elements that a SEND or STEER offers: the chosen lanes with their marks (08 R255, R285). -/
def CellTurn.offer (t : CellTurn) : List (W32 × Bool) :=
  let els := (elems 4 t.x.a.bits).zip (markEls 4 t.x.a.mark)
  ((laneSel t.x.guard).zip els).filterMap (fun e => if e.1 then some (BitVec.ofNat 32 e.2.1, e.2.2) else none)
/-- An element of FMT 0 passes the guard (08 R255). -/
def CellTurn.anyGuard (t : CellTurn) : Bool := (guardEls 4 t.x.guard).any id
def CellTurn.toCmd (t : CellTurn) : Bool := t.w.op = .send && t.w.mod = 1
def CellTurn.toPort (t : CellTurn) : Bool := (t.w.op = .send && t.w.mod = 0) || t.w.op = .steer

/-- An output port after a cell's word (05 R181, 08 R285, R287, R290). -/
def CellTurn.sendTo (t : CellTurn) (round : Nat) (p : Port) : Port :=
  if t.toPort then p.send round t.ver t.offer
  else if t.w.op = .rmark && t.anyGuard then p.mark round t.ver
  else p

/-- The reasons for which a cell's word must wait (05 R175): FCAUSE codes. -/
def Cluster.turnStall (cl : Cluster) (g : Nat) (t : CellTurn) : List Nat :=
  let r := cl.region g
  (if t.readsPort && !t.port.ready then [1] else []) ++
  (match cl.portOf t.i true with
    | some p =>
      let q := vget cl.fab.ports p
      let q' := t.sendTo r.round q
      if q' = q || q'.fits then [] else [2]
    | none => []) ++
  (if t.toCmd && !t.offer.isEmpty && decide (32 ≤ (cl.cell t.i).cmds.length) then [2] else [])

/-- A fault met in a cycle (14 R428, R432). -/
structure RFault where
  src : Nat
  unit : Nat
  cause : Cause
  /-- Class 0: a recorded translation fault. -/
  recorded : Bool
  value : Word
deriving DecidableEq, Repr

/-- The fault of a cell's word (05 R187, 06 R215, 08 R285). A poisoned lane that a SEND.cmd does not offer faults nothing: DESIGN CHOICE,
log 105. -/
def CellTurn.fault (t : CellTurn) : Option RFault :=
  match t.stale with
  | some (v, e) => some ⟨0, t.i, .staleToken, false, BitVec.ofNat 64 (v + 4 * e)⟩
  | none =>
    if (cellCompute t.x).1.badPoison || (t.toCmd && t.offer.any (·.2)) then some ⟨0, t.i, .poison, false, 0⟩ else none

/-- Bits of a byte mask, wholly and partly. -/
def someBytes (m : V256) : BitVec 32 := BitVec.ofNat 32 (joinEls 1 ((elems 1 m).map (fun x => if x = 0 then 0 else 1)))
def wholeBytes (m : V256) : BitVec 32 := BitVec.ofNat 32 (joinEls 1 ((elems 1 m).map (fun x => if x = 255 then 1 else 0)))
/-- A value after an operation writes the bits of a mask (02 R49). -/
def VecVal.merge (v : VecVal) (bits : V256) (mark : BitVec 32) (mask : V256) (ver : BitVec 2) : VecVal :=
  ⟨(v.bits &&& ~~~mask) ||| (bits &&& mask), (v.mark &&& ~~~(wholeBytes mask)) ||| (mark &&& someBytes mask), ver⟩

/-- The flights that a word issues (02 R49, 07 R224). -/
def CellTurn.flights (t : CellTurn) (res : CellRes) (cyc : Nat) (kn : Kernel) (lv : Live) : List Flight :=
  let o := t.w.op
  if o.latency = 0 || o = .nop then []
  else
    let reg := fun (f : Nat) => if f < 16 then FlightDst.v f else if f < 56 then FlightDst.w (physW kn lv (f - 16)) else FlightDst.none
    let links : BitVec 4 := BitVec.ofNat 4 (joinEls 1 ((List.range 4).map (fun n => if routeOut t.route n = 1 then 1 else 0)))
    let base : Flight := {
      due := cyc + o.latency - 1
      cell := t.i
      kern := t.k.val
      dst := if o.predWriter then .pred (t.w.dst % 8) res.pred res.predMask else reg t.w.dst
      val := res.val
      mark := res.mark
      mask := res.mask
      toPrev := o.routable
      links := if o.routable then links else 0
      rim := if o.routable && routeOut t.route 4 = 1 then some (routeLane t.route, routeOfs t.route) else none
      ver := BitVec.ofNat 2 t.ver }
    match res.second with
    | some (v, m) => [base, { base with dst := reg (t.w.dst + 1), val := v, mark := m }]
    | none => [base]

/-- A value put on the rim from a station: its destination is the first unit scheduled to take it (02 R55). Only a loader's vector has
masked elements (02 R75): a cell that passes its port operand on drives the value alone (log 112). -/
def Cluster.rimVal (cl : Cluster) (g : Nat) (v : VecVal) (station lane delay : Nat) (mask : BitVec 32 := 0) : RimVal :=
  let r := cl.region g
  let x : Inject := ⟨station, lane, (r.slot + delay) % r.w⟩
  ⟨v, mask, lane, station, hop lane station (hops (cl.takers g r.w) r.w x), delay, false⟩

/-- A cell after a flight lands on it. -/
def Cell.land (x : Cell) (f : Flight) : Cell :=
  let prev := if f.toPrev then x.prev.merge f.val f.mark f.mask f.ver else x.prev
  let x := { x with
    prev := prev
    out := Vector.ofFn (fun o => if f.links.getLsbD o.val then { prev with ver := f.ver } else vget x.out o)
    driven := x.driven ||| f.links }
  match f.dst with
  | .v i => { x with v := vsetD x.v i ((vgetD x.v i VecVal.zero).merge f.val f.mark f.mask 0) }
  | .w i => { x with w := vsetD x.w i ((vgetD x.w i VecVal.zero).merge f.val f.mark f.mask 0) }
  | .pred i b m => { x with p := vsetD x.p i ((vgetD x.p i 0 &&& ~~~m) ||| (b &&& m)) }
  | .none => x

/-- Change a cell. -/
def Cluster.modCell (cl : Cluster) (i : Nat) (f : Cell → Cell) : Cluster :=
  { cl with fab := { cl.fab with cells := vsetD cl.fab.cells i (f (cl.cell i)) } }
def Cluster.modReg (cl : Cluster) (g : RegionIx) (f : Region → Region) : Cluster :=
  { cl with fab := { cl.fab with regions := vmod cl.fab.regions g f } }
def Cluster.modPort (cl : Cluster) (p : PortIx) (f : Port → Port) : Cluster :=
  { cl with fab := { cl.fab with ports := vmod cl.fab.ports p f } }
/-- Put values on the rim of a region. -/
def Cluster.addRim (cl : Cluster) (g : RegionIx) (l : List RimVal) : Cluster :=
  cl.modReg g (fun r => { r with rim := r.rim ++ l })

/-- A flight lands: registers, prev, links, and its rim injection (07 R224), which began extra cycles ago. -/
def Cluster.land (cl : Cluster) (g : RegionIx) (f : Flight) : Cluster :=
  let cl := cl.modCell f.cell (fun x => x.land f)
  match f.rim, cellStation f.cell with
  | some (lane, ofs), some st =>
    cl.addRim g [cl.rimVal g.val { (cl.cell f.cell).prev with ver := f.ver } st lane (ofs + 1)]
  | _, _ => cl

/-- The flights due at the end of this cycle land, in the order in which they were issued (02 R49). -/
def Cluster.landDue (cl : Cluster) (g : RegionIx) : Cluster :=
  let r := vget cl.fab.regions g
  let due := r.flights.filter (fun f => decide (f.due ≤ r.cyc))
  due.foldl (fun cl f => cl.land g f) (cl.modReg g (fun r => { r with flights := r.flights.filter (fun f => !decide (f.due ≤ r.cyc)) }))

/-- Route sources 2 to 7 drive their outputs in the issue cycle (07 R223, R224): the values are those read at its start. -/
def Cluster.passThrough (t : CellTurn) (before : Cluster) (g : RegionIx) (cl : Cluster) : Cluster :=
  let value := fun (code : Nat) =>
    let v := if code = 2 then t.x.a else if code = 7 then t.port.val else (before.linkIn g.val t.i (code - 3)).1
    ({ v with ver := BitVec.ofNat 2 t.ver } : VecVal)
  (List.range 5).foldl (fun cl o =>
    let code := routeOut t.route o
    if code < 2 then cl
    else if o < 4 then
      cl.modCell t.i (fun x => { x with out := vsetD x.out o (value code), driven := x.driven ||| BitVec.ofNat 4 (2 ^ o) })
    else match cellStation t.i with
      | some st => cl.addRim g [cl.rimVal g.val (value code) st (routeLane t.route) (routeOfs t.route + 1)]
      | none => cl) cl

/-- One cell's word acts (08): its flights, flags and rounding register; EXIT, SEND, STEER and RMARK; its port read. -/
def Cluster.execTurn (t : CellTurn) (before : Cluster) (g : RegionIx) (cl : Cluster) : Cluster :=
  let r := vget cl.fab.regions g
  let kn := vget r.kernels t.k
  let (res, lf) := cellCompute t.x
  let lv := vget (before.cell t.i).live t.k
  let cl := cl.modReg g (fun r => { r with
    flights := r.flights ++ t.flights res r.cyc kn lv
    flags := r.flags ||| res.flags
    kernels := if t.w.op = .exit && t.anyGuard then vmod r.kernels t.k (fun k => { k with exit_ := true }) else r.kernels })
  let cl := cl.modCell t.i (fun x => { x with lfsr := vset x.lfsr t.k lf })
  let cl := if t.toCmd && !t.offer.isEmpty then
      cl.modCell t.i (fun x => { x with cmds := x.cmds ++ [(⟨{ t.x.a with ver := BitVec.ofNat 2 t.ver }, r.round, t.k,
        decide (t.offer.length < 8), false⟩ : CmdVec)] })
    else cl
  let cl := match cl.portOf t.i true with
    | some p => cl.modPort p (t.sendTo r.round)
    | none => cl
  let cl := match t.port.port with
    | some p => if t.readsPort then cl.modPort p (fun q => q.take t.port.n) else cl
    | none => cl
  Cluster.passThrough t before g cl

/-- The rim moves on by one cycle (02 R54, R57): values that a tap could read are gone. -/
def moveRim (l : List RimVal) : List RimVal :=
  (l.filter (fun v => !v.arrived)).map (fun v =>
    if 0 < v.ofs then { v with ofs := v.ofs - 1 } else { v with station := hop v.lane v.station 1 })
/-- Present at its destination in this cycle. -/
def RimVal.here (v : RimVal) : Bool := v.ofs = 0 && v.station = v.dest

/-- Values at their destination leave the lane: one that a rim tap reads in the next cycle is kept for it (02 R55, R58). -/
def Cluster.arriveRim (cl : Cluster) (g : RegionIx) : Cluster :=
  let r := vget cl.fab.regions g
  let tk := cl.takers g.val r.w
  cl.modReg g (fun r => { r with rim := r.rim.filterMap (fun v =>
    if !v.here then some v
    else if tk.any (fun t => t.2 && t.1.station = v.station && t.1.lane = v.lane && t.1.cyc = r.slot) then
      some { v with arrived := true }
    else none) })

end Sys2Proof.Machine
end

