-- ==== Sys2Proof/Machine/Merge.lean ====
section
/-! DEFINITION. Merge units (11 R369 to R375): tokens enter the eddy window, groups are performed. -/

namespace Sys2Proof.Machine

/-- The queue of a merge unit. -/
def mgQueue (m : MgIx) : QueueIx := ⟨4 + m.val, by omega⟩

/-- The UPDATE whose tokens enter next: the first of the queue that has tokens left; it must be ACTIVE (11 R371). -/
def EngQueue.entering (x : EngQueue) : Option Cmd :=
  match x.cmds.find? (fun k => !k.refused && k.kind = some .update && k.finish.isNone && decide (k.next < pkCount k.w)) with
  | some k => if k.state = .active then some k else none
  | none => none

/-- A token as it is read and checked (11 R369, R374): its OFF, VAL and TAG, its target, and the output page to keep. -/
def readToken (x : Ctx) (k : Cmd) : UA (MergeTok × Word × Target × List KeptPage) := do
  let ga : Word := vgetD k.w 1 0 + BitVec.ofNat 64 (16 * k.next)
  let (bs, po) ← readBytes x ga 16
  if po then throw (.poison, ga, false)
  let tok : MergeTok :=
    ⟨k.key, k.next, leWord (bs.take 8), BitVec.ofNat 32 (leNat ((bs.drop 8).take 4)), BitVec.ofNat 32 (leNat (bs.drop 12))⟩
  let a : Word := vgetD k.w 2 0 + tok.off
  let e := redSize (bits (pkFmt k.w) 3 0)
  if a.toNat % e != 0 then throw (.misaligned, a, true)
  match k.ap.decode a.toNat with
  | some (n, off) => if n = 0 || 3 < n || inNode n off then throw (.aperture, a, true)
  | none => throw (.aperture, a, true)
  let t ← uResolve x .write (a, e)
  if pw k.w 4 = 0 then return (tok, a, t, [])
  else
    let o : Word := vgetD k.w 4 0 + BitVec.ofNat 64 (16 * k.next)
    let ot ← uResolve x .write (o, 16)
    match ot with
    | .phys _ pa cache enc => return (tok, a, t, [⟨o.toNat / 65536, pa - o.toNat % 65536, cache, enc⟩])
    | .node _ _ _ => throw (.aperture, o, true)
    | _ => return (tok, a, t, [])

/-- Where a group's location is stored: cluster, whether physical, offset or address, CACHE, ENC. -/
def Target.place : Target → ClusterId × Bool × Nat × Nat × Bool
  | .scratch h o => (h, false, o, 0, false)
  | .phys _ pa cache enc => (0, true, pa, cache, enc)
  | _ => (0, true, 0, 0, false)

/-- Two groups touch a common byte. -/
def MergeGroup.overlaps (a b : MergeGroup) : Bool :=
  a.c = b.c && a.phys = b.phys && decide (a.place < b.place + redSize b.fmt.toNat) && decide (b.place < a.place + redSize a.fmt.toNat)

/-- Put a token in the window (11 R371): it joins the last group that touches its bytes when that one has its location, format and operation;
else it opens a group of its own behind, so that the tokens of a shared byte are applied in arrival order. -/
def EngQueue.addToken (x : EngQueue) (t : MergeTok) (a : Word) (tg : Target) (fmt op now : Nat) (va : Option Nat) : EngQueue :=
  let (h, phys, place, cache, enc) := tg.place
  let fresh : MergeGroup := ⟨a, h, phys, place, BitVec.ofNat 2 cache, enc, BitVec.ofNat 4 fmt, BitVec.ofNat 3 op, now, [t], va⟩
  match x.groups.zipIdx.reverse.find? (fun g => g.1.overlaps fresh) with
  | some (g, i) =>
    if g.place = place && g.fmt.toNat = fmt && g.op.toNat = op then { x with groups := x.groups.set i { g with toks := g.toks ++ [t] } }
    else { x with groups := x.groups ++ [fresh] }
  | none => { x with groups := x.groups ++ [fresh] }

/-- TOKEN_ENTRY (11 R371, R374, R375): the next token of the unit enters the window, or its command ends or is suspended. -/
def Dev.tokenEntry (d : Dev) (c : ClusterId) (m : MgIx) : Dev :=
  let q := mgQueue m
  let x := d.queue c q
  if x.hold || decide (256 ≤ (x.groups.map (fun g => g.toks.length)).sum) then d
  else match x.entering with
    | none => d
    | some k =>
      match readToken (k.ctx c q) k d with
      | (.error e, d') => (d'.uncount d).unitFault c q k e
      | (.ok (t, a, tg, pages), d) =>
        let d := (d.purgeReads c (.queue q k.key)).modQ c q
          (fun x => x.addToken t a tg (bits (pkFmt k.w) 3 0) (bits (pkFmt k.w) 6 4) d.now ((k.ctx c q).countVa a))
        d.modCmd c q k.key (fun k => { k with next := k.next + 1, pages := k.pages ++ pages })

def execTokenEntry (c : ClusterId) (m : MgIx) (s : State) : Out := .next { s with dev := s.dev.tokenEntry c m }

/-- The chain of a group over its tokens (11 R371): the final value, and each token's OLD. -/
def mergeChain (fmt op : Nat) : Nat → List MergeTok → Nat × List Nat
  | v, [] => (v, [])
  | v, t :: ts =>
    let m := 2 ^ (8 * redSize fmt)
    let (r, olds) := mergeChain fmt op (redElem fmt op v (t.val.toNat % m)) ts
    (r, v :: olds)

/-- Where an output record goes: its page was translated as a token entered (11 R371). -/
def recordTarget (x : Ctx) (k : Cmd) (ga : Word) : UA Target := do
  match k.ap.decode ga.toNat with
  | some (n, _) =>
    if n = 3 || n = 4 then
      let pg := keptPage' k.pages ga.toNat
      let d ← get
      match d.partOf x.c with
      | some p => return .phys p (pg.pa + ga.toNat % 65536) pg.cache pg.enc
      | none => throw (.protection, ga, true)
    else uResolve x .write (ga, 16)
  | none => throw (.aperture, ga, true)
where
  /-- The kept page of an address. -/
  keptPage' (ps : List KeptPage) (a : Nat) : KeptPage :=
    (ps.find? (fun p => p.page = a / 65536)).getD ⟨a / 65536, 0, 0, false⟩

/-- The output record of a token (11 R369, R372). -/
def Dev.writeRecord (d : Dev) (c : ClusterId) (q : QueueIx) (t : MergeTok) (old : Nat) : Dev :=
  match d.cmd c q t.cmd with
  | none => d
  | some k =>
    if pw k.w 4 = 0 then d
    else
      let pos := if pkOrdered k.w then t.index else k.count.toNat
      let ga : Word := vgetD k.w 4 0 + BitVec.ofNat 64 (16 * pos)
      let x := k.ctx c q
      let bs := leBytes 8 t.off.toNat ++ leBytes 4 old ++ leBytes 4 t.tag.toNat
      let act : UA Unit := do
        let tg ← recordTarget x k ga
        atGa ga true (writeT x ga tg (cellsOf bs) false)
      match act d with
      | (.ok _, d) => d.modCmd c q t.cmd (fun k => { k with count := k.count + 1 })
      | (.error e, d) => d.unitFault c q k e

/-- GROUP_ISSUE (11 R371, R372): the group is performed as one read-modify-write at its home, after every earlier group of its
location, and its records are written. -/
def Dev.groupIssue (d : Dev) (c : ClusterId) (m : MgIx) (i : Nat) : Dev :=
  let q := mgQueue m
  let x := d.queue c q
  match x.groups[i]?, d.partOf c with
  | some g, some p =>
    if (x.groups.take i).any (fun o => o.overlaps g) then d
    else
      let cx : Ctx := ⟨c, .queue q ((g.toks.head?.map (·.cmd)).getD 0), Ident.reset, Apertures.reset⟩
      let tg : Target := if g.phys then .phys p g.place g.cache.toNat g.enc else .scratch g.c g.place
      let fmt := g.fmt.toNat
      let op := g.op.toNat
      match rmwT cx tg (redSize fmt) (fun old => some (mergeChain fmt op old g.toks).1) false none d with
      | (.error .wait, d) => d
      | (.error e, d) =>
        let d := d.modQ c q (fun x => { x with groups := x.groups.eraseIdx i })
        g.toks.foldl (fun d t => d.modCmd c q t.cmd (fun k => { k with finish := some (k.finish.getD e.code) })) d
      | (.ok (old, _), d) =>
        let d := (d.countVa p g.va g.place g.toks.length).modQ c q (fun x => { x with groups := x.groups.eraseIdx i })
        (g.toks.zip (mergeChain fmt op old g.toks).2).foldl (fun d r => d.writeRecord c q r.1 r.2) d
  | _, _ => d

def execGroupIssue (c : ClusterId) (m : MgIx) (g : Nat) (s : State) : Out := .next { s with dev := s.dev.groupIssue c m g }

end Sys2Proof.Machine
end

