-- ==== Sys2Proof/Machine/RowOps.lean ====
section
/-! DEFINITION. Row commands (03 R103 to R112, 11 R367, R368): translation of the operands, the path of a frame, and frames. -/

namespace Sys2Proof.Machine

/-- Bytes of a frame (03 R101). -/
def frameBytes : Nat := 98304

/-- Translate the pages of n bytes at a GLOBAL or ROW address (03 R104 steps 2 and 3). -/
def keepPages (x : Ctx) (ga : Word) (n : Nat) (kind : AccKind) : UA (List KeptPage) := do
  let a := ga.toNat
  let first := a / 65536
  let cnt := (a + n - 1) / 65536 + 1 - first
  (List.range cnt).mapM fun i => do
    let at_ := Nat.max a ((first + i) * 65536)
    let t ← atGa (BitVec.ofNat 64 at_) (kind == .write) (resolve x (BitVec.ofNat 64 at_) kind)
    match t with
    | .phys _ pa cache enc => return ⟨first + i, pa - at_ % 65536, cache, enc⟩
    | _ => throw (.aperture, BitVec.ofNat 64 at_, kind == .write)

/-- The kept page of an address. -/
def keptPage (ps : List KeptPage) (a : Nat) : KeptPage := (ps.find? (fun p => p.page = a / 65536)).getD ⟨a / 65536, 0, 0, false⟩
/-- Its physical address. -/
def keptPa (ps : List KeptPage) (a : Nat) : Nat := (keptPage ps a).pa + a % 65536

/-- An operand of n bytes is aligned (03 R104 step 4): one physically contiguous class-1 range of one stack, from a multiple of
98,304 on, named through ROW. -/
def rowAligned (ap : Apertures) (ps : List KeptPage) (a n : Nat) : Bool :=
  let pa := keptPa ps a
  (match ap.decode a with | some (4, _) => true | _ => false) &&
    paClass pa = 1 && paOff pa % 2 ^ 36 % frameBytes = 0 && pa / 2 ^ 36 = (pa + n - 1) / 2 ^ 36 &&
    (List.range ((a + n - 1) / 65536 - a / 65536)).all (fun i =>
      let b := (a / 65536 + 1 + i) * 65536
      keptPa ps b = pa + (b - a))

/-- The sources of a row command, and its destination. -/
def rowSources (k : Cmd) : List Nat :=
  match k.kind with
  | some .rowfill => []
  | some .rowcopy | some .rownot => [pw k.w 1]
  | some .rowmaj => [pw k.w 1, pw k.w 4, pw k.w 5]
  | _ => [pw k.w 1, pw k.w 4]

/-- Stack, bank and subarray of an aligned frame (03 R101). -/
def Dev.framePlace (d : Dev) (pa : Nat) : Nat × Nat × Nat :=
  let s := paOff pa / 2 ^ 36 % 16
  let f := paOff pa % 2 ^ 36 / frameBytes
  let k := (vgetD d.splitRsub s 0).toNat
  (s, f % 64, (512 * (16 - k) + f / 64) / 512)

/-- PathOf (03 R105): 0 FAST, 1 NEAR, 2 FAR; ps are the pages of all operands, operands the addresses of the frame's. -/
def Dev.rowPath (d : Dev) (kind : CmdKind) (pattern : Nat) (ps : List KeptPage) (aligned : Bool) (operands : List Nat) : Nat :=
  let places := operands.map (fun a => d.framePlace (keptPa ps a))
  let encs := ps.map (·.enc)
  match places with
  | [] => 2
  | p0 :: rest =>
    if !aligned then 2
    else if !rest.all (fun p => p.1 = p0.1) then 2
    else if vgetD d.splitRetd p0.1 false then 2
    else if encs.any id && (kind != .rowcopy || !encs.all id) then 2
    else if kind = .rowfill && pattern != 0 && pattern != 2 ^ 64 - 1 then 1
    else if rest.all (fun p => p = p0) then 0 else 1

/-- The bytes of a frame or atom of D from those of the sources (03 R103). -/
def rowOp (kind : CmdKind) (pattern : Nat) (bitsN : Nat) (src : List Nat) : Nat :=
  let a := src.getD 0 0
  let b := src.getD 1 0
  let c := src.getD 2 0
  match kind with
  | .rowfill => leNat ((fillBytes pattern 0 (bitsN / 8)).map (·.1))
  | .rowand => a &&& b
  | .rowor => a ||| b
  | .rowxor => a ^^^ b
  | .rownot => 2 ^ bitsN - 1 - a
  | .rowmaj => (a &&& b) ||| (a &&& c) ||| (b &&& c)
  | _ => a

/-- An atom copied with its check bits, poison and encryption: FAST carries a latent error along, NEAR corrects it (03 R110). -/
def Dev.copyAtom (d : Dev) (p : PartId) (fast : Bool) (src dst : Nat) : Dev :=
  if fast then
    let ks := d.physKey p src
    let kd := d.physKey p dst
    let a : Atom := ⟨atomData (memReadN d.mem ks 64), smem d.poison (ks / 64), tget d.enc (ks / 64)⟩
    let es := (codeWords (ks / 64)).map (tget d.dramErr)
    let d := (d.bind_ p src).putMemAtom p dst a
    { d with dramErr := ((codeWords (kd / 64)).zip es).foldl (fun t e => tput t e.1 e.2) d.dramErr }
  else
    let (a, d) := d.memAtom p src false
    d.putMemAtom p dst a

/-- Read the atoms of frames at DRAM: values by atom, and whether any is poisoned. -/
def Dev.frameAtoms (d : Dev) (p : PartId) : Nat → List Nat → List (List Nat) × Bool × Dev
  | 0, _ => ([], false, d)
  | n + 1, bases =>
    let (prev, po, d) := d.frameAtoms p n bases
    let (vals, po', d) := bases.foldl (fun (acc : List Nat × Bool × Dev) b =>
      let (a, d) := acc.2.2.memAtom p (b + 64 * n) false
      (acc.1 ++ [(d.view p (b + 64 * n) false a).toNat], acc.2.1 || a.poison, d)) ([], false, d)
    (prev ++ [vals], po || po', d)

/-- A frame on FAST or NEAR (03 R107, R108, R110): physical addresses of sources and destination. -/
def Dev.frameInDram (d : Dev) (p : PartId) (kind : CmdKind) (pattern : Nat) (clean fast : Bool) (srcs : List Nat) (dst : Nat) : Dev :=
  let lines := List.range 768
  let d := if clean then
      let d := srcs.foldl (fun d b => lines.foldl (fun d i => d.cleanLine p (b + 128 * i)) d) d
      lines.foldl (fun d i => d.invLine p (dst + 128 * i)) d
    else d
  let d := match kind, srcs with
    | .rowcopy, [s] => if s = dst then d else (List.range 1536).foldl (fun d i => d.copyAtom p fast (s + 64 * i) (dst + 64 * i)) d
    | _, _ =>
      let (vals, po, d) := d.frameAtoms p 1536 srcs
      vals.zipIdx.foldl (fun d v =>
        d.putMemAtom p (dst + 64 * v.2) ⟨BitVec.ofNat 512 (rowOp kind pattern 512 v.1), po, none⟩) d
  (List.range 1536).foldl (fun d i => d.written none (d.physKey p (dst + 64 * i) / 64)) d

/-- Read n bytes through the home slices by kept pages. -/
def farRead (x : Ctx) (p : PartId) (ps : List KeptPage) (n a : Nat) : UA (List (Byte × Bool)) := do
  let parts ← (granules 1540 (BitVec.ofNat 64 a) n).mapM fun g => do
    let pg := keptPage ps g.1.toNat
    let pa := pg.pa + g.1.toNat % 65536
    let (bs, po) ← atGa g.1 false (readT x g.1 (.phys p pa pg.cache pg.enc) g.2)
    return bs.map (fun b => (b, po))
  return parts.flatten

/-- Where the bytes of a frame on FAR begin in an operand: behind the atom of D that the frame before has written whole (03 R109). -/
def farCut (dst total t : Nat) : Nat := if t = 0 then 0 else if total ≤ t then total else t + (64 - (dst + t) % 64) % 64

/-- n bytes of a frame on FAR, from byte lo of the operands on (03 R109, R110): its writes reach their homes before a later frame begins (R106), and before the command is complete
(R112). -/
def frameFar (x : Ctx) (p : PartId) (kind : CmdKind) (pattern : Nat) (ps : List KeptPage) (srcs : List Nat) (dst lo n : Nat) : UA Unit := do
  let srcs := srcs.map (· + lo)
  let dst := dst + lo
  let vals ← srcs.mapM (farRead x p ps n)
  let out : List (Byte × Bool) :=
    match kind, vals with
    | .rowcopy, [v] => v
    | .rowfill, _ => fillBytes pattern lo n
    | _, vs =>
      let po := vs.any (fun v => v.any (·.2))
      (List.range n).map (fun i =>
        (BitVec.ofNat 8 (rowOp kind pattern 8 (vs.map (fun v => ((v.getD i (0, false)).1).toNat))), po))
  for g in granules 1540 (BitVec.ofNat 64 dst) n do
    let pg := keptPage ps g.1.toNat
    let pa := pg.pa + g.1.toNat % 65536
    let part := (out.drop (g.1.toNat - dst)).take g.2
    atGa g.1 true (writeT x g.1 (.phys p pa pg.cache pg.enc) (cellsOf (part.map (·.1))) (part.any (·.2)))
  modify (fun d => d.drain x.c)

/-- A row hold longer than 256 ns, that of a FAST ROWXOR frame (03 R111), does not begin while a bank of the frame has 7 refreshes postponed
(R99, R100). -/
def Dev.holdRefused (d : Dev) (kind : CmdKind) (path pa : Nat) : Bool :=
  let (s, bank, _) := d.framePlace pa
  kind = .rowxor && path = 0 && (List.range 96).any (fun pc => decide (7 ≤ (tget d.refresh ((96 * s + pc) * 64 + bank)).getD 0))

/-- The attempt at the next frame of a row command: its path, or the failure. -/
def rowFrame (c : ClusterId) (q : QueueIx) (k : Cmd) (kind : CmdKind) : UA Nat := do
  let d ← get
  let x := k.ctx c q
  let n := pkCount k.w * frameBytes
  let dst := pw k.w 2
  match d.partOf c with
  | none => throw (.protection, BitVec.ofNat 64 dst, true)
  | some p =>
    let ps ← if k.pages.isEmpty then do
        let src ← (rowSources k).mapM (fun a => keepPages x (BitVec.ofNat 64 a) n .read)
        let ds ← keepPages x (BitVec.ofNat 64 dst) n .write
        pure (src.flatten ++ ds)
      else pure k.pages
    modify (fun d => d.modCmd c q k.key (fun k => { k with pages := ps }))
    let aligned := (rowSources k ++ [dst]).all (fun a => rowAligned k.ap ps a n)
    if !aligned && !pkFallback k.w then
      throw (.refused, 0, false)
    let off := frameBytes * k.next
    let srcs := (rowSources k).map (· + off)
    let d ← get
    let path := d.rowPath kind (pw k.w 1) ps aligned (srcs ++ [dst + off])
    if d.holdRefused kind path (keptPa ps (dst + off)) then throw (.wait, 0, false)
    if path = 2 then
      let lo := farCut dst n off
      frameFar x p kind (pw k.w 1) ps (rowSources k) dst lo (farCut dst n (off + frameBytes) - lo)
    else
      modify (fun d => d.frameInDram p kind (pw k.w 1) (pkClean k.w) (path == 0) (srcs.map (keptPa ps)) (keptPa ps (dst + off)))
    return path

/-- A frame is done: NEXT, PATH, the counts, and PEND under CK = 1 (03 R112, 11 R367). -/
def Dev.frameDone (d : Dev) (c : ClusterId) (q : QueueIx) (k : Cmd) (path : Nat) : Dev :=
  let d := d.modCmd c q k.key (fun k => { k with
    next := k.next + 1, path := Nat.max k.path path, nfast := k.nfast + b2n (path == 0), nnear := k.nnear + b2n (path == 1) })
  if pkCk k.w = 1 && decide (pkScope k.w < 4) then
    let d := if 2 ≤ pkScope k.w then d.drain c else d
    match barrierTarget (k.ctx c q) (vgetD k.w 3 0) d with
    | (.ok key, d) => (d.barPend c key frameBytes).modCmd c q k.key (fun k => { k with pend := k.pend + BitVec.ofNat 40 frameBytes })
    | (.error _, d) => d
  else d

/-- The next frame of a started row command (11 R368): a misaligned operand without FALLBACK ends it with BULK_ALIGN. -/
def Dev.rowStep (d : Dev) (c : ClusterId) (q : QueueIx) (k : Cmd) (kind : CmdKind) : Dev :=
  if k.state != .active || k.finish.isSome || (d.queue c q).hold || decide (pkCount k.w ≤ k.next) then d
  else match rowFrame c q k kind d with
    | (.ok path, d) => d.frameDone c q k path
    | (.error (.refused, _, _), d) => d.modCmd c q k.key (fun k => { k with finish := some 5 })
    | (.error e, d') => (d'.uncount d).unitFault c q k e

end Sys2Proof.Machine
end

