-- ==== Sys2Proof/Machine/StepOps.lean ====
section
/-! DEFINITION. The step sequencer (12): STEPSET, SIGCMP, SHDUPD and STEPRD, and the rows SECTOR and FRAME that do the work of
started commands. -/

namespace Sys2Proof.Machine

/-- Spaces and alignment of the addresses IN, OUT, SHD, SIG, MAP, STL (12 R383). -/
def stepAddrRule (i : Nat) : List Nat × Nat :=
  if i < 3 then ([3, 4, 1, 2], 64) else if i = 3 then ([3, 1, 2], 64) else ([3, 1, 2], 8)

/-- The check of one address of an entry (12 R383). -/
def Dev.stepAddrCheck (d : Dev) (c : ClusterId) (k : Cmd) (w : Vector Word 8) (i : Nat) : Option Nat :=
  let (ids, al) := stepAddrRule i
  firstErr [d.inSpaces c k (pw w i) ids, alignErr (pw w i) al]

/-- K of an entry: 0 says that it holds no parameters (12 R382). -/
def StepEntry.k (e : StepEntry) : Nat := bits (pw e.words 6) 51 48
/-- Bytes of an input tile, and of an output tile (12 R381). -/
def StepEntry.inTile (e : StepEntry) : Nat := 1024 * fmtBytes (bits (pw e.words 6) 47 45)
def StepEntry.outTile (e : StepEntry) : Nat := 1024 * fmtBytes (bits (pw e.words 6) 44 42)

/-- The checks at the start of a command of queue 6 (11 R350; 12 R382, R383, R386). -/
def Dev.stepCheck (d : Dev) (c : ClusterId) (k : Cmd) : Option Nat :=
  let e := d.stepEntry c k
  if !d.doneAddrOk c k then some 10
  else match k.kind with
    | some .stepset => firstErr [d.inSpaces c k (pw k.w 1) [1, 2, 3, 4, 5], alignErr (pw k.w 1) 64]
    | some .sigcmp =>
      if e.k = 0 then some 1
      else firstErr [d.stepAddrCheck c k e.words 0, d.stepAddrCheck c k e.words 3, d.stepAddrCheck c k e.words 4,
        d.stepAddrCheck c k e.words 5,
        if pw k.w 2 = 0 then none else firstErr [d.inSpaces c k (pw k.w 2) [1, 2, 3, 4, 5], alignErr (pw k.w 2) 8]]
    | some .shdupd =>
      if e.k = 0 then some 1
      else firstErr [d.stepAddrCheck c k e.words 1, d.stepAddrCheck c k e.words 2, d.stepAddrCheck c k e.words 4]
    | some .steprd =>
      if e.k = 0 then some 1
      else firstErr [d.inSpaces c k (pw k.w 2) [1, 2, 3, 4, 5], alignErr (pw k.w 2) 64]
    | _ => none

/-- The start of a command of the step sequencer. -/
def State.startStep (s : State) (c : ClusterId) (kind : CmdKind) : Out :=
  .next { s with dev := s.dev.startCmd c 6 kind (fun d k => d.stepCheck c k) }
def execStepset (c : ClusterId) (s : State) : Out := s.startStep c .stepset
def execSigcmp (c : ClusterId) (s : State) : Out := s.startStep c .sigcmp
def execSteprd (c : ClusterId) (s : State) : Out := s.startStep c .steprd

/-- Set an entry of the step table. -/
def Dev.setStepEntry (d : Dev) (c : ClusterId) (i : Nat) (e : StepEntry) : Dev :=
  d.modCl c (fun cl => { cl with step := { cl.step with entries := vsetD cl.step.entries i e } })

/-- STEPSET (12 R386). -/
def stepsetBody (c : ClusterId) (k : Cmd) : UA Unit := do
  let x := k.ctx c 6
  let ga : Word := vgetD k.w 1 0
  let (bs, po) ← readBytes x ga 48
  if po then throw (.poison, ga, false)
  let words : Vector Word 8 := Vector.ofFn fun i =>
    if i.val < 6 then leWord ((bs.drop (8 * i.val)).take 8) else if i.val = 6 then vgetD k.w 2 0 else 0
  let d ← get
  match firstErr ((List.range 6).map (d.stepAddrCheck c k words)) with
  | some 2 => throw (.aperture, ga, false)
  | some 3 => throw (.misaligned, ga, false)
  | some _ => throw (.protection, ga, false)
  | none => do
    let e : StepEntry := ⟨true, words, 0, 0⟩
    if bit (pw k.w 2) 41 then
      writeBytes x (vgetD words 3 0) (List.replicate (64 * e.tiles) 0) false
      writeBytes x (vgetD words 5 0) (List.replicate e.tiles 0) false
      writeBytes x (vgetD words 4 0) (List.replicate ((e.tiles + 7) / 8) 0) false
    modify (fun d => d.setStepEntry c (pkCount k.w) e)

/-- The 64 bytes of an entry (12 R387). -/
def StepEntry.image (e : StepEntry) (num : Nat) : List Byte :=
  ((List.range 6).flatMap (fun i => leBytes 8 (pw e.words i))) ++
    leBytes 8 (pw e.words 6 + num * 2 ^ 32 + e.reval % 2 * 2 ^ 37) ++ leBytes 8 e.step

/-- STEPRD (12 R387). -/
def steprdBody (d : Dev) (c : ClusterId) (k : Cmd) : UA Unit :=
  writeBytes (k.ctx c 6) (vgetD k.w 2 0) ((d.stepEntry c k).image 0) false

/-- The work of STEPSET and STEPRD, one unit. -/
def Dev.stepUnit (d : Dev) (c : ClusterId) (k : Cmd) : Dev :=
  if k.state != .active || k.finish.isSome || (d.queue c 6).hold || 1 ≤ k.next then d
  else match (if k.kind = some .stepset then stepsetBody c k else steprdBody d c k) d with
    | (.ok _, d) => (d.purgeReads c (.queue 6 k.key)).modCmd c 6 k.key (fun k => { k with next := 1 })
    | (.error e, d') => (d'.uncount d).unitFault c 6 k e

/-- SECTOR: one sector of a started command (11 R357). -/
def execSector (c : ClusterId) (q : QueueIx) (key : Word) (j : Fin 5) (s : State) : Out :=
  match s.dev.cmd c q key with
  | none => .next s
  | some k =>
    match k.kind with
    | some .stepset | some .steprd => if j.val = 0 then .next { s with dev := s.dev.stepUnit c k } else .next s
    | some .update | some .uflush | some .sigcmp | some .shdupd | some .stamp | none => .next s
    | some kd => if kd.isRow then .next s else .next { s with dev := s.dev.ceStep c q k j }

/-- FP32 arithmetic of the step sequencer: RNE, no flags (12 R391). -/
def sAdd (a : Nat) (b : FV) : Nat := (fvAdd .f32 ⟨0, false, false, 0⟩ (Fmt.f32.decode a) b).1

/-- Pairwise tree over 2^n values (06 R208). -/
def treeSum : Nat → List Nat → Nat
  | 0, l => l.headD 0
  | n + 1, l =>
    treeSum n ((List.range (l.length / 2)).map (fun i => sAdd (l.getD (2 * i) 0) (Fmt.f32.decode (l.getD (2 * i + 1) 0))))

/-- The sign of component j for element e (12 R390): true for minus. -/
def sigNeg (j e : Nat) : Bool := bit ((e + 1) * 0x9E3779B1 % 2 ^ 32) (24 + j)

/-- Absolute value. -/
def FV.abs : FV → FV
  | .nan => .nan
  | .inf _ => .inf false
  | .num _ m e => .num false m e

/-- The signature of a tile (12 R391): s_0 to s_7 and m as FP32 patterns. -/
def signature (f : Fmt) (es : List Nat) : List Nat :=
  let xs := es.map f.decode
  let rows := (List.range 32).map (fun r => (xs.drop (32 * r)).take 32)
  let comp := fun (g : Nat → FV → FV) =>
    treeSum 5 (rows.zipIdx.map (fun r => (r.1.zipIdx.foldl (fun acc x => sAdd acc (g (32 * r.2 + x.2) x.1)) 0)))
  (List.range 8).map (fun j => comp (fun e x => if sigNeg j e then x.neg else x)) ++ [comp (fun _ x => x.abs)]

/-- Is a pattern finite? -/
def f32Finite (x : Nat) : Bool := bits x 30 23 != 255

/-- The decision on one tile (12 R392): new record, staleness byte, skipped, and what the count word counts (NINVAL, NSTALE). -/
structure TileOut where
  record : Option (List Byte)
  stale : Nat
  skip : Bool
  inval : Bool
  old : Bool

def tileDecide (e : StepEntry) (els : List (Byte × Bool)) (prev : List Byte) (prevPo : Bool) (st0 : Nat) (stPo : Bool) : TileOut :=
  let ifm := bits (pw e.words 6) 47 45
  let b := fmtBytes ifm
  let po := els.any (·.2)
  let pat := (List.range 1024).map (fun i => leNat (((els.drop (b * i)).take b).map (·.1)))
  let sg := signature (inFmt ifm) pat
  let fin := sg.all f32Finite && !po
  let fld := fun i => leNat ((prev.drop (4 * i)).take 4)
  let valid := bit (fld 9) 0 && e.reval = 0 && !prevPo
  let st := if stPo then e.k else st0
  let diffs := (List.range 8).map (fun j => sAdd (sg.getD j 0) (Fmt.f32.decode (fld j)).neg)
  let t := (fvMul .f32 ⟨0, false, false, 0⟩ (Fmt.f32.decode (bits (pw e.words 6) 31 0)) (Fmt.f32.decode (fld 8))).1
  let le := diffs.all (fun x => f32Finite x && (match fvCmp (Fmt.f32.decode x).abs (Fmt.f32.decode t) with
    | some .gt => false | none => false | _ => true))
  if valid && fin && decide (st < e.k) && le then ⟨none, st + 1, true, false, false⟩
  else
    let rec' := sg.flatMap (leBytes 4) ++ leBytes 4 (b2n fin + 2 * b2n po) ++ leBytes 8 e.step ++ List.replicate 16 0
    ⟨some rec', 0, false, !valid || !fin, valid && fin && decide (e.k ≤ st)⟩

/-- A group of eight tiles of SIGCMP (12 R392 to R394): everything is read and translated before anything is written. -/
def sigcmpGroup (d : Dev) (c : ClusterId) (k : Cmd) : UA Word := do
  let x := k.ctx c 6
  let e := d.stepEntry c k
  let t0 := k.next
  let n := Nat.min 8 (e.tiles - t0)
  let last := decide (e.tiles ≤ t0 + n)
  let at_ := fun (i off : Nat) => vgetD e.words i 0 + BitVec.ofNat 64 off
  let ins ← readMarked x [(at_ 0 (t0 * e.inTile), n * e.inTile)]
  let recs ← readMarked x [(at_ 3 (64 * t0), 64 * n)]
  let sts ← readMarked x [(at_ 5 t0, n)]
  let outs := (List.range n).map (fun i =>
    let r := (recs.drop (64 * i)).take 64
    let st := sts.getD i (0, false)
    tileDecide e ((ins.drop (e.inTile * i)).take e.inTile) (r.map (·.1)) (r.any (·.2)) (st.1.toNat) st.2)
  let cnt := k.count.toNat + ((outs.filter (fun o => o.inval)).length) * 2 ^ 48 +
    ((outs.filter (fun o => o.old)).length) * 2 ^ 32 + (outs.filter (fun o => !o.skip)).length
  let w2 : Word := vgetD k.w 2 0
  let writes : List (Word × List Byte) :=
    (outs.zipIdx.filterMap (fun o => o.1.record.map (fun r => (at_ 3 (64 * (t0 + o.2)), r)))) ++
    (outs.zipIdx.map (fun o => (at_ 5 (t0 + o.2), [BitVec.ofNat 8 o.1.stale]))) ++
    [(at_ 4 (t0 / 8), [BitVec.ofNat 8 ((outs.zipIdx.map (fun o => b2n o.1.skip * 2 ^ o.2)).sum)])] ++
    (if last && w2 != 0 then [(w2, leBytes 8 cnt)] else [])
  for w in writes do
    for g in granules (w.2.length / 64 + 2) w.1 w.2.length do
      let _ ← uResolve x .write g
  for w in writes do
    writeBytes x w.1 w.2 false
  return BitVec.ofNat 64 cnt

/-- SIGCMP_GROUP: the next group of a started SIGCMP; after the last, REVAL and STEP (12 R392). -/
def Dev.sigcmpStep (d : Dev) (c : ClusterId) (k : Cmd) : Dev :=
  let e := d.stepEntry c k
  if k.kind != some .sigcmp || k.state != .active || k.finish.isSome || (d.queue c 6).hold || decide (e.tiles ≤ k.next) then d
  else match sigcmpGroup d c k d with
    | (.error f, d') => (d'.uncount d).unitFault c 6 k f
    | (.ok cnt, d) =>
      let nx := Nat.min e.tiles (k.next + 8)
      let d := (d.purgeReads c (.queue 6 k.key)).modCmd c 6 k.key (fun k => { k with next := nx, count := cnt })
      if e.tiles ≤ nx then d.setStepEntry c (pkCount k.w) { e with reval := 0, step := (e.step + 1) % 2 ^ 64 } else d

def execSigcmpGroup (c : ClusterId) (key : Word) (s : State) : Out :=
  match s.dev.cmd c 6 key with
  | some k => .next { s with dev := s.dev.sigcmpStep c k }
  | none => .next s

/-- The map bit of a tile: skipped. -/
def mapSkips (m : List Byte) (t : Nat) : Bool := bit (m.getD (t / 8) 0).toNat (t % 8)

/-- The computed tiles of frame f (12 R397). -/
def shdTiles (e : StepEntry) (m : List Byte) (f : Nat) : List Nat :=
  let per := frameBytes / e.outTile
  ((List.range per).map (fun i => f * per + i)).filter (fun t => decide (t < e.tiles) && !mapSkips m t)

/-- The pages of a tensor's range that translate: none for one in a scratchpad. -/
def keepTensor (x : Ctx) (ga : Word) (n : Nat) (kind : AccKind) : UA (List KeptPage) := do
  match x.ap.decode ga.toNat with
  | some (3, _) | some (4, _) => keepPages x ga n kind
  | _ => pure []
/-- The target of a granule: through a page kept when its frame began, else resolved now. -/
def keptTarget (x : Ctx) (ps : List KeptPage) (kind : AccKind) (g : Word × Nat) : UA Target := do
  let d ← get
  match ps.find? (fun p => p.page = g.1.toNat / 65536), d.partOf x.c with
  | some pg, some p => return .phys p (pg.pa + g.1.toNat % 65536) pg.cache pg.enc
  | _, _ => uResolve x kind g

/-- The copy of a computed tile, n bytes (12 R397). -/
def copyTile (c : ClusterId) (k : Cmd) (ps : List KeptPage) (src dst : Word) (n : Nat) : UA Unit := do
  let x := k.ctx c 6
  let gs := granules (n / 64 + 2) src n
  let from_ ← gs.mapM (keptTarget x ps .read)
  let to_ ← ((granules (n / 64 + 2) dst n).zipIdx).mapM (fun g => do
    let t ← keptTarget x ps .write g.1
    return (⟨g.1.1, g.1.2, t, g.2 != 0⟩ : Piece))
  let parts ← (gs.zip from_).mapM (fun gt => do
    let (bs, po) ← atGa gt.1.1 false (readT x gt.1.1 gt.2 gt.1.2)
    return bs.map (fun b => (b, po)))
  let _ ← performPieces x (.cmd c 6 k.key) (layPieces to_ parts.flatten)

/-- The next piece of frame f of SHDUPD (12 R397): ROWCOPY of a whole frame, else the copy of its next computed tile, which is one sector (11 R357);
the pages of all its tiles are translated before the first is copied, so that a frame once begun runs to its end (R358). The path (3 where
nothing was copied), the bytes copied, and whether the frame is done. -/
def shdFrame (c : ClusterId) (k : Cmd) (e : StepEntry) (m : List Byte) (f : Nat) : UA (Nat × Nat × Bool) := do
  let x := k.ctx c 6
  let src := pw e.words 1 + frameBytes * f
  let dst := pw e.words 2 + frameBytes * f
  let tiles := shdTiles e m f
  let isRow := fun (a : Nat) => match k.ap.decode a with | some (4, _) => true | _ => false
  if pw e.words 1 = pw e.words 2 || tiles.isEmpty then return (3, 0, true)
  let full := decide (frameBytes * (f + 1) ≤ e.tiles * e.outTile) && tiles.length = frameBytes / e.outTile && isRow src && isRow dst
  let ps ← if full then do
      let a ← keepPages x (BitVec.ofNat 64 src) frameBytes .read
      let b ← keepPages x (BitVec.ofNat 64 dst) frameBytes .write
      pure (a ++ b)
    else pure []
  let d ← get
  match d.partOf c with
  | none => throw (.protection, BitVec.ofNat 64 dst, true)
  | some p =>
    if full && k.tilesDone = 0 && rowAligned k.ap ps src frameBytes && rowAligned k.ap ps dst frameBytes then
      let path := d.rowPath .rowcopy 0 ps true [src, dst]
      if path = 2 then frameFar x p .rowcopy 0 ps [src] dst 0 frameBytes
      else modify (fun d => d.frameInDram p .rowcopy 0 (pkClean k.w) (path == 0) [keptPa ps src] (keptPa ps dst))
      return (path, frameBytes, true)
    else
      match tiles[k.tilesDone]? with
      | none => return (3, 0, true)
      | some t => do
        let at_ := fun (i t : Nat) => BitVec.ofNat 64 (pw e.words i + e.outTile * t)
        let ps ← if k.tilesDone = 0 then do
            let l ← tiles.mapM (fun t => do
              let a ← keepTensor x (at_ 1 t) e.outTile .read
              let b ← keepTensor x (at_ 2 t) e.outTile .write
              pure (a ++ b))
            pure l.flatten
          else pure k.pages
        copyTile c k ps (at_ 1 t) (at_ 2 t) e.outTile
        modify (fun d => d.modCmd c 6 k.key (fun k => { k with pages := ps }))
        return (2, e.outTile, decide (tiles.length ≤ k.tilesDone + 1))

/-- The bytes that SHDUPD will copy, for PEND (12 R397). -/
def shdTotal (e : StepEntry) (m : List Byte) : Nat :=
  if pw e.words 1 = pw e.words 2 then 0
  else ((List.range e.tiles).filter (fun t => !mapSkips m t)).length * e.outTile

/-- SHDUPD reads its map, once, when it starts (12 R397); a restored one, whose record does not hold the map (14 R448), reads it again (log 101). -/
def shdMap (c : ClusterId) (k : Cmd) (e : StepEntry) : UA Unit := do
  let mapGa : Word := vgetD e.words 4 0
  let (bs, po) ← readBytes (k.ctx c 6) mapGa ((e.tiles + 7) / 8)
  if po then throw (.poison, mapGa, false)
  modify (fun d => d.modCmd c 6 k.key (fun k => { k with map := some bs, count := BitVec.ofNat 64 (shdTotal e bs) }))

/-- The next step of a started SHDUPD: its map where it has none yet, else the next piece of a frame. -/
def Dev.shdStep (d : Dev) (c : ClusterId) (k : Cmd) : Dev :=
  let e := d.stepEntry c k
  if k.state != .active || k.finish.isSome || ((d.queue c 6).hold && k.tilesDone = 0) || decide (e.frames ≤ k.next) then d
  else match k.map with
    | none => match shdMap c k e d with
      | (.error f, d') => (d'.uncount d).unitFault c 6 k f
      | (.ok _, d) => d.purgeReads c (.queue 6 k.key)
    | some m => match shdFrame c k e m k.next d with
      | (.error f, d') => (d'.uncount d).unitFault c 6 k f
      | (.ok (path, n, done), d) =>
        let d := (d.purgeReads c (.queue 6 k.key)).modCmd c 6 k.key (fun k => { k with
          next := if done then k.next + 1 else k.next, tilesDone := if done then 0 else k.tilesDone + 1,
          pages := if done then [] else k.pages,
          path := if path = 3 then k.path else Nat.max k.path path,
          nfast := k.nfast + b2n (path == 0), nnear := k.nnear + b2n (path == 1) })
        d.pendSector c 6 k n

/-- SHDUPD starts, and reads its map (12 R397). -/
def Dev.startShdupd (d : Dev) (c : ClusterId) : Dev :=
  let old := (d.queue c 6).oldest
  let d := d.startCmd c 6 .shdupd (fun d k => d.stepCheck c k)
  match old.bind (fun k => d.cmd c 6 k.key) with
  | some k => if k.kind = some .shdupd && k.map.isNone then d.shdStep c k else d
  | none => d
def execShdupd (c : ClusterId) (s : State) : Out := .next { s with dev := s.dev.startShdupd c }

/-- FRAME: the next frame of a started row command or SHDUPD. -/
def execFrame (c : ClusterId) (q : QueueIx) (key : Word) (s : State) : Out :=
  match s.dev.cmd c q key with
  | none => .next s
  | some k =>
    match k.kind with
    | some .shdupd => .next { s with dev := s.dev.shdStep c k }
    | some kd => if kd.isRow then .next { s with dev := s.dev.rowStep c q k kd } else .next s
    | none => .next s

end Sys2Proof.Machine
end

