-- ==== Sys2Proof/Machine/EngImage.lean ====
section
/-! DEFINITION. Resumable records (14 R448), queue images and ENGXFER (14 R450 to R452). -/

namespace Sys2Proof.Machine

/-- PTROOT as a register holds it (01 R25). -/
def Ident.rootWord (i : Ident) : Nat := i.root.toNat * 4096 + b2n i.en

/-- The AFTER bits of the n-th of the commands saved (04 R155): they name the commands that they name in the queue, by the places of a restore, which
follow the image's order. A bit that reaches before the first stays. -/
def imageAfter (ks : List Cmd) (n : Nat) (k : Cmd) : Nat :=
  ((List.range 4).map (fun m =>
    2 ^ m * b2n (if n ≤ m then bit (pkAfter k.w) m
      else match ks[n - 1 - m]? with
        | some o => decide (o.place < k.place) && decide (k.place ≤ o.place + 4) && bit (pkAfter k.w) (k.place - o.place - 1)
        | none => false))).sum

/-- Commands as their records name them (04 R155; log 99): where another command has completed between two of them, the AFTER bits of W0 follow their
order in the image; else W0 is as it was. -/
def imageCmds (ks : List Cmd) : List Cmd :=
  ks.zipIdx.map (fun e =>
    let w0 := pw e.1.w 0
    { e.1 with w := vsetD e.1.w 0 (BitVec.ofNat 64 (w0 - pkAfter e.1.w * 2 ^ 52 + imageAfter ks e.2 e.1 * 2 ^ 52)) })

/-- The resumable record of a command (14 R448): 128 bytes, 384 with DIGEST, whose progress fields are zero for a QUEUED command. -/
def Cmd.record (k : Cmd) : List Byte :=
  let started := k.state != .queued
  let words : List Nat :=
    (List.range 8).map (fun i => pw k.w i) ++
    [k.seq.toNat,
     k.next % 2 ^ 40 + k.done.toNat * 2 ^ 40 + b2n k.faulted * 2 ^ 44 + b2n started * 2 ^ 45 + k.path % 4 * 2 ^ 46,
     k.pend.toNat, k.nfast % 2 ^ 17 + k.nnear % 2 ^ 17 * 2 ^ 32, k.count.toNat,
     k.id.asid.toNat + b2n k.id.sup * 65536 + k.sender.c.val * 2 ^ 32 + k.sender.k.val * 2 ^ 40, k.id.rootWord, 0]
  let body := words.flatMap (leBytes 8)
  match k.digest with
  | none => body
  | some g =>
    if !started then body ++ List.replicate 256 0
    else body ++ (g.h.toList.flatMap (fun w => leBytes 8 w.toNat)) ++ leBytes 8 g.bytes.toNat ++ leBytes 8 0 ++
      g.rest ++ List.replicate (176 - g.rest.length) 0

/-- The command of a record (14 R448), placed on a cluster at place n: its addresses are decoded there (R449). -/
def Cmd.ofRecord (b : List Byte) (ap : Apertures) (place floor : Nat) (started : CmdState) : Cmd :=
  let wd := fun i => leNat ((b.drop (8 * i)).take 8)
  let w : Vector Word 8 := Vector.ofFn fun i => BitVec.ofNat 64 (wd i.val)
  let id : Ident := ⟨bit (wd 13) 16, BitVec.ofNat 16 (wd 13), BitVec.ofNat 40 (wd 14 / 4096), bit (wd 14) 0⟩
  let sender : Sender := ⟨(clusterNo (bits (wd 13) 38 32)).getD 0, ⟨bits (wd 13) 41 40 % 4, Nat.mod_lt _ (by decide)⟩, none⟩
  { Cmd.fresh w (BitVec.ofNat 64 (wd 8)) false id sender place none with
    state := if bit (wd 9) 45 then started else .queued
    next := bits (wd 9) 39 0
    done := BitVec.ofNat 4 (bits (wd 9) 43 40)
    faulted := bit (wd 9) 44
    path := bits (wd 9) 47 46
    pend := BitVec.ofNat 40 (wd 10)
    nfast := bits (wd 11) 16 0
    nnear := bits (wd 11) 48 32
    count := BitVec.ofNat 64 (wd 12)
    digest := if pkDigest w then if !bit (wd 9) 45 then some Digest.init else
        some ⟨Vector.ofFn (fun i => BitVec.ofNat 64 (wd (16 + i.val))), BitVec.ofNat 64 (wd 24),
          (b.drop 208).take (wd 24 % 128)⟩
      else none
    ap := ap
    floor := floor }

/-- The size of the record that begins with a packet word (14 R448). -/
def recordSize (w0 : Nat) : Nat := if bit w0 44 then 384 else 128

/-- Cut records out of bytes; none where they do not fit. -/
def cutRecords : Nat → List Byte → Option (List (List Byte))
  | 0, b => if b.isEmpty then some [] else none
  | n + 1, b =>
    let sz := recordSize (leNat (b.take 8))
    if b.length < sz then none
    else (cutRecords n (b.drop sz)).map (fun t => b.take sz :: t)

/-- Translate every page of a range, reading nothing. -/
def probePages (x : Ctx) (ga : Word) (n : Nat) (kind : AccKind) : UA Unit := do
  let a := ga.toNat
  if n = 0 then return ()
  for i in List.range ((a + n - 1) / 65536 + 1 - a / 65536) do
    let at_ := Nat.max a ((a / 65536 + i) * 65536)
    let _ ← atGa (BitVec.ofNat 64 at_) (kind == .write) (resolve x (BitVec.ofNat 64 at_) kind)

/-- The translations of a record's NEXT unit (14 R452). -/
def probeUnit (d : Dev) (c : ClusterId) (q : QueueIx) (k : Cmd) : UA Unit := do
  let x := k.ctx c q
  match k.kind with
  | some .signal | some .stamp | some .uflush | some .bankcfg | some .stepset | some .steprd | none => return ()
  | some .update => do
    let _ ← readToken x k
  | some .sigcmp => do
    let e := d.stepEntry c k
    let n := Nat.min 8 (e.tiles - k.next)
    let at_ := fun (i off : Nat) => vgetD e.words i 0 + BitVec.ofNat 64 off
    probePages x (at_ 0 (k.next * e.inTile)) (n * e.inTile) .read
    probePages x (at_ 3 (64 * k.next)) (64 * n) .write
    probePages x (at_ 5 k.next) n .write
    probePages x (at_ 4 (k.next / 8)) 1 .write
  | some .shdupd => do
    let e := d.stepEntry c k
    let n := Nat.min frameBytes (e.tiles * e.outTile - frameBytes * k.next)
    probePages x (vgetD e.words 1 0 + BitVec.ofNat 64 (frameBytes * k.next)) n .read
    probePages x (vgetD e.words 2 0 + BitVec.ofNat 64 (frameBytes * k.next)) n .write
  | some kd =>
    if kd.isRow then do
      for a in rowSources k do
        probePages x (BitVec.ofNat 64 a) (pkCount k.w * frameBytes) .read
      probePages x (vgetD k.w 2 0) (pkCount k.w * frameBytes) .write
    else do
      let lo := 4096 * k.next
      let hi := Nat.min (lo + 4096) (transferBytes kd k.w)
      if kd = .prefetch || kd = .llsclean || kd = .llsinv || kd = .llsflush then
        let hi := Nat.min (lo + 4096) (pkCount k.w)
        probePages x (vgetD k.w 1 0 + BitVec.ofNat 64 lo) (hi - lo) .read
      else
        for r in ← srcRuns x k k.next lo hi do
          probePages x r.1 r.2 .read
        for r in ← dstRuns x k k.next lo hi do
          probePages x r.1 r.2 .write

/-- The probe of a FAULTED record (14 R452): passed unless a translation fails, which is recorded. -/
def Dev.probe (d : Dev) (c : ClusterId) (q : QueueIx) (k : Cmd) : Bool × Dev :=
  match probeUnit d c q k d with
  | (.error (.walk code lv, ga, wr), d) =>
    match k.ap.decode ga.toNat, d.partOf c with
    | some (n, off), some p => (false, d.recordFault p c k.id.asid off (n == 4) wr code lv (if q.val = 6 then 43 else 41))
    | _, _ => (false, d)
  | (_, d) => (true, d)

/-- Probe every FAULTED record of a list. -/
def Dev.probeAll (d : Dev) (c : ClusterId) (q : QueueIx) : List Cmd → Bool × Dev
  | [] => (true, d)
  | k :: t =>
    let (ok, d) := if k.faulted then d.probe c q k else (true, d)
    let (ok', d) := d.probeAll c q t
    (ok && ok', d)

/-- The image of a queue (14 R451): started commands first. -/
def queueImage (q : QueueIx) (x : EngQueue) : List Byte :=
  let ks := x.cmds.filter (fun k => k.state != .queued) ++ x.cmds.filter (fun k => k.state = .queued)
  let body := (imageCmds ks).flatMap Cmd.record
  leBytes 4 0x4C4E5145 ++ leBytes 2 1 ++ leBytes 1 q.val ++ leBytes 1 ks.length ++ leBytes 8 (64 + body.length) ++
    leBytes 4 (crc32 body) ++ List.replicate 44 0 ++ body

/-- An image lies in class 0 of the partition (14 R450). -/
def Dev.class0 (d : Dev) (p : PartId) (a n : Nat) : Bool := paClass a = 0 && decide (paOff a + n ≤ d.cap0 p)

/-- Commands placed in a queue anew, in the image's order (04 R155). -/
def EngQueue.placeAll (x : EngQueue) (ks : List Cmd) : List Cmd :=
  ks.zipIdx.map (fun p => { p.1 with place := x.placed + p.2 })

/-- Parse a queue image: its commands as they will be placed, or none (14 R451). -/
def Dev.parseQueue (d : Dev) (c : ClusterId) (q : QueueIx) (img : List Byte) : Option (List Cmd) :=
  let f := fun o n => leNat ((img.drop o).take n)
  let body := img.drop 64
  if f 0 4 != 0x4C4E5145 || f 4 2 != 1 || f 6 1 != q.val || 16 < f 7 1 || f 8 8 != img.length ||
      f 16 4 != crc32 body || (img.drop 20).take 44 != List.replicate 44 0 then none
  else
    let x := d.queue c q
    (cutRecords (f 7 1) body).map (fun rs =>
      let ks := rs.map (fun r =>
        let k := Cmd.ofRecord r (d.cl c).ap 0 x.placed .suspended
        { k with refused := k.state = CmdState.queued && !packetOk q k.w })
      x.placeAll ks)

/-- The operation of ENGXFER (14 R450): the device after it, and ERR. A restore reads what the writer of the register released at CLUSTER scope
too, which may still be in the cluster's outbound buffer (04 R137). -/
def Dev.engxfer (d : Dev) (c : ClusterId) (q : QueueIx) : Nat × Dev :=
  let x := d.queue c q
  let base := x.xfer.base.toNat * 64
  if x.xfer.op = 0 || x.xfer.op = 3 then (1, d)
  else if !x.held then (2, d)
  else match d.partOf c with
    | none => (6, d)
    | some p =>
      if !d.class0 p base 64 then (6, d)
      else if x.xfer.op = 1 then
        let img := queueImage q x
        if !d.class0 p base img.length then (6, d)
        else (0, (d.physWriteN p (img.length / 64 + 2) base img).modQ c q (fun x => { x with cmds := [] }))
      else if !x.cmds.isEmpty then (3, d)
      else
        let d := d.drain c
        let ((hd, _), d) := d.physReadN p 2 base 64
        let len := leNat ((hd.drop 8).take 8)
        if len < 64 || 64 + 16 * 384 < len || !d.class0 p base len then (4, d)
        else
          let ((img, _), d) := d.physReadN p (len / 64 + 2) base len
          match d.parseQueue c q img with
          | none => (4, d)
          | some ks =>
            match d.probeAll c q ks with
            | (false, d) => (5, d)
            | (true, d) =>
              (0, d.modQ c q (fun x => { x with
                cmds := ks.map (fun k => { k with faulted := false }), placed := (ks.getLast?.map (fun k => k.place + 1)).getD x.placed }))

/-- A write of ENGXFERq (14 R450); one made while BUSY is ignored (log 16). -/
def Dev.writeEngxfer (d : Dev) (c : ClusterId) (q : QueueIx) (v : Word) : Dev :=
  d.modQ c q fun x =>
    if x.xfer.busy then x
    else { x with xfer := ⟨bit v.toNat 63, BitVec.ofNat 2 (bits v.toNat 61 60), x.xfer.err, BitVec.ofNat 46 (bits v.toNat 51 6)⟩ }

/-- ENGXFER_SAVE: a write of ENGXFER with GO and OP 1. -/
def execEngxferSave (c : ClusterId) (q : QueueIx) (v : Word) (s : State) : Out :=
  if bit v.toNat 63 && bits v.toNat 61 60 = 1 then .next { s with dev := s.dev.writeEngxfer c q v } else .next s
/-- ENGXFER_RESTORE: a write of ENGXFER with GO and OP 2. -/
def execEngxferRestore (c : ClusterId) (q : QueueIx) (v : Word) (s : State) : Out :=
  if bit v.toNat 63 && bits v.toNat 61 60 = 2 then .next { s with dev := s.dev.writeEngxfer c q v } else .next s

/-- ENGXFER_DONE: the operation under way is performed and ends (14 R450). -/
def Dev.engxferDone (d : Dev) (c : ClusterId) (q : QueueIx) : Dev :=
  if !(d.queue c q).xfer.busy then d
  else
    let (e, d) := d.engxfer c q
    d.modQ c q (fun x => { x with xfer := { x.xfer with busy := false, err := BitVec.ofNat 3 e } })
def execEngxferDone (c : ClusterId) (q : QueueIx) (s : State) : Out := .next { s with dev := s.dev.engxferDone c q }

end Sys2Proof.Machine
end

