-- ==== Sys2Proof/Machine/Region.lean ====
section
/-! DEFINITION. Regions (05): one executed slot, the stall wire (R175), the weir (R168 to R172), versioned planes (R185), stops
(R188, R189, R192), voids and shadow images (14 R428 to R434). -/

namespace Sys2Proof.Machine

/-- A STARTING kernel begins at its first wrap (05 R170). -/
def Kernel.begin_ (k : Kernel) : Kernel :=
  { k with st := .running, sp := 1, periods := 0, iters := 1, trips := if k.noTrip then k.trips else k.trips - 1 }
/-- The accesses that a KRUN's strand made before it, wherever the kernel runs, are performed at the kernel's commit scope (09 R312). -/
def Dev.mayBegin (d : Dev) (k : Kernel) : Bool :=
  let cl := d.cl k.c
  k.st = .starting && decide (k.earliest ≤ d.now) &&
    !cl.signals.any (fun s => s.k = k.k && s.after.any (fun t => decide (t < k.fence))) &&
    !((match k.cfg with | some x => decide (4 ≤ x.scope) | none => false) &&
      cl.reqs.any (fun q => q.kind = .store && q.who = .strand k.k && q.reply.isNone && decide (q.tag < k.fence)))

/-! Faults, voids and stops -/

/-- Every cause, by code. -/
def causeOf (n : Nat) : Cause :=
  ([.illegal, .misaligned, .pageFault, .protection, .aperture, .presenceDoublePut, .deferTimeout, .poison, .bulkAlign,
    .queueSpillFull, .staleToken, .bankMoved, .fpTrap, .watchdog, .engineFault, .syscall, .break_, .preempt,
    .configInvalid] : List Cause).getD (n - 1) .protection

/-- A kernel that has started and not retired, also where its region is stopped or faulted. -/
def Kernel.active (k : Kernel) : Bool := k.cfg.isSome && k.recorded != .loaded && k.recorded != .retired
/-- The kernels on the wheel: neither LOADED nor RETIRED. -/
def Region.resident (r : Region) : List (Fin 4) := (List.finRange 4).filter (fun k => (vget r.kernels k).active)
/-- Kernels in STARTING, RUNNING or EXITING (09 R313). -/
def Region.busy (r : Region) : Bool :=
  r.kernels.toList.any (fun k => k.st = .starting || k.st = .running || k.st = .exiting)

/-- Record a fault in REGFLT (14 R432) and, for classes 1 and 2, report it (R433). -/
def Dev.regFault (d : Dev) (c : ClusterId) (r : RegionIx) (src unit slot round cls : Nat) (cause : Cause) (value : Word) : Dev :=
  let x := d.region c r
  let low := x.resident.headD 0
  let k := if src = 4 then low else (x.owner slot).getD low
  let kn := vget x.kernels k
  let value := if cause = .poison then 0 else value
  let d := d.modRegion c r (fun x => { x with flt := {
    round := BitVec.ofNat 32 round
    pend := cls != 0
    valid := true
    kern := BitVec.ofNat 2 k.val
    slot := BitVec.ofNat 5 slot
    unit := BitVec.ofNat 6 unit
    src := BitVec.ofNat 3 src
    cls := BitVec.ofNat 2 cls
    cause := cause.code
    value := value } })
  if cls = 0 then d
  else
    let (rc, rk) := d.reportStrand c kn.c kn.k
    d.report ⟨.region c r, rc, rk, cause, 0xFE, BitVec.ofNat 64 (c.val * 16 + r.val * 4 + k.val)⟩

/-- The generators of a region. -/
def Dev.agensOf (d : Dev) (c : ClusterId) (r : RegionIx) : List AgIx :=
  (List.finRange 8).filter (fun g => (d.agen c g).region = some r)
/-- The matrix nodes of a region. -/
def Dev.nodesOf (d : Dev) (c : ClusterId) (r : RegionIx) : List NodeIx :=
  (List.finRange 12).filter (fun n => (d.node c n).region = some r)

/-- Outstanding presence elements and reads of a region's generators are cancelled; served ones were collected (04 R144). -/
def Dev.cancelGens (d : Dev) (c : ClusterId) (r : RegionIx) : Dev :=
  let d := d.collectAll c r
  let mine := fun (q : Req) => match q.who with
    | .gen g _ _ => (d.agen c g).region = some r
    | _ => false
  (((d.cl c).reqs.filter mine).map (·.tag)).foldl (fun d t => d.cancelReq c t) d

/-- A cell with the registers that .live declares for the kernels of another state of it taken from that state: what an image holds of it
(05 R190, 14 R430). A rotating name stands for the register that it names there. -/
def Cell.withLive (x s : Cell) (ks : Vector Kernel 4) : Cell :=
  let on := (List.finRange 4).filter (fun k => (vget ks k).cfg.isSome && vget s.live k != Live.none)
  let has := fun (f : Live → Bool) => on.any (fun k => f (vget s.live k))
  let links := BitVec.ofNat 4 (joinEls 1 ((List.range 4).map (fun o => b2n (has (fun l => l.links.getLsbD o)))))
  { x with
    v := Vector.ofFn (fun i => if has (fun l => l.v.getLsbD i.val) then vget s.v i else vget x.v i)
    w := Vector.ofFn (fun i => if on.any (fun k =>
        let l := vget s.live k
        l.w != 0 && (List.range 40).any (fun j => l.w.getLsbD j && physW (vget ks k) l j = i.val)) then vget s.w i else vget x.w i)
    p := Vector.ofFn (fun i => if i.val != 0 && has (fun l => l.p.getLsbD (i.val - 1)) then vget s.p i else vget x.p i)
    out := Vector.ofFn (fun o => if links.getLsbD o.val then vget s.out o else vget x.out o)
    driven := (x.driven &&& ~~~links) ||| (s.driven &&& links)
    prev := if has (·.prev) then s.prev else x.prev
    lfsr := Vector.ofFn (fun k => if has (fun _ => true) && (vget ks k).cfg.isSome && (vget s.live k).lfsr then vget s.lfsr k else vget x.lfsr k) }
/-- A cell whose undeclared registers an image leaves out: its configuration, and what .live declares (14 R430). -/
def Cell.imaged (s : Cell) (ks : Vector Kernel 4) : Cell :=
  { Cell.reset with act := s.act, stb := s.stb, live := s.live, rimTap := s.rimTap, cmdPort := s.cmdPort, cmds := s.cmds }.withLive s ks
/-- A cell as a restore leaves its links (05 R191): one that .live does not declare reads as zero, and one that it declares holds a value, zero under
the planes' version where nothing has driven it (14 R441). -/
def Cell.linksLive (x : Cell) (ks : Vector Kernel 4) (ver : Nat) : Cell :=
  let on := (List.finRange 4).filter (fun k => (vget ks k).cfg.isSome)
  let declared := fun (o : Nat) => on.any (fun k => (vget x.live k).links.getLsbD o)
  { x with
    out := Vector.ofFn (fun o => if !declared o.val then VecVal.zero
      else if x.driven.getLsbD o.val then vget x.out o else { VecVal.zero with ver := BitVec.ofNat 2 ver })
    driven := BitVec.ofNat 4 (joinEls 1 ((List.range 4).map (fun o => b2n (declared o)))) }
/-- A cell after a void: what the shadow image holds is written back (14 R429); every other register, such as a rounding register that .live does not
declare (06 R203, 14 R431), goes on. -/
def Cell.unvoid (x s : Cell) (ks : Vector Kernel 4) : Cell :=
  { x.withLive s ks with cmds := x.cmds.filter (·.ready) ++ s.cmds.filter (fun v => !v.ready) }
/-- A kernel after a void: one that KRUN has started since, or that has retired since, stays as it is. -/
def Kernel.unvoid (k s : Kernel) : Kernel := if k.recorded = .starting || k.recorded = .retired then k else { s with cfg := k.cfg }

/-- The round of a region is void (14 R429): cells, kernels, rim, ports, generators and node records return to the round's start. -/
def Dev.voidRound (d : Dev) (c : ClusterId) (r : RegionIx) : Dev :=
  let d := d.cancelGens c r
  let x := d.region c r
  let d := (d.agensOf c r).foldl (fun d g => d.modAgen c g (fun a => { a with
    blocks := a.blocks.map (Option.map AgBlock.rewind), suspended := false })) d
  match x.shadow with
  | none => d
  | some s =>
    d.modCl c (fun cl =>
      let fab := cl.fab
      { cl with fab := { fab with
        cells := Vector.ofFn (fun i => if cellRegion cl.layout.toNat i.val = r.val then (vget fab.cells i).unvoid (vget s.cells i) s.kernels
          else vget fab.cells i)
        ports := Vector.ofFn (fun p =>
          let q := vget fab.ports p
          match q.cfg with
          | some k => if k.region = r then q.void (vget s.ports p) else q
          | none => q)
        nodes := fab.nodes.map (fun m => if m.region = some r then m.void else m)
        regions := vset fab.regions r { x with
          fcause := 0
          slot := 0
          period := s.period
          round := s.round
          weir := s.weir
          fp := s.fp
          left := if s.ver = x.ver then s.left else x.w
          kernels := Vector.ofFn (fun k => (vget x.kernels k).unvoid (vget s.kernels k))
          flights := s.flights.map (fun f => { f with due := f.due + x.cyc })
          rim := s.rim
          fill := s.fill
          flags := 0 } } })

/-- The shadow image of a region as it stands (14 R430). -/
def Dev.capture (d : Dev) (c : ClusterId) (r : RegionIx) : Dev :=
  let fab := (d.cl c).fab
  let x := vget fab.regions r
  d.modRegion c r (fun y => { y with shadow := some {
    weir := x.weir
    period := x.period
    round := x.round
    fp := x.fp
    kernels := x.kernels
    cells := Vector.ofFn (fun i => if cellRegion (d.cl c).layout.toNat i.val = r.val then (vget fab.cells i).imaged x.kernels else Cell.reset)
    rim := x.rim
    ports := fab.ports
    agens := fab.agens
    fill := x.fill
    flights := x.flights.map (fun f => { f with due := f.due - x.cyc })
    ver := x.ver
    left := x.left } })

/-- Every operation in flight writes its result (05 R189 step 2): rim injections keep their places in time. -/
def Dev.settleFlights (d : Dev) (c : ClusterId) (r : RegionIx) : Dev :=
  let x := d.region c r
  let cl := (d.cl c).modReg r (fun x => { x with flights := [] })
  d.setCl c (x.flights.foldl (fun cl f =>
    cl.land r { f with rim := f.rim.map (fun l => (l.1, l.2 + 1 + f.due - x.cyc)) }) cl)

/-- The step-table entries tied to a region (12 R398). -/
def StepEntry.tiedTo (e : StepEntry) (r : RegionIx) : Bool := e.valid && bit (pw e.words 6) 40 && bits (pw e.words 6) 39 38 = r.val
/-- The context in which the maps of tied entries are read and written. -/
def Dev.tieCtx (d : Dev) (c : ClusterId) (r : RegionIx) : Ctx :=
  let x := d.region c r
  ⟨c, .drain r, (vget x.kernels (x.resident.headD 0)).id, (d.cl c).ap⟩
/-- Commands of the step sequencer that name an entry tied to a region have work in flight: the stop holds them first (12 R398). -/
def Dev.tiedBusy (d : Dev) (c : ClusterId) (r : RegionIx) : Bool :=
  let es := (d.cl c).step.entries.toList.zipIdx.filter (fun e => e.1.tiedTo r)
  (d.queue c 6).cmds.any (fun k => es.any (fun e => e.2 = pkCount k.w % 16) && !k.refused &&
    (d.chunksWait c 6 k.key || d.unacked c 6 k.key))
/-- A region takes its step-sequencer part (12 R398): each read that fails leaves its own bytes zero. Every command of queue 6 that names a tied entry
goes with it; one that has ended and not yet published does its last unit and its publication again. -/
def Dev.tieSteps (d : Dev) (c : ClusterId) (r : RegionIx) : Dev :=
  let es := (d.cl c).step.entries.toList.zipIdx.filter (fun e => e.1.tiedTo r)
  let x := d.tieCtx c r
  let (recs, d) := es.foldl (fun (acc : List TiedRec × Dev) e =>
    let n := e.1.tiles
    let read := fun (d : Dev) (i len : Nat) => match readBytes x (vgetD e.1.words i 0) len d with
      | (.ok v, d) => (v.1, false, d)
      | (.error _, d) => (List.replicate len 0, true, d)
    let (m, mf, d) := read acc.2 4 ((n + 7) / 8)
    let (t, tf, d) := read d 5 n
    (acc.1 ++ [⟨e.2, m, t, mf || tf, e.1⟩], d)) ([], d)
  let mine := fun (k : Cmd) => es.any (fun e => e.2 = pkCount k.w % 16)
  let ks := (d.queue c 6).cmds.filter mine
  (d.modQ c 6 (fun q => { q with cmds := q.cmds.filter (fun k => !mine k) })).modRegion c r
    (fun y => { y with tied := recs, tiedCmds := ks })

/-- The region becomes STOPPED with the state it has as its weir image (05 R189, R192): one that stands before its wrap is the image of a
weir, any other its shadow image (14 R437, ORIGIN). -/
def Dev.stopped_ (d : Dev) (c : ClusterId) (r : RegionIx) : Dev :=
  let d := (d.settleFlights c r).cancelGens c r
  let d := (d.agensOf c r).foldl (fun d g => d.modAgen c g (fun a => { a with
    blocks := a.blocks.map (Option.map (fun b => { b with ahead := [], issue := b.pos })) })) d
  let d := d.modCl c (fun cl => { cl with fab := { cl.fab with nodes := cl.fab.nodes.map (fun m =>
    if m.region = some r then m.modHead (fun h => { h with began := none }) else m) } })
  let x := d.region c r
  let d := if x.preempted then
      d.modCl c (fun cl => { cl with fab := { cl.fab with ports := cl.fab.ports.map (fun p =>
        match p.cfg with
        | some k => if k.region = r then p.preempt x.round x.ver.toNat x.drain.isSome else p
        | none => p) } })
    else d
  let d := d.tieSteps c r
  d.modRegion c r (fun x => { x with
    st := .stopped
    fcause := 0
    stop := false
    preempted := false
    graphPre := x.graphPre && !x.preempted
    origin := x.weir = .none
    kernels := x.kernels.map (fun k =>
      if k.cfg.isNone then k else { k with was := k.recorded, st := .stopped }) })

/-- A commit-stop that is still to come is reported by the stop that comes before it: one stop satisfies both (14 R428, R434). -/
def Dev.reportCommit (d : Dev) (c : ClusterId) (r : RegionIx) : Dev :=
  match (d.region c r).commit with
  | some f => (d.regFault c r f.src f.unit f.slot f.round 2 f.cause f.value).modRegion c r (fun x => { x with commit := none })
  | none => d
/-- The round is void and the region stops with the shadow image (05 R189, 14 R434). -/
def Dev.voidStop (d : Dev) (c : ClusterId) (r : RegionIx) : Dev := (d.voidRound c r).stopped_ c r

/-- A fault voids the round (14 R428, R429, R434). A commit-stop that was to come is reported by the stop that a class-0 fault comes to; beside a
class-1 fault, whose report REGFLT then holds, it stays due at the weir after the region's resumption. -/
def Dev.faultRegion (d : Dev) (c : ClusterId) (r : RegionIx) (f : RFault) : Dev :=
  let x := d.region c r
  let d := d.regFault c r f.src f.unit x.slot x.round (if f.recorded then 0 else 1) f.cause f.value
  if !f.recorded then d.voidStop c r
  else if x.st = .stopping then (d.reportCommit c r).voidStop c r
  else
    (d.voidRound c r).modRegion c r (fun x => { x with
      st := .faulted
      kernels := x.kernels.map (fun k => if k.cfg.isNone then k else { k with was := k.recorded, st := .faulted }) })

/-- The gang ids that a region's nodes name (10 R341). -/
def Dev.gangIds (d : Dev) (c : ClusterId) (r : RegionIx) : List Nat :=
  (d.nodesOf c r).flatMap (fun n =>
    let m := d.node c n
    (m.act.toList ++ m.queue.map (·.entry)).filterMap (fun e => if mxMop e = 10 then some (mxAbuf e) else none))

/-- Request a stop of one region (05 R188, R189; 14 R434). -/
def Dev.stopOne (d : Dev) (c : ClusterId) (r : RegionIx) (pre : Bool) : Dev :=
  let x := d.region c r
  match x.st with
  | .frozen => ((d.modRegion c r (fun x => { x with preempted := pre })).reportCommit c r).voidStop c r
  | .faulted => ((d.modRegion c r (fun x => { x with preempted := pre })).reportCommit c r).stopped_ c r
  | .running => if x.busy then d.modRegion c r (fun x => { x with stop := true, st := .stopping, preempted := pre }) else d
  | _ => d

/-- The regions of a cluster and its pair that stop together, from a list of them (10 R341). -/
def Dev.stopSet (d : Dev) (c : ClusterId) : Nat → List (ClusterId × RegionIx) → List (ClusterId × RegionIx)
  | 0, l => l
  | n + 1, l =>
    let ids := l.flatMap (fun x => d.gangIds x.1 x.2)
    let cs := if d.partOf (pairCluster c) = d.partOf c then [c, pairCluster c] else [c]
    let more := (cs.flatMap (fun k => (List.finRange 4).map (fun g => (k, g)))).filter (fun x =>
      !l.contains x && (d.gangIds x.1 x.2).any ids.contains)
    if more.isEmpty then l else d.stopSet c n (l ++ more)

/-- Request a stop (05 R188). -/
def Dev.requestStop (d : Dev) (c : ClusterId) (r : RegionIx) (pre : Bool) : Dev :=
  if !(d.region c r).busy && (d.region c r).st != .faulted then d
  else (d.stopSet c 8 [(c, r)]).foldl (fun d x => d.stopOne x.1 x.2 (pre && x = (c, r))) d

end Sys2Proof.Machine
end

