-- ==== Sys2Proof/Machine/RegionStep.lean ====
section
/-! DEFINITION. One cycle of a region: the stall wire (05 R175, R176), the executed slot (05 R168), the weir (05 R168 to R172, R185), and
REGION_CYCLE, REGION_RESUME and REGION_STOP. -/

namespace Sys2Proof.Machine

/-- The blocks that fire in the current slot (02 R73). -/
def Dev.firing (d : Dev) (c : ClusterId) (r : RegionIx) : List (AgIx × Fin 4 × AgBlock) :=
  let x := d.region c r
  (d.agensOf c r).flatMap fun g => (List.finRange 4).filterMap fun n =>
    match vget (d.agen c g).blocks n with
    | none => none
    | some b =>
      let up := match x.kernelOf b with
        | some k =>
          let kn := vget x.kernels k
          (kn.st = .running || kn.st = .exiting) && kn.sp.getLsbD b.stg
        | none => false
      if b.slot = x.slot && up && !(d.cl c).isIndexSource r.val g.val n.val then some (g, n, b) else none

/-- What the slot that comes would do. -/
structure SlotPlan where
  stalls : List Nat
  faults : List RFault
  turns : List CellTurn
  loads : List (AgIx × Fin 4 × AgBlock × AgVec)
  stores : List (AgIx × Fin 4 × AgBlock × VecPlan)
  nodes : List (NodeIx × NodeTake)
  /-- Translation faults that a storer's index reads have met now: recorded, so that the region voids its round in this cycle, whatever
  else its slot waits for (01 R38). -/
  walked : List RFault := []

/-- A loader at its delivery slot (02 R80, 05 R175). -/
def SlotPlan.loader (p : SlotPlan) (g : AgIx) (n : Fin 4) (b : AgBlock) : SlotPlan :=
  match b.ahead with
  | [] => { p with stalls := p.stalls ++ [3] }
  | v :: _ =>
    match v.fault with
    | some (code, ga) => { p with faults := p.faults ++ [(⟨1, g.val, causeOf code, v.walk, ga⟩ : RFault)] }
    | none => if v.pend.isEmpty then { p with loads := p.loads ++ [(g, n, b, v)] } else { p with stalls := p.stalls ++ [6] }

/-- A storer in its slot: the addresses of its vector (02 R75 to R77). -/
def SlotPlan.storer (p : SlotPlan) (d : Dev) (c : ClusterId) (r : RegionIx) (g : AgIx) (n : Fin 4) (b : AgBlock) : SlotPlan × Dev :=
  let x := agCtx c (d.region c r) g n b b.pos.ord
  match b.plan x (d.region c r) (d.indexBlock c b) b.pos d with
  | (.ok v, d) => ({ p with stores := p.stores ++ [(g, n, b, v)] }, d.purgeReads c x.who)
  | (.error (.wait, _, _), d) => ({ p with stalls := p.stalls ++ [3] }, d)
  | (.error (.remote, _, _), d) => ({ p with stalls := p.stalls ++ [3] }, d)
  | (.error (.walk code lv, ga, wr), d) =>
    let f : RFault := ⟨1, g.val, (XFault.walk code lv).cause, true, ga⟩
    ({ p with faults := p.faults ++ [f], walked := p.walked ++ [f] }, d.recordRegion c x.id x.ap ga wr code lv)
  | (.error (e, ga, _), d) => ({ p with faults := p.faults ++ [(⟨1, g.val, e.cause, false, ga⟩ : RFault)] }, d)

/-- A value that the region's stall wire holds on a lane at a node's station (10 R335): the region is frozen for another reason, since the
static check of 02 R57 keeps values that move apart (log 110). -/
def Region.standsAt (x : Region) (n : NodeIx) (lane : Nat) : Bool :=
  x.rim.any (fun v => v.ofs = 0 && v.lane = lane && v.station = mxStation n.val && !v.arrived)
/-- The plan of the slot that comes: what each unit needs, and the faults it would meet. -/
def Dev.planSlot (d : Dev) (c : ClusterId) (r : RegionIx) : SlotPlan × Dev :=
  let d := d.collectAll c r
  let cl := d.cl c
  let x := d.region c r
  let turns := (cl.cellsOf r.val).filterMap (cl.turnOf r.val)
  let p : SlotPlan := ⟨turns.flatMap (cl.turnStall r.val), turns.filterMap CellTurn.fault, turns, [], [], [], []⟩
  let (p, d) := (d.firing c r).foldl (fun (acc : SlotPlan × Dev) f =>
    if f.2.2.store then acc.1.storer acc.2 c r f.1 f.2.1 f.2.2 else (acc.1.loader f.1 f.2.1 f.2.2, acc.2)) (p, d)
  let p := (d.nodesOf c r).foldl (fun (p : SlotPlan) n =>
    let m := d.node c n
    let due := m.dueIn x x.slot
    if due.isEmpty then p
    else if !p.stalls.isEmpty && due.any (fun e => mxOutput e.2 && x.standsAt n (mxBbuf e.2 % 8)) then { p with stalls := p.stalls ++ [5] }
    else match MNode.take (x.fp.toNat % 8) (x.ver.toNat % 4) d.now (r, (x.owner x.slot).getD 0) due m with
      | some t => { p with nodes := p.nodes ++ [(n, t)] }
      | none => { p with stalls := p.stalls ++ [5] }) p
  (p, d)

/-- The first fault of a cycle: the lowest SRC, then the lowest UNIT (14 R434). -/
def firstFault (l : List RFault) : Option RFault :=
  l.foldl (fun best f => match best with
    | none => some f
    | some b => if f.src * 64 + f.unit < b.src * 64 + b.unit then some f else best) none

/-- The storers of the slot take what is at their stations (02 R73, R82): the filling half after them, or a fault. -/
def Dev.takeStores (d : Dev) (c : ClusterId) (r : RegionIx) (rim : List RimVal) (l : List (AgIx × Fin 4 × AgBlock × VecPlan)) :
    List Granule × List RFault :=
  let x := d.region c r
  l.foldl (fun (acc : List Granule × List RFault) s =>
    let (g, n, b, p) := s
    let v := (rim.find? (fun v => v.here && v.station = agStation g.val && v.lane = b.lane)).map (fun v => (v.val, v.mask))
    match d.storeVector c x (agCtx c x g n b b.pos.ord) ((x.kernelOf b).getD 0) b p v acc.1 with
    | .ok fill => (fill, acc.2)
    | .error (e, ga) => (acc.1, acc.2 ++ [(⟨1, g.val, e, false, ga⟩ : RFault)])) (x.fill, [])

/-- The index source of a fired block moves with it (02 R76): both positions are the block's own here. -/
def Dev.firedBlock (d : Dev) (c : ClusterId) (g : AgIx) (n : Fin 4) (pos : AgPos) (loader : Bool) : Dev :=
  d.modAgen c g (fun a => a.modBlock n (fun b => { b with pos := pos, ahead := if loader then b.ahead.drop 1 else b.ahead }))

/-- Execute a planned slot (05 R168). -/
def Dev.execSlot (d : Dev) (c : ClusterId) (r : RegionIx) (p : SlotPlan) (fill : List Granule) : Dev :=
  let before := d.cl c
  let x := d.region c r
  -- the rim moves; loaders put their vectors on it
  let cl := before.modReg r (fun x => { x with rim := moveRim x.rim, fill := fill })
  let cl := cl.addRim r (p.loads.map (fun l =>
    cl.rimVal r.val { l.2.2.2.val with ver := BitVec.ofNat 2 x.ver.toNat } (agStation l.1.val) l.2.2.1.lane 0 l.2.2.2.mask))
  -- values at their destinations leave the rim
  let tk := cl.takers r.val x.w
  let cl := cl.modReg r (fun x => { x with rim := x.rim.filterMap (fun v =>
    if !v.here then some v
    else if tk.any (fun t => t.2 && t.1.station = v.station && t.1.lane = v.lane && t.1.cyc = x.slot) then
      some { v with arrived := true }
    else none) })
  -- cells issue their words; node vectors are put on in the cycles after
  let cl := p.turns.foldl (fun cl t => Cluster.execTurn t before r cl) cl
  let cl := p.nodes.foldl (fun (cl : Cluster) n =>
    let cl := cl.addRim r (n.2.2.1.map (fun v => cl.rimVal r.val v.2.2 (mxStation n.1.val) v.1 v.2.1))
    let cl := cl.modReg r (fun x => { x with nflags := x.nflags ||| n.2.2.2 })
    { cl with fab := { cl.fab with nodes := vset cl.fab.nodes n.1 n.2.1 } }) cl
  -- results due in this cycle are written at its end
  let cl := cl.landDue r
  let last := decide (x.w ≤ x.slot + 1)
  let cl := cl.modReg r (fun x => { x with
    slot := if last then 0 else x.slot + 1
    weir := if last then .whole else .none
    cyc := x.cyc + 1
    left := x.left - 1 })
  let d := d.setCl c cl
  let d := p.loads.foldl (fun d l => d.firedBlock c l.1 l.2.1 l.2.2.2.after true) d
  p.stores.foldl (fun d s => d.firedBlock c s.1 s.2.1 s.2.2.2.after false) d

/-! The weir -/

/-- A kernel at a wrap (05 R170, R171): its stage predicates shift (02 R51), and it starts an iteration, exits or retires. -/
def Kernel.wrap (k : Kernel) (need : Nat) : Kernel :=
  match k.cfg with
  | none => k
  | some cfg =>
    if k.st = .running || k.st = .exiting || k.st = .retiring then
      let starts := k.st = .running && !k.exit_ && (k.noTrip || k.trips != 0)
      let sp := (k.sp <<< 1) ||| (if starts then 1 else 0)
      let k := { k with
        sp := sp
        periods := k.periods + 1
        iters := if starts then k.iters + 1 else k.iters
        trips := if starts && !k.noTrip then k.trips - 1 else k.trips }
      if k.st = .retiring then k
      else if cfg.stages sp = 0 then { k with st := .retiring, need := need }
      else { k with st := if starts then .running else .exiting }
    else k
/-- The kernel would be retired after this wrap. -/
def Kernel.endsAtWrap (k : Kernel) : Bool := (k.st = .running || k.st = .exiting) && (k.wrap 0).st = .retiring


/-- The weir ends its round (05 R171, R172). -/
def Region.endsRound (r : Region) : Bool :=
  decide (r.roundLen ≤ r.period + 1) ||
  (r.kernels.toList.all (fun k => (k.st != .running && k.st != .exiting && k.st != .starting) || k.endsAtWrap) &&
    r.kernels.toList.any Kernel.endsAtWrap)

/-- The drain scope of a round (04 R146). -/
def Region.scope (r : Region) : Nat :=
  r.kernels.toList.foldl (fun m k => match k.cfg with
    | some c => if k.st = .running || k.st = .exiting || k.st = .retiring then Nat.max m c.scope else m
    | none => m) 1

/-- What keeps a weir that ends a round from passing (05 R175, R182). -/
def Dev.weirStalls (d : Dev) (c : ClusterId) (r : RegionIx) : List Nat :=
  let x := d.region c r
  (if (d.cl c).fab.ports.toList.any (fun p => (match p.cfg with | some k => k.region = r | none => false) && !p.punctReady) then [1] else []) ++
  (if x.drain.isSome then [4] else [])

/-- The round is sealed (02 R83; 05 R172, R181, R182; 06 R206, R207). -/
def Dev.sealRound (d : Dev) (c : ClusterId) (r : RegionIx) : Dev :=
  let x := d.region c r
  let fl := x.flags ||| x.nflags
  let en := BitVec.ofNat 5 ((d.cl c).fpTrapEn.toNat / 2 ^ (8 * r.val)) &&& fl
  let mine := fun (i : Nat) => cellRegion (d.cl c).layout.toNat i = r.val
  let d := d.modCl c (fun cl =>
    let fab := cl.fab
    { cl with
      fpFlags := cl.fpFlags ||| BitVec.ofNat 64 (fl.toNat * 2 ^ (8 * r.val))
      fab := { fab with
        cells := Vector.ofFn (fun i =>
          let y := vget fab.cells i
          if mine i.val then { y with cmds := y.cmds.map (fun v => { v with ready := true }) } else y)
        ports := fab.ports.map (fun p => match p.cfg with
          | some k => if k.region = r then p.sealRound x.round x.ver.toNat else p
          | none => p)
        agens := fab.agens.map (fun a => if a.region = some r then a.commit else a)
        nodes := fab.nodes.map (fun m => if m.region = some r then m.sealRound else m) } })
  d.modRegion c r (fun x => { x with
    drain := some ⟨x.fill, x.round, x.scope, x.ap⟩
    fill := []
    sealedN := x.sealedN + 1
    round := x.round + 1
    period := 0
    flags := 0
    nflags := 0
    commit := if x.commit.isNone && en != 0 then some ⟨.fpTrap, 4, 0, x.round, 0, en.setWidth 64⟩ else x.commit })

/-- STREAM records join ports (05 R177, 07 R243): image cluster i stands for cluster base + i. -/
def Dev.joinStreams (d : Dev) (base : Nat) (rs : List Rec) : Dev :=
  (rs.filter (fun q => q.ty = 12)).foldl (fun d q =>
    let w := q.word 0
    let pt := fun (n : Nat) => (⟨n % 16, Nat.mod_lt _ (by decide)⟩ : PortIx)
    match clusterNo (base + bits w 7 0), clusterNo (base + bits w 23 16) with
    | some a, some b =>
      let p := pt (bits w 11 8)
      let q := pt (bits w 27 24)
      (d.modPort a p (fun x => { x with peer := some (b, q) })).modPort b q (fun x => { x with peer := some (a, p) })
    | _, _ => d) d

/-- A value of the rim that a matrix node puts on its lane in a cycle still to come: by 02 R57 no other unit of the region injects there
then. -/
def Dev.nodePuts (d : Dev) (c : ClusterId) (r : RegionIx) (v : RimVal) : Bool :=
  let w := (d.region c r).w
  decide (0 < v.ofs) && (d.nodesOf c r).any (fun n => mxStation n.val = v.station && (d.node c n).act.toList.any (fun e =>
    e != 0 && mxOutput e && mxBbuf e % 8 = v.lane &&
      ((mxSlot e + 1) % w = (v.ofs - 1) % w || (mxMop e = 7 && (mxSlot e + 2) % w = (v.ofs - 1) % w))))

/-- The standby planes become active, with the records that waited for the switch (05 R185, 09 R311, 10 R324). -/
def Dev.switch (d : Dev) (c : ClusterId) (r : RegionIx) : Dev :=
  let x := d.region c r
  match x.token with
  | none => d
  | some (ver, id) =>
    if x.recs.any (fun q => q.ty = 10) && x.period != 0 then d
    else
      -- a node's vector carries the VER of the cycle in which it is put on the rim (05 R186)
      let rim := x.rim.map (fun v => if d.nodePuts c r v then { v with val := { v.val with ver := BitVec.ofNat 2 ver.toNat } } else v)
      let d := d.modRegion c r (fun y => { y with rim := rim })
      let d := d.modCl c (fun cl => { cl with fab := { cl.fab with cells := Vector.ofFn (fun i =>
        let y := vget cl.fab.cells i
        if cellRegion cl.layout.toNat i.val = r.val then { y with act := y.stb, stb := y.act } else y) } })
      let d := d.modCl c (fun cl => cl.installRegion r id ver x.recs)
      let d := d.joinStreams (c.val - (x.recs.head?.map (·.cl)).getD c.val) x.recs
      d.modRegion c r (fun y => { y with token := none, recs := [], oldVer := x.ver, left := x.w })


/-- The wrap (05 R168 to R171): planes switch, kernels wrap, retire and begin; a weir that starts a round latches and captures. -/
def Dev.wrapRegion (d : Dev) (c : ClusterId) (r : RegionIx) : Dev :=
  let on := fun (x : Region) => x.kernels.toList.any (fun k => k.st = .running || k.st = .exiting)
  let soon := (d.region c r).kernels.toList.any (fun k => k.st = .starting)
  -- a wheel that waits at a round's start for its first kernel passes no wrap; within a round it runs on to the round's end
  if !on (d.region c r) && soon && (d.region c r).period = 0 && !(d.region c r).kernels.toList.any d.mayBegin then d else
  let d := d.switch c r
  let x := d.region c r
  let need := if x.period = 0 then x.sealedN else x.sealedN + 1
  let d := d.modRegion c r (fun x => { x with
    kernels := x.kernels.map (fun k => if x.period = 0 && d.mayBegin k then k.begin_ else k.wrap need) })
  let x := d.region c r
  let up := on x
  if !up && !soon then
    -- the wheel stops (R171)
    ((d.settleFlights c r).modRegion c r (fun x => { x with st := .idle, weir := .none, rim := [], left := 0 })).retireKernels c r
  else if !up && x.period = 0 then d
  else
    let d := if x.period = 0 then
        let cl := d.cl c
        let start := fun (g : AgIx) (n : Fin 4) (b : AgBlock) => b.roundStart x (agCtx c x g n b b.issue.ord) cl.ap
        let d := d.modRegion c r (fun x => { x with
          fp := BitVec.ofNat 8 (cl.fpMode.toNat / 2 ^ (8 * r.val))
          ap := cl.ap
          weir := .none })
        let d := d.modCl c (fun cl => { cl with fab := { cl.fab with
          agens := Vector.ofFn (fun g =>
            let a := vget cl.fab.agens g
            if a.region = some r then { a with blocks := Vector.ofFn (fun n => (vget a.blocks n).map (start g n)) } else a)
          nodes := cl.fab.nodes.map (fun m => if m.region = some r then { m with seen0 := m.seen, rpos0 := m.rpos } else m) } })
        d.capture c r
      else d.modRegion c r (fun x => { x with weir := .none })
    d.retireKernels c r

/-- A stop or a commit-stop takes effect at this weir (05 R189, 14 R428). -/
def Region.stopDue (r : Region) : Bool := r.stop || r.commit.isSome

/-- The weir before slot 0, as far as it can go: reasons to wait, and the region after it. A region that stops at the weir that starts a round takes
the wrap, and with it the latch of its FPMODE byte (06 R202), only when it resumes: its image holds the byte of the round before (DESIGN CHOICE,
log 122). -/
def Dev.passWeir (d : Dev) (c : ClusterId) (r : RegionIx) : List Nat × Dev :=
  let x := d.region c r
  match x.weir with
  | .none => ([], d)
  | .wrap => ([], if x.stopDue then d.modRegion c r (fun x => { x with st := .stopping }) else d.wrapRegion c r)
  | .whole =>
    let stalls := if x.endsRound then d.weirStalls c r else []
    if !stalls.isEmpty then (stalls, d)
    else
      let d := if x.endsRound then d.sealRound c r else d.modRegion c r (fun x => { x with period := x.period + 1 })
      let d := d.modRegion c r (fun x => { x with weir := .wrap })
      ([], if (d.region c r).stopDue then d.modRegion c r (fun x => { x with st := .stopping }) else d.wrapRegion c r)

/-- The lowest code. -/
def lowest (l : List Nat) : Nat := l.foldl Nat.min 7

/-- The region freezes (05 R175); one that is to stop voids its round and stops (R189), but at a weir it waits for its half. -/
def Dev.freeze (d : Dev) (c : ClusterId) (r : RegionIx) (stalls : List Nat) : Dev :=
  if (d.region c r).st = .stopping then (if stalls = [4] then d else (d.reportCommit c r).voidStop c r)
  else d.modRegion c r (fun x => { x with st := .frozen, fcause := lowest stalls })

/-- PREEMPT or END at the head of every input port of the region (05 R192): in a graph that is being pre-empted, which shows in a PREEMPT
among them or in the injection at the graph's ingress ports. -/
def Dev.preemptDue (d : Dev) (c : ClusterId) (r : RegionIx) : Bool :=
  let ps := (d.cl c).fab.ports.toList.filter (fun p => match p.cfg with | some k => k.region = r && !k.out | none => false)
  !ps.isEmpty && ps.all (fun p => p.head = some 2 || p.head = some 3) &&
    ((d.region c r).graphPre || ps.any (fun p => p.head = some 2))

/-- One cycle of a region that is not frozen (05 R168), or that is (R176): the weir, then the slot, if all it needs is there. -/
def Dev.cycleRegion (d : Dev) (c : ClusterId) (r : RegionIx) : Dev :=
  let d := if (d.region c r).st = .running && (d.region c r).busy && d.preemptDue c r then d.requestStop c r true else d
  let (stalls, d) := d.passWeir c r
  if !stalls.isEmpty then d.freeze c r stalls
  else
    let x := d.region c r
    if x.weir != .none || !(x.st = .running || x.st = .stopping || x.st = .frozen) then d
    else
      let d0 := d
      let (p, d) := d.planSlot c r
      match p.stalls, firstFault p.walked with
      | _ :: _, some f => d.faultRegion c r f
      -- what a slot that waits has read it reads again: it counts once (01 R45)
      | _ :: _, none => (d.uncount d0).freeze c r p.stalls
      | [], _ =>
        let (fill, fs) := d.takeStores c r (moveRim x.rim) p.stores
        match firstFault (p.faults ++ fs) with
        | some f => d.faultRegion c r f
        | none =>
          (d.execSlot c r p fill).modRegion c r (fun x =>
            if x.st = .frozen then { x with st := .running, fcause := 0 } else x)

/-- REGION_CYCLE: one cycle of a region that is not frozen. -/
def execRegionCycle (c : ClusterId) (r : RegionIx) (s : State) : Out :=
  let st := (s.dev.region c r).st
  .next (if st = .running || st = .stopping then { s with dev := s.dev.cycleRegion c r } else s)

/-- A frozen region executes its slot once all it needs is there (05 R176). -/
def Dev.tryResume (d : Dev) (c : ClusterId) (r : RegionIx) : Dev :=
  let x := d.region c r
  if x.st != .frozen then d
  else if x.weir != .none then
    if x.endsRound && !(d.weirStalls c r).isEmpty then d.modRegion c r (fun x => { x with fcause := lowest (d.weirStalls c r) })
    else (d.modRegion c r (fun x => { x with st := .running, fcause := 0 })).cycleRegion c r
  else d.cycleRegion c r
/-- REGION_RESUME: a frozen region resumes if it can; one that stays frozen while a PREEMPT is due stops (05 R189, R192). -/
def Dev.resumeRegion (d : Dev) (c : ClusterId) (r : RegionIx) : Dev :=
  let d := d.tryResume c r
  let x := d.region c r
  if x.st = .frozen && x.busy && d.preemptDue c r then d.requestStop c r true else d
def execRegionResume (c : ClusterId) (r : RegionIx) (s : State) : Out := .next { s with dev := s.dev.resumeRegion c r }

/-- An operation in progress of a region's node: it completes, or, an MMA or MMAS, comes to its next chunk boundary (10 R338). -/
def Dev.nodeBusy (d : Dev) (c : ClusterId) (r : RegionIx) : Bool :=
  (d.nodesOf c r).any (fun n => match (d.node c n).queue with
    | h :: _ => h.began.isSome
    | [] => false)

/-- REGION_STOP (05 R189): the region stands at its weir with a stop due, its half has drained and its nodes have come to a
boundary. -/
def Dev.stopRegion (d : Dev) (c : ClusterId) (r : RegionIx) : Dev :=
  let x := d.region c r
  if !(x.st = .stopping && x.weir = .wrap && x.stopDue) || x.drain.isSome || d.nodeBusy c r || d.tiedBusy c r then d
  else
    (d.reportCommit c r).stopped_ c r
def execRegionStop (c : ClusterId) (r : RegionIx) (s : State) : Out := .next { s with dev := s.dev.stopRegion c r }

end Sys2Proof.Machine
end

