-- ==== Sys2Proof/Machine/Drain.lean ====
section
/-! DEFINITION. The drain of a sealed half (02 R83, R84; 04 R146), packets between stream ports (05 R177 to R183), and command ports
(07 R239, 08 R286). -/

namespace Sys2Proof.Machine

/-- A write of a draining half, or the round it belongs to, makes the region stop at its next weir (02 R84, 14 R428); a region with no
weir to come reports at once. -/
def Dev.commitFault (d : Dev) (c : ClusterId) (r : RegionIx) (cause : Cause) (round : Nat) (value : Word) : Dev :=
  let x := d.region c r
  if x.st = .idle || x.st = .stopped then d.regFault c r 4 0 x.slot round 2 cause value
  else if x.commit.isSome then d
  else d.modRegion c r (fun x => { x with commit := some ⟨cause, 4, 0, round, x.slot, value⟩ })

/-- The bytes of a granule that are no PUT (02 R78). -/
def Granule.plain (g : Granule) : BitVec 64 :=
  g.mask &&& ~~~(BitVec.ofNat 64 (joinEls 8 ((List.range 8).map (fun i => if g.puts.getLsbD i then 255 else 0))))
/-- Cells of a byte mask. -/
def Granule.cells (g : Granule) (m : BitVec 64) : List (Nat × Byte) :=
  (List.range 64).filterMap (fun i => if m.getLsbD i then some (i, BitVec.ofNat 8 (g.data.toNat / 2 ^ (8 * i))) else none)

/-- Replace the i-th granule of a draining half; none removes it. -/
def Dev.setGran (d : Dev) (c : ClusterId) (r : RegionIx) (i : Nat) (g : Option Granule) : Dev :=
  d.modRegion c r (fun x => { x with drain := x.drain.map (fun h => { h with grans := match g with
    | some g => h.grans.set i g
    | none => h.grans.eraseIdx i }) })

/-- The atom of a write is poisoned as the cluster sees it; this looks and makes no access. -/
def Dev.atomMarked (d : Dev) (c : ClusterId) (t : Target) : Bool :=
  match t with
  | .scratch h o => smem d.poison (d.scratchKeyOf h o / 64)
  | .phys p pa cache _ => (d.overlay c p pa 0 (d.homeAtom p pa cache true).1.poison).2
  | _ => false

/-- Reads of another device that the region's loaders have outstanding, or answered and not yet used, miss a write of the region to the same bytes:
they are made again, after it (04 R125, R147). -/
def Dev.staleReads (d : Dev) (c : ClusterId) (r : RegionIx) (t : Target) (cells : List (Nat × Byte)) : Dev :=
  match t with
  | .peer m off =>
    let hit := fun (a n : Nat) => cells.any (fun e => decide (a ≤ off + e.1) && decide (off + e.1 < a + n))
    d.modCl c (fun cl => { cl with reqs := cl.reqs.filter (fun q => match q.who, q.kind with
      | .gen g _ _, .read m' a n => !((vget cl.fab.agens g).region = some r && m' = m && hit a n)
      | _, _ => true) })
  | _ => d

/-- The write of a granule's ordinary bytes at its target; answers whether an atom becomes poisoned (06 R217). A chunk for a memory node counts
when it is written there. -/
def drainPlain (x : Ctx) (r : RegionIx) (round : Nat) (g : Granule) : UA Bool := do
  let t ← uResolve x .write (g.addr, 64)
  let cells := g.cells g.plain
  match t with
  | .node h n f => do
    let _ ← performPieces x (.drain x.c r) ((cellRuns cells).map (fun q =>
      ((⟨g.addr + BitVec.ofNat 64 q.1, q.2.length, .node h n (f + q.1), false⟩ : Piece), q.2.map (fun b => (b, g.poison)))))
    return false
  | _ => do
    let d ← get
    atGa g.addr true (writeT x g.addr t cells g.poison round)
    modify (fun d => d.staleReads x.c r t cells)
    return g.poison && !d.atomMarked x.c t

/-- The first write of a round in a half finds the writes of the rounds before performed at their homes (04 R146): buffered ones leave now; it
waits while another device has not acknowledged one. -/
def Dev.olderWrites (d : Dev) (c : ClusterId) (r : RegionIx) (round : Nat) : Bool × Dev :=
  let d := if (d.cl c).buffer.any (fun w => w.who = .drain r && decide (w.round < round)) then d.drain c else d
  ((d.cl c).reqs.any (fun q => q.who = .drain r && q.kind = .store && q.reply.isNone && decide (q.round < round)), d)

/-- Chunks of a draining half wait for a memory node. -/
def Dev.halfChunks (d : Dev) (c : ClusterId) (r : RegionIx) : Bool :=
  d.clusters.toList.any (fun cl => cl.memNodes.toList.any (fun m => m.wait.any (fun w => w.owner = .drain c r)))

/-- A PUT of a draining half (02 R78): a full word is left as it is. Answers whether an atom becomes poisoned (06 R215, R217). -/
def drainPut (x : Ctx) (scope : Nat) (ga v : Word) (poison : Bool) : UA Bool := do
  let (h, o) ← atGa ga true (presenceTarget x ga)
  atGa ga true (release x.c scope)
  let d ← get
  match d.putWord h (d.scratchKeyOf h o) v (h != x.c) poison with
  | some d' => do
    set d'
    return poison && !d.atomMarked x.c (.scratch h o)
  | none => throw (XFault.doublePut, ga, true)

/-- A write that a draining half could not make: waits, is recorded and waits for a retry, or is dropped (02 R84; log 46). -/
def Dev.drainFault (d : Dev) (c : ClusterId) (r : RegionIx) (x : Ctx) (i : Nat) (g : Granule) (left : Option Granule)
    (round : Nat) (e : XFault × Word × Bool) : Dev :=
  match e.1 with
  | .wait | .remote | .bankMoved => d
  | .walk code lv => (d.recordRegion c x.id x.ap e.2.1 true code lv).setGran c r i (some { g with waiting := true })
  | f => (d.setGran c r i left).commitFault c r f.cause round e.2.1

/-- A write of a half has made an atom poisoned: it is counted, and with EN = 1 the region stops with POISON (06 R217). -/
def Dev.countPoison (d : Dev) (c : ClusterId) (r : RegionIx) (round : Nat) : Dev :=
  let d := d.modCl c (fun cl => { cl with poisonCount := satAdd cl.poisonCount 1 })
  if (d.cl c).poisonEn then d.commitFault c r .poison round 0 else d

/-- MN_CHUNK_WRITE (02 R61): a chunk of a half that poisons an atom of the node counts (06 R217). -/
def Dev.mnChunkCounted (d : Dev) (c : ClusterId) (n : MnIx) (off : Nat) (chunk : List Byte) (poison : Bool) : Dev :=
  let node := vget (d.cl c).memNodes n
  let d' := d.mnChunk c n off chunk poison
  match node.wait with
  | [] => d'
  | h :: rest =>
    let key := nodeKey c.val n.val ((node.fptr.toNat * (node.bufu.toNat * 4096) + off) % 2 ^ 18)
    if (vget (d'.cl c).memNodes n).wait = rest && poison && !smem d.poison (key / 64) then
      match h.owner with
      | .drain oc r => d'.countPoison oc r (((d.region oc r).drain.map (·.round)).getD 0)
      | .cmd _ _ _ => d'
    else d'
def execMnChunkWrite (c : ClusterId) (n : MnIx) (off : Nat) (chunk : List Byte) (poisoned : Bool) (s : State) : Out :=
  .next { s with dev := s.dev.mnChunkCounted c n off chunk poisoned }

/-- DRAIN_WRITE: the i-th granule of the half that drains (02 R83, R84): its ordinary bytes, and once the half has none left, one of its
PUT words. -/
def Dev.drainWrite (d : Dev) (c : ClusterId) (r : RegionIx) (i : Nat) : Dev :=
  let y := d.region c r
  match y.drain with
  | none => d
  | some h =>
    match h.grans[i]? with
    | none => d
    | some g =>
      let x : Ctx := ⟨c, .drain r, (vget y.kernels g.kern).id, h.ap⟩
      let (older, d) := d.olderWrites c r h.round
      if g.waiting || older then d
      else if g.plain != 0 then
        let left := if g.puts = 0 then none else some { g with mask := g.mask &&& ~~~g.plain }
        match drainPlain x r h.round g d with
        | (.ok po, d) => if po then (d.setGran c r i left).countPoison c r h.round else d.setGran c r i left
        | (.error e, d) => d.drainFault c r x i g left h.round e
      else if g.puts = 0 then d.setGran c r i none
      else if h.grans.any (fun q => q.plain != 0) || d.halfChunks c r then d
      else
        let n := (List.range 8).find? (fun n => g.puts.getLsbD n) |>.getD 0
        let puts := g.puts &&& ~~~(BitVec.ofNat 8 (2 ^ n))
        let left := if puts = 0 then none else some { g with puts := puts, mask := g.mask &&& ~~~(BitVec.ofNat 64 (255 * 2 ^ (8 * n))) }
        let ga := g.addr + BitVec.ofNat 64 (8 * n)
        match drainPut x h.scope ga (BitVec.ofNat 64 (g.data.toNat / 2 ^ (64 * n))) g.poison d with
        | (.ok po, d) => if po then (d.setGran c r i left).countPoison c r h.round else d.setGran c r i left
        | (.error e, d) => d.drainFault c r x i g left h.round e
def execDrainWrite (c : ClusterId) (r : RegionIx) (i : Nat) (s : State) : Out := .next { s with dev := s.dev.drainWrite c r i }

/-- DRAIN_COMPLETE: every write of the half is performed at the drain scope (04 R146, R151): MARKERs leave, and kernels retire. -/
def Dev.drainComplete (d : Dev) (c : ClusterId) (r : RegionIx) : Dev :=
  match (d.region c r).drain with
  | none => d
  | some h =>
    if !h.grans.isEmpty || d.halfChunks c r then d
    else match release c h.scope d with
      | (.error _, d) => d
      | (.ok _, d) =>
        let d := d.modRegion c r (fun x => { x with drain := none, drainedN := x.drainedN + 1 })
        let d := d.modCl c (fun cl => { cl with fab := { cl.fab with ports := cl.fab.ports.map (fun p => match p.cfg with
          | some k => if k.region = r then p.drained else p
          | none => p) } })
        d.retireKernels c r
def execDrainComplete (c : ClusterId) (r : RegionIx) (s : State) : Out := .next { s with dev := s.dev.drainComplete c r }

/-- A packet enters an input port. A MARKER at the head of a port without PUNCT is removed (05 R182). -/
def Port.enter (p : Port) (k : Packet) : Port := if p.rest.isEmpty && !p.keeps k.kind then p else { p with inq := p.inq ++ [k] }
/-- A packet arrives at an input port that has room (05 R177, R178, R183). -/
def Dev.receive (d : Dev) (c : ClusterId) (p : PortIx) (k : Packet) : Dev :=
  match (vget (d.cl c).fab.ports p).cfg with
  | none => d
  | some cfg =>
    let x := d.region c cfg.region
    if k.bad then
      if x.st = .running || x.st = .frozen || x.st = .stopping then
        d.faultRegion c cfg.region ⟨2, p.val, .configInvalid, false, k.hdr.setWidth 64⟩
      else d.regFault c cfg.region 2 p.val x.slot x.round 1 .configInvalid (k.hdr.setWidth 64)
    else if k.kind = 3 && ((d.cl c).readers cfg.region.val cfg.cell).all (fun j => (vget x.kernels j).recorded = .retired) then d
    else d.modPort c p (fun q => q.enter k)
/-- Room for a packet at a port. -/
def Port.roomFor (p : Port) (k : Packet) : Bool := { p with inq := p.inq ++ [k] }.fits

/-- STREAM_PACKET_ARRIVAL: the next packet that its source may send arrives at an input port (05 R178, R181). -/
def Dev.streamArrival (d : Dev) (c : ClusterId) (p : PortIx) : Dev :=
  let q := vget (d.cl c).fab.ports p
  match q.cfg, q.peer with
  | some cfg, some (sc, sp) =>
    let src := vget (d.cl sc).fab.ports sp
    match src.ready with
    | [] => d
    | k :: rest =>
      if cfg.out || src.peer != some (c, p) || !q.roomFor k then d
      else (d.modPort sc sp (fun s => { s with ready := rest })).receive c p k
  | _, _ => d
def execStreamPacketArrival (c : ClusterId) (p : PortIx) (s : State) : Out := .next { s with dev := s.dev.streamArrival c p }

/-- The packet words of vectors (07 R239). -/
def cmdWords (a : V256) (b : Option V256) : Vector Word 8 :=
  Vector.ofFn fun i => if i.val < 4 then BitVec.ofNat 64 (a.toNat / 2 ^ (64 * i.val))
    else match b with
      | some b => BitVec.ofNat 64 (b.toNat / 2 ^ (64 * (i.val - 4)))
      | none => 0

/-- A command port passes its committed packets to its engine queue, in order, while the queue has room (08 R286). -/
def Dev.passCmds (d : Dev) (c : ClusterId) (r : RegionIx) (q : QueueIx) (i : Nat) : Nat → Dev
  | 0 => d
  | n + 1 =>
    let set := fun (d : Dev) (l : List CmdVec) => d.modCl c (fun cl => cl.modCell i (fun x => { x with cmds := l }))
    let go := fun (a : CmdVec) (w : Vector Word 8) (ok : Bool) (rest : List CmdVec) =>
      let kn := vget (d.region c r).kernels a.kern
      (set (d.enqueue c q w ok kn.id ⟨kn.c, kn.k, kn.inst⟩ (if pkRel w then some (r, a.round) else none)).2 rest).passCmds c r q i n
    match ((d.cl c).cell i).cmds with
    | [] => d
    | a :: rest =>
      let w := cmdWords a.val.bits none
      if !a.ready || !(d.queue c q).room then d
      else if a.refused || !pkExt w then go a w (!a.refused) rest
      else match rest with
        | b :: rest => if b.ready then go a (cmdWords a.val.bits (some b.val.bits)) (!b.refused) rest else d
        | [] => d
/-- Every command port of a cluster (08 R286): command port n + 1 leads to queue n. -/
def Dev.passAllCmds (d : Dev) (c : ClusterId) : Dev :=
  (List.range 64).foldl (fun d i =>
    let x := (d.cl c).cell i
    if x.cmdPort = 0 || x.cmds.isEmpty then d
    else d.passCmds c (rIx (cellRegion (d.cl c).layout.toNat i)) (qIx (x.cmdPort - 1)) i 32) d

end Sys2Proof.Machine
end

