-- ==== Sys2Proof/Machine/FabInstr.lean ====
section
/-! DEFINITION. FLOAD, KRUN, KSTOP and KSTAT (09 R310 to R314). -/

namespace Sys2Proof.Machine

/-- CONFIG_INVALID with its reason (09 R310). -/
def configTrap {α : Type} (reason : Nat) (off : Nat := 0) : M α := trapM .configInvalid (BitVec.ofNat 64 (off * 2 ^ 32 + reason))

/-- The cluster that a 7-bit field names (09 R310): PROTECTION with the selector otherwise. -/
def clusterM (c : ClusterId) (n : Nat) (sel : Word) : M ClusterId := do
  let d ← get
  if n = 127 then return c
  match clusterNo n with
  | some k => if k = c || (d.partOf k = d.partOf c && (d.partOf c).isSome) then return k else trapM .protection sel
  | none => trapM .protection sel

/-- The region that a selector names (09 R310): one of the cluster's layout. -/
def selectorM (c : ClusterId) (sel : Word) : M (ClusterId × RegionIx × Fin 4) := do
  let k ← clusterM c (bits sel.toNat 10 4) sel
  let d ← get
  let r := rIx (bits sel.toNat 3 2)
  if layoutRegions (d.cl k).layout.toNat ≤ r.val then configTrap 8
  return (k, r, ⟨bits sel.toNat 1 0 % 4, Nat.mod_lt _ (by decide)⟩)

/-- KSTOP, KSAVE and KREST trap with PROTECTION at user privilege, TRAPVAL holding the selector (09 R293, 14 R425). -/
def supervisorM (c : ClusterId) (k : StrandIx) (sel : Word) : M Unit := do
  let d ← get
  if !(d.strand c k).priv then trapM .protection sel

/-- The context of a region on which a control strand acts (13 R424): it waits while its own context waits. -/
def contextM (inst : Option Nat) (x : Region) (wait : Bool) : M Bool := do
  match inst with
  | none => return true
  | some id =>
    if x.ctxs.isEmpty then return true
    match x.ctxs.find? (fun t => t.inst = id) with
    | none => configTrap 3
    | some t => if t.running then return true else if wait then retryM else return false

/-- n bytes of an image at an address: POISON where a granule is poisoned (14 R425). -/
def imageM (x : Ctx) (ga : Word) (n : Nat) : M (List Byte) := do
  let d ← get
  match readMarked x [(ga, n)] d with
  | (.error (e, a, _), d) => do
    set d
    throw (e.toErr a)
  | (.ok l, d) => do
    set d
    match l.zipIdx.find? (fun b => b.1.2) with
    | some b => trapM .poison (ga + BitVec.ofNat 64 (b.2 / 64 * 64))
    | none => return l.map (·.1)

/-- A 64-byte aligned address in GLOBAL or LOCAL (09 R311, R313). -/
def imageAddrM (x : Ctx) (ga : Word) : M Unit := do
  if ga.toNat % 64 != 0 then trapM .misaligned ga
  match x.ap.decode ga.toNat with
  | some (n, _) => if n = 1 || n = 3 then return () else trapM .aperture ga
  | none => trapM .aperture ga

/-- A check of a load. -/
def chkM (r : Chk Unit) : M Unit := match r with
  | .ok _ => return ()
  | .error off => configTrap 1 off

/-- The scratchpad lines that a DATA record writes, by LOCAL offset of the line. -/
def Rec.dataLines (q : Rec) : List (Nat × List (Nat × Byte)) :=
  let o := leNat (q.data.take 4)
  let bs := q.data.drop 4
  (granules (bs.length / 64 + 2) (BitVec.ofNat 64 o) bs.length).map (fun g =>
    (g.1.toNat / 64 * 64, ((bs.drop (g.1.toNat - o)).take g.2).zipIdx.map (fun b => (g.1.toNat % 64 + b.2, b.1))))

/-- The records of the regions that a load configures. -/
def loadParts (cl : Cluster) (rs : List Rec) : List (RegionIx × List Rec) :=
  ((loadRegions cl rs).map (fun g => (rIx g, regionRecs cl rs g))).filter (fun p => !p.2.isEmpty)
/-- A region with a live kernel under a load: its standby planes are written and the token is sent; its other records wait for the
switch (09 R311, 05 R185). -/
def Cluster.sendToken (cl : Cluster) (l : FabLoad) (p : RegionIx × List Rec) : Cluster :=
  (cl.installPlanes p.1 true p.2).modReg p.1 (fun r => { r with token := some (l.pver, l.loadId), recs := p.2 })
/-- A load with SYNC as it begins: the regions with live kernels. -/
def Cluster.beginLoad (cl : Cluster) (l : FabLoad) (rs : List Rec) : Cluster :=
  ((loadParts cl rs).filter (fun p => (vget cl.fab.regions p.1).live)).foldl (fun cl p => cl.sendToken l p) cl
/-- A load written to one cluster (09 R311): LAYOUT, then each region at once or, where it has a live kernel, to its standby planes; the
regions in `done` have switched already. -/
def Cluster.applyLoad (cl : Cluster) (l : FabLoad) (rs : List Rec) (done : List Nat) : Cluster :=
  let base := (cl.relayout (loadLayout cl rs)).installLoose (looseRecs cl rs)
  ((loadParts cl rs).filter (fun p => !done.contains p.1.val)).foldl (fun cl p =>
    if (vget cl.fab.regions p.1).live then cl.sendToken l p
    else
      ((cl.installPlanes p.1 false p.2).installRegion p.1 l.loadId l.pver p.2).modReg p.1 (fun r => { r with
        token := none, recs := [], left := 0, st := .idle, weir := .none })) base

/-- A load written to its clusters, but for the regions (cluster * 4 + region) that have switched already. -/
def Dev.applyLoad (d : Dev) (base : Nat) (l : FabLoad) (cs : List ClusterId) (done : List Nat) (by_ : Option (ClusterId × StrandIx)) : Dev :=
  let d := cs.zipIdx.foldl (fun d k => d.modCl k.1 (fun cl =>
    cl.applyLoad l (l.of k.2) ((List.range 4).filter (fun g => done.contains (k.1.val * 4 + g))))) d
  let d := d.joinStreams base (l.recs.filter (fun q => match clusterNo (base + q.cl) with
    | some c => !(d.cl c).fab.regions.toList.any (fun r => r.token.isSome && r.recs.contains q)
    | none => false))
  (l.recs.filter (fun q => q.ty = 13)).foldl (fun d q =>
    match clusterNo (base + q.cl) with
    | some c => q.dataLines.foldl (fun d g =>
        let key := d.scratchKeyOf c g.1
        d.arrayWrite (g.2.map (fun b => (key + b.1, b.2))) false by_) d
    | none => d) d

/-- The regions that a load configured note where it was read. -/
def Dev.setSrc (d : Dev) (l : FabLoad) (cs : List ClusterId) (src : Option LoadSrc) : Dev :=
  cs.zipIdx.foldl (fun d k =>
    (loadRegions (d.cl k.1) (l.of k.2)).foldl (fun d g => d.modRegion k.1 (rIx g) (fun x => { x with src := src })) d) d

/-- The checks of a load that depend on the device (07 R244, 09 R310, R311): reasons 1, 2 and 3, and the owners of the banks that
DATA writes. -/
def loadChecksM (c : ClusterId) (l : FabLoad) (base : Nat) (cs : List ClusterId) (sw : Bool) : M Unit := do
  let d ← get
  for (k, i) in cs.zipIdx do
    chkM ((d.cl k).checkLoad l (l.of i) (d.partOf (pairCluster k) = d.partOf k && (d.partOf k).isSome))
  chkM (streamsOk l (fun i => match clusterNo (base + i) with
    | some k => (d.cl k).withLoad l (l.of i)
    | none => Cluster.reset))
  for (k, i) in cs.zipIdx do
    let cl := d.cl k
    let live := cl.fab.regions.toList.any Region.live
    if loadLayout cl (l.of i) != cl.layout.toNat && live then configTrap 2
  for (k, i) in cs.zipIdx do
    let cl := d.cl k
    if (loadRegions cl (l.of i)).any (fun g => (cl.region g).live) && !sw then configTrap 3
  for q in l.recs do
    if q.ty = 13 then
      match clusterNo (base + q.cl) with
      | some k =>
        match q.dataLines.find? (fun g => (d.bankCheck (d.partOf c) k g.1).isSome) with
        | some g =>
          let why : Cause := match d.bankCheck (d.partOf c) k g.1 with
            | some e => e.cause
            | none => .protection
          trapM why (BitVec.ofNat 64 g.1)
        | none => pure ()
      | none => pure ()

/-- The clusters of a load: image cluster i is cluster base + i. -/
def loadClusters (l : FabLoad) (base : Nat) : List ClusterId := (List.range l.ncl).filterMap (fun i => clusterNo (base + i))
/-- A FLOAD with SYNC of some strand still writes one of these clusters: FLOADs to one cluster are performed one at a time (09 R311). -/
def Dev.loading (d : Dev) (cs : List ClusterId) : Bool :=
  d.clusters.any (fun cl => cl.strands.any (fun st => match st.state with
    | .wait (.sync _ x _) _ => (loadClusters x.load x.base).any cs.contains
    | _ => false))
/-- The strand of a FLOAD that has been issued still waits to make it. -/
def LoadTurn.waits (d : Dev) (e : LoadTurn) : Bool :=
  (match (d.strand e.c e.k).state with | .wait (.retry _) _ => true | _ => false) && (d.strand e.c e.k).pc = e.pc
def LoadTurn.of (c : ClusterId) (k : StrandIx) (e : LoadTurn) : Bool := e.c = c && e.k = k
/-- A strand's FLOAD takes its place among those that wait, or keeps it: until its image has said more, it names every cluster from its base
on. -/
def Dev.enterLoad (d : Dev) (c : ClusterId) (k : StrandIx) (cs : List ClusterId) : Dev :=
  let q := d.loadQ.filter (·.waits d)
  { d with loadQ := if q.any (·.of c k) then q else q ++ [⟨c, k, (d.strand c k).pc, cs⟩] }
/-- FLOADs to one cluster are performed one at a time, in issue order (09 R311): this one waits while another with SYNC still writes one of its
clusters, or one issued before it that names one of them waits. -/
def loadTurnM (c : ClusterId) (k : StrandIx) (cs : List ClusterId) : M Unit := do
  modify (fun d => { d with loadQ := d.loadQ.map (fun e => if e.of c k then { e with cs := cs } else e) })
  let d ← get
  if d.loading cs || (d.loadQ.takeWhile (fun e => !e.of c k)).any (fun e => e.cs.any cs.contains) then retryM
/-- The regions of clusters that wait for a switch. -/
def Dev.switching (d : Dev) (cs : List ClusterId) : List Nat :=
  cs.flatMap (fun k => (List.finRange 4).filterMap (fun r => if (d.region k r).token.isSome then some (k.val * 4 + r.val) else none))

/-- What waits for a switch in the regions of a load that have a live kernel (09 R299). -/
def Dev.undoOf (d : Dev) (rs : List Nat) : List (Nat × Option (BitVec 8 × W32) × List Rec) :=
  rs.filterMap (fun n => (clusterNo (n / 4)).map (fun h => (n, (d.region h (rIx n)).token, (d.region h (rIx n)).recs)))
/-- FLOAD (09 R311): its image is read with acquire order. With SYNC every record but those of the regions that switch takes effect when it completes. -/
def execFload (g a b : GReg) (sync sw : Bool) (s : State) : Out :=
  s.asStrand fun c k x => do
    let ga ← regM c k a
    let sel ← regM c k b
    imageAddrM x ga
    let c0 := bits sel.toNat 6 0
    let base := if c0 = 127 then c.val else c0
    modify (fun d => d.enterLoad c k ((List.finRange 72).filter (fun h => decide (base ≤ h.val))))
    let hd ← imageM x ga 64
    if !headerOk hd then configTrap 1
    let cs ← (List.range (leNat ((hd.drop 6).take 2))).mapM (fun i => clusterM c (if base + i = 127 then 126 else base + i) sel)
    loadTurnM c k cs
    let img ← imageM x ga (headerLength hd)
    match parseLoad img with
    | .error off => configTrap 1 off
    | .ok l => do
      loadChecksM c l base cs sw
      modify (fun d => d.acquire c k)
      let src := (x.ap.decode ga.toNat).map (fun w => (⟨w.1 = 3, w.2, c, x.id, base⟩ : LoadSrc))
      if sync then
        let old ← get
        let d := cs.zipIdx.foldl (fun d i => d.modCl i.1 (fun cl => cl.beginLoad l (l.of i.2))) old
        if !(d.switching cs).isEmpty then
          set d
          throw (.wait (.sync g ⟨l, base, src, old.undoOf (d.switching cs)⟩ (d.switching cs)))
      modify (fun d => (d.applyLoad base l cs [] (some (c, k))).setSrc l cs src)
      setRegM c k g (l.loadId.setWidth 64)
      return none

/-- A FLOAD with SYNC completes when every switch it waits for has happened (09 R311): its other records take effect then, and a region
that a KRUN has started since switches first (log 47). -/
def Dev.syncDone (d : Dev) (c : ClusterId) (k : StrandIx) : Dev :=
  match (d.strand c k).state with
  | .wait (.sync g x rs) h =>
    if rs.any (fun n => match clusterNo (n / 4) with
      | some h => (d.region h (rIx (n % 4))).token.isSome
      | none => false) then d
    else
      let cs := loadClusters x.load x.base
      let b := cs.zipIdx.foldl (fun d i => d.modCl i.1 (fun cl =>
        ((loadParts cl (x.load.of i.2)).filter (fun p => (vget cl.fab.regions p.1).live && !rs.contains (i.1.val * 4 + p.1.val))).foldl
          (fun cl p => cl.sendToken x.load p) cl)) d
      if !(b.switching cs).isEmpty then b.modStrand c k (fun st => { st with state := .wait (.sync g x (rs ++ b.switching cs)) h })
      else
        ((d.applyLoad x.base x.load cs rs (some (c, k))).setSrc x.load cs x.src).modStrand c k
          (fun st => (st.setG g (x.load.loadId.setWidth 64)).advance 4)
  | _ => d

/-- The capacity checks of KRUN (02 R82, 04 R144, 05 R184, 08 R286, 10 R337, 14 R444). -/
def Cluster.krunFits (cl : Cluster) (r : RegionIx) (k : Fin 4) (w len : Nat) : Bool :=
  let x := cl.region r.val
  let bs := cl.blocks r.val
  let sum := fun (l : List Nat) => l.foldl (· + ·) 0
  let half := if cl.layout = 0 then 2048 else if cl.layout = 1 then 1024 else 512
  let slots := x.ownedSlots w
  -- the slots of the region, whether or not a kernel owns them
  let count := fun (i : Nat) (f : Plane → Nat → Bool) => ((List.range w).filter (fun s => f (cl.cell i).act s)).length
  decide (len * sum ((bs.filter (fun b => b.2.2.store)).map (fun b => b.2.2.lanes)) ≤ half) &&
  (List.range 8).all (fun g => decide (sum ((bs.filter (fun b => b.1 = g && !b.2.2.store && b.2.2.pres = 2)).map
    (fun b => (len + b.2.2.lead) * b.2.2.lanes)) ≤ 256)) &&
  cl.fab.ports.toList.all (fun p => match p.cfg with
    | some c => c.out || c.region != r || decide (len * 8 * count c.cell Plane.wordReads ≤ 256)
    | none => true) &&
  (cl.cellsOf r.val).all (fun i => decide (len * count i (fun p s => (p.word s).op = .send && (p.word s).mod = 1) ≤ 32)) &&
  cl.fab.nodes.toList.all (fun m => m.region != some r ||
    decide (len * sum (m.act.toList.map (fun e => if !mxOutput e || !(slots.contains (mxSlot e)) then 0 else if mxMop e = 7 then 2 else 1)) ≤ 256)) &&
  bs.all (fun b => b.2.2.kind != 2 || !(vget x.kernels k).owns b.2.2.slot || decide (b.2.2.tiles ≤ 65536))

/-- A cell as KRUN sets it up for a kernel (02 R53, 06 R203). -/
def Cell.setUp (x : Cell) (i : Nat) (k : Fin 4) (kn : Kernel) (seed : W32) (ver : Nat) : Cell :=
  let lv := vget x.live k
  let mine := (List.range 32).filter (fun s => kn.owns s)
  let driven := BitVec.ofNat 4 (joinEls 1 ((List.range 4).map (fun o => if mine.any (fun s => routeOut (x.act.route s) o != 0) then 1 else 0)))
  let seed := seed ^^^ BitVec.ofNat 32 ((i + 1) * 65536) ^^^ BitVec.ofNat 32 k.val
  { x with
    w := Vector.ofFn (fun j => if decide (lv.rog ≤ j.val) && decide (j.val < lv.rog + lv.rsz) then VecVal.zero else vget x.w j)
    prev := if mine.any (fun s => x.act.namesRoute s) then VecVal.zero else x.prev
    out := Vector.ofFn (fun o => if driven.getLsbD o.val then ⟨0, 0, BitVec.ofNat 2 ver⟩ else vget x.out o)
    driven := x.driven ||| driven
    lfsr := vset x.lfsr k (if seed = 0 then 1 else seed) }

/-- No earlier than this cycle may a kernel placed on a wheel begin: with the kernels that wait for the wheel's own first wrap (R312). -/
def Region.firstWrap (r : Region) (now : Nat) : Nat :=
  if r.kernels.toList.any (fun k => k.st = .running || k.st = .exiting || k.st = .retiring) then now
  else r.kernels.toList.foldl (fun m k => if k.st = .starting then Nat.max m k.earliest else m) now

/-- KRUN's effect (09 R312): the kernel is set up and STARTING; an idle wheel is prepared. -/
def Dev.krun (d : Dev) (c : ClusterId) (r : RegionIx) (k : Fin 4) (w len : Nat) (trips : W32) (st : Strand) (by_ : ClusterId × StrandIx) : Dev :=
  let cl := d.cl c
  let x := d.region c r
  let kn := vget x.kernels k
  let seed := match kn.cfg with | some f => f.seed | none => 0
  let setUp := fun (v : Vector Cell 64) => Vector.ofFn (fun (i : Fin 64) =>
    if cellRegion cl.layout.toNat i.val = r.val then (vget v i).setUp i.val k kn seed x.ver.toNat else vget v i)
  let d := d.modCl c (fun cl => { cl with fab := { cl.fab with
    cells := setUp cl.fab.cells
    agens := cl.fab.agens.map (fun a => if a.region = some r then
        { a with
          blocks := a.blocks.map (Option.map (fun b => if kn.owns b.slot then b.restart else b))
          takes := a.takes.filter (fun t => match vgetD a.blocks t.block none with
            | some b => !kn.owns b.slot
            | none => true) }
      else a)
    nodes := Vector.ofFn (fun n =>
      let m := vget cl.fab.nodes n
      if m.region != some r then m
      else
        let mine := fun (e : Word) => e != 0 && kn.owns (mxSlot e)
        let s := seed ^^^ BitVec.ofNat 32 ((64 + n.val) * 65536)
        { m with
          opos := Vector.ofFn (fun j => if mine (vget m.act j) then 0 else vget m.opos j)
          lfsr := if m.act.toList.any mine then (if s = 0 then 1 else s) else m.lfsr }) } })
  let idle := x.st = .idle
  d.modRegion c r (fun x =>
    let x := { x with
      shadow := x.shadow.map (fun h => { h with cells := setUp h.cells })
      kernels := vset x.kernels k { kn with
        st := .starting
        was := .starting
        exit_ := false
        sp := 0
        iters := 0
        trips := trips
        noTrip := trips = 0
        periods := 0
        id := st.ident
        c := by_.1
        k := by_.2
        inst := st.instance_
        need := 0
        earliest := if idle then d.now + 4 else x.firstWrap d.now
        fence := (d.cl by_.1).nextTag } }
    if idle then
      { x with
        st := .running
        graphPre := false
        ctxs := x.ctxs.map (fun t => if t.running then { t with stoppedBySup := false } else t)
        w := w
        roundLen := len
        period := 0
        round := 0
        slot := 0
        fcause := 0
        left := 0
        flights := []
        rim := []
        fill := []
        flags := 0
        stop := false
        commit := none
        shadow := none
        weir := .wrap }
    else x)

/-- PRIO.BASE as written last (13 R422). -/
def Dev.basePrio (d : Dev) (c : ClusterId) (r : RegionIx) : Nat := bits (d.cl c).prio.toNat (8 * r.val + 1) (8 * r.val)
/-- A quantum begins (13 R422, R423). -/
def Dev.newQuantum (d : Dev) (c : ClusterId) (r : RegionIx) : Dev :=
  d.modRegion c r (fun x => { x with quantumFrom := d.now, quantumLen := (d.cl c).quantum })

/-- The slots of a kernel overlap those of another that has not retired (05 R169). -/
def Region.slotConflict (x : Region) (n : Fin 4) : Bool :=
  (List.finRange 4).any (fun j => j != n && (vget x.kernels j).cfg.isSome && (vget x.kernels j).st != .retired &&
    ((vget x.kernels j).slots &&& (vget x.kernels n).slots) != 0)

/-- KRUN (09 R312). Where several reasons hold TRAPVAL names the first of: 3; 5 for ROUNDLEN and RLEN; 4; 5 for the capacity checks:
DESIGN CHOICE, log 111. -/
def execKrun (a b : GReg) (s : State) : Out :=
  s.asStrand fun c k _ => do
    let sel ← regM c k a
    let v ← regM c k b
    let (h, r, n) ← selectorM c sel
    let d ← get
    let st := d.strand c k
    let x := d.region h r
    let kn := vget x.kernels n
    match kn.cfg with
    | none => configTrap 7
    | some cfg => do
      let _ ← contextM st.instance_ x true
      if !(kn.st = .loaded || kn.st = .retired) || x.st = .stopped || x.st = .faulted then configTrap 3
      let len := st.roundLen.toNat
      if len = 0 || 65536 < len || (cfg.rlen != 0 && cfg.rlen != len) then configTrap 5
      if x.st != .idle && (x.w != cfg.wm1 + 1 || x.roundLen != len) then configTrap 4
      if x.slotConflict n then configTrap 4
      if !(d.cl h).krunFits r n (cfg.wm1 + 1) len then configTrap 5
      let d := if 2 ≤ cfg.scope then d.drain c else d
      let d := d.krun h r n (cfg.wm1 + 1) len (BitVec.ofNat 32 v.toNat) st (c, k)
      let ctx := match st.instance_ with
        | some id => if x.ctxs.isEmpty then
            [(⟨id, x.loadId, x.ver, x.src, d.basePrio h r, 0, 0, d.now, none, false, false, true, false, 0⟩ : RegCtx)] else x.ctxs
        | none => x.ctxs
      let d := d.modRegion h r (fun x => { x with ctxs := ctx })
      set (if x.ctxs.isEmpty then d.newQuantum h r else d)
      return none

/-- KSTOP (09 R313, 13 R424). With WAIT it completes once no stop is on its way any more: for a region that it leaves as it is, and for one
whose kernels retire before they stop, without STATE 4 (DESIGN CHOICE, log 119). A stop that it makes or meets holds the running context. -/
def execKstop (a : GReg) (wait : Bool) (s : State) : Out :=
  s.asStrand fun c k _ => do
    let sel ← regM c k a
    supervisorM c k sel
    let (h, r, _) ← selectorM c sel
    let d ← get
    let x := d.region h r
    if !x.configured then configTrap 7
    let _ ← contextM (d.strand c k).instance_ x true
    let d := if x.busy || x.st = .stopping || x.st = .stopped || x.st = .faulted then d.modRegion h r (fun x => { x with
        ctxs := x.ctxs.map (fun t => if t.running then { t with stoppedBySup := true } else t) }) else d
    let d := d.requestStop h r false
    set d
    let y := d.region h r
    if wait && (y.busy || y.st = .stopping) && y.st != .stopped then retryM
    return none

/-- Rounds sealed by the wheel of an instance's context that waits. -/
def Region.roundOf (x : Region) (inst : Option Nat) : Nat := ((x.ctxs.find? (fun t => some t.inst = inst)).map (·.round)).getD 0
/-- Codes of R174. -/
def KState.code : KState → Nat
  | .loaded => 0 | .running => 1 | .exiting => 2 | .retiring => 3 | .retired => 4 | .stopped => 5 | .faulted => 6 | .starting => 7
/-- Codes of R173. -/
def RState.code : RState → Nat
  | .idle => 0 | .running => 1 | .frozen => 2 | .stopping => 3 | .stopped => 4 | .faulted => 5

/-- KSTAT (09 R314): of a RETIRED kernel an acquire of its writes (04 R151). Of a context that waits it reports STOPPED, with the rounds its
wheel had sealed (13 R424). -/
def execKstat (g a : GReg) (s : State) : Out :=
  s.asStrand fun c k _ => do
    let sel ← regM c k a
    let (h, r, n) ← selectorM c sel
    let d ← get
    let x := d.region h r
    let here ← contextM (d.strand c k).instance_ x false
    let kn := vget x.kernels n
    if here && kn.cfg.isNone then configTrap 7
    if here && kn.st = .retired then modify (fun d => d.acquire c k)
    setRegM c k g (BitVec.ofNat 64 (if here then x.round % 2 ^ 32 * 2 ^ 32 + x.fcause * 256 + x.st.code * 16 + kn.st.code
      else x.roundOf (d.strand c k).instance_ % 2 ^ 32 * 2 ^ 32 + 4 * 16 + 5))
    return none

end Sys2Proof.Machine
end

