-- ==== Sys2Proof/Machine/Fetch.lean ====
section
/-! DEFINITION. Instruction fetch (01 R19, 04 R126, 09 R298), asynchronous causes (09 R299) and the turns of the outside world that act on storage alone. -/

namespace Sys2Proof.Machine

/-- A word to execute at an address: one fetched ahead (only the 64 bytes from the program counter on count), else from memory. -/
def fetchWord (x : Ctx) (ahead : Table W32) (pc a : Word) : Acc W32 := do
  match tget ahead a.toNat with
  | some w =>
    if decide (pc.toNat ≤ a.toNat) && decide (a.toNat < pc.toNat + 64) then return w
    else readFetch x a
  | none => readFetch x a
where
  /-- The word from memory. -/
  readFetch (x : Ctx) (a : Word) : Acc W32 := do
    let t ← resolve x a .fetch
    let (bs, po) ← readT x a t 4
    if po then throw .poison
    return BitVec.ofNat 32 (leNat bs)

/-- A failed word is named by its generic address (14 R425). -/
def atWord (a : Word) (m : Acc W32) : ExceptT (XFault × Word) (StateM Dev) W32 := fun d =>
  match m d with
  | (.ok w, d) => (.ok w, d)
  | (.error e, d) => (.error (e, a), d)

/-- The first word at the program counter, and the second where the first has major 0x3F, form X (07 R230). The second is fetched whatever the
first word's other bits are, and a fault of its fetch comes before the ILLEGAL of a first word of form X that is malformed: R230 gives no order
(DESIGN CHOICE, log 63). -/
def fetchPair (c : ClusterId) (k : StrandIx) : ExceptT (XFault × Word) (StateM Dev) (Nat × Nat) := do
  let d ← get
  let st := d.strand c k
  let x := d.strandCtx c k
  if st.pc.toNat % 4 != 0 then throw (.misaligned, st.pc)
  let w ← atWord st.pc (fetchWord x st.ahead st.pc st.pc)
  if w.toNat / 2 ^ 26 = 0x3F then do
    let w2 ← atWord (st.pc + 4) (fetchWord x st.ahead st.pc (st.pc + 4))
    return (w.toNat, w2.toNat)
  else return (w.toNat, 0)

/-- A failed fetch traps with TRAPPC at the instruction and TRAPVAL the word's address (01 R38, 14 R425); at TRAPVEC it sets DBL and
the strand becomes IDLE (09 R298). -/
def State.fetchTrap (s : State) (e : XFault × Word) : State :=
  match e.1.toErr e.2 with
  | .trap c sub v =>
    if s.me.atVector then s.modMe (fun st => { st with dbl := true, state := .idle, atVector := false }) else s.trapHere c sub v
  | .wait w => s.modMe (fun st => { st with state := st.state.waiting w })
  | .again => { s with dev := { s.dev with counts := [] } }.modMe (fun st =>
      { st with state := st.state.waiting (.retry (s.dev.strandAp s.curC s.curK)) })

/-- FETCH_FAULT: the strand's fetch fails. Where it would not fail, nothing happens. -/
def execFetchFault (s : State) : Out :=
  match fetchPair s.curC s.curK s.dev with
  | (.ok _, _) => .next s
  | (.error e, d) => .next ({ s with dev := d }.fetchTrap e)

/-- Fetch n words ahead of a strand's program counter (04 R126), as far as they can be fetched. -/
def Dev.fetchAhead (d : Dev) (c : ClusterId) (k : StrandIx) : Nat → Dev
  | 0 => d
  | n + 1 =>
    let d := d.fetchAhead c k n
    let st := d.strand c k
    let a := st.pc + BitVec.ofNat 64 (4 * n)
    if 16 ≤ n || (tget st.ahead a.toNat).isSome || st.pc.toNat % 4 != 0 then d
    else match fetchWord (d.strandCtx c k) [] st.pc a d with
      | (.ok w, d) => d.modStrand c k (fun st =>
          { st with ahead := tset (st.ahead.filter (fun e => decide (st.pc.toNat ≤ e.1) && decide (e.1 < st.pc.toNat + 64))) a.toNat w })
      | (.error _, _) => d

/-- May a strand take an asynchronous cause now? A FLOAD with SYNC of which a region has switched can no longer be without effect: it runs to its
end first (log 47). -/
def Dev.takesAsync (d : Dev) (c : ClusterId) (k : StrandIx) : Bool :=
  (d.strand c k).state.takesAsync &&
  (match (d.strand c k).state with
    | .wait (.sync _ _ rs) _ => rs.all (fun n => match clusterNo (n / 4) with
      | some h => (d.region h (rIx n)).token.isSome
      | none => true)
    | _ => true)

/-- The tokens of a FLOAD that still waits for its switches are withdrawn: what waited in its regions before it waits again (09 R299). -/
def Dev.cancelSync (d : Dev) (x : SyncLoad) : Dev :=
  x.undo.foldl (fun d u => match clusterNo (u.1 / 4) with
    | some h => d.modCl h (fun cl =>
        let cl := if u.2.1.isSome then cl.installPlanes (rIx u.1) true u.2.2 else cl
        cl.modReg (rIx u.1) (fun y => { y with token := u.2.1, recs := u.2.2 }))
    | none => d) d

/-- A pending asynchronous cause is taken at an instruction boundary with IE = 1 (09 R299, 14 R427): WFI and MONWAIT complete; an
outstanding RDF or TAKE is cancelled (04 R144); any other waiting instruction has no effect. -/
def Dev.asyncTrap (d : Dev) (c : ClusterId) (k : StrandIx) : Dev :=
  let st := d.strand c k
  match d.pending c k with
  | none => d
  | some r =>
    if !(st.ie && d.takesAsync c k) then d
    else
      let d := { d with reports := d.reports.filter (fun x => !(x.src = r.src && x.c = c && x.k = k)) }.taken r.src
      let d := match st.state with
        | .wait (.presence tag) _ => d.cancelReq c tag
        | .wait .monwait _ => d.disarm c k
        | .wait (.sync _ x _) _ => d.cancelSync x
        | .wait (.retry _) _ => d.dropReads c k
        | _ => d
      let done := match st.state with
        | .wait .wfi _ => true
        | .wait .monwait _ => true
        | _ => false
      d.modStrand c k (fun st => st.enterTrap r.cause r.sub r.val (if done then st.pc + 4 else st.pc))
def execAsyncTrapEntry (c : ClusterId) (k : StrandIx) (s : State) : Out := .next { s with dev := s.dev.asyncTrap c k }

/-- Is the strand ready to issue (05 R166), or to take an asynchronous cause (14 R426)? -/
def Dev.ready (d : Dev) (c : ClusterId) (k : StrandIx) : Bool :=
  let st := d.strand c k
  st.state = .run || st.state = .trap || (st.ie && d.takesAsync c k && (d.pending c k).isSome)

/-- The strand that issues: round-robin from the one after the last (05 R166). -/
def Dev.pick (d : Dev) (c : ClusterId) : Option StrandIx :=
  let l := (d.cl c).last
  [l + 1, l + 2, l + 3, l].find? (fun k => d.ready c k)

/-- The end of a turn: the increments of its reads are performed (01 R46). -/
def State.counted (s : State) : State := { s with dev := s.dev.flushCounts }

end Sys2Proof.Machine
end

