-- ==== Sys2Proof/Machine/FloatOps.lean ====
section
/-! DEFINITION. The FOP instructions (09 R320): FP32 on f registers in the strand's mode, flags and FP_TRAP (06 R205 to R207). -/

namespace Sys2Proof.Machine

/-- A byte of FPMODE, FPFLAGS or FPTRAPEN: region k at k, strand j at 4 + j (06 R202, R206). -/
def fpByte (w : Word) (i : Nat) : Nat := bits w.toNat (8 * i + 7) (8 * i)
def setFpByte (w : Word) (i v : Nat) : Word :=
  BitVec.ofNat 64 (w.toNat - fpByte w i * 2 ^ (8 * i) + v % 256 * 2 ^ (8 * i))

/-- The strand's byte of FPMODE (06 R202). -/
def State.fpMode (s : State) : Nat := fpByte (s.dev.cl s.curC).fpMode (4 + s.curK.val)

/-- The mode of an FOP instruction: DYN takes the strand's RND (09 R320). -/
def State.fopMode (s : State) (m : BitVec 3) : Nat := if m = 6 then s.fpMode % 8 else m.toNat

/-- Rounding of an FOP instruction: SR draws from the next state of SLFSR (09 R320). -/
def State.fopRnd (s : State) (m : BitVec 3) (sat : Bool) : Rnd := ⟨s.fopMode m, sat, bit s.fpMode 3, lfsrStep s.me.slfsr⟩

/-- The value of f[r], subnormals read as zero under the strand's FTZ (06 R201). -/
def State.fv (s : State) (r : FReg) : FV := Fmt.f32.read (bit s.fpMode 3) (s.me.getF r).toNat

/-- Complete an FOP instruction: its flags are set; where they meet the enabled ones it traps with its destination unwritten
(06 R206, R207); else `write` puts the result, and SR has stepped SLFSR. -/
def State.fop (s : State) (sr : Bool) (fl : Flags) (write : Strand → Strand) : State :=
  let i := 4 + s.curK.val
  let s := { s with dev := s.dev.modCl s.curC fun cl => { cl with fpFlags := setFpByte cl.fpFlags i (fpByte cl.fpFlags i ||| fl.toNat) } }
  let hit := BitVec.ofNat 5 (fpByte (s.dev.cl s.curC).fpTrapEn i) &&& fl
  if hit != 0 then s.trapHere .fpTrap 0 (hit.setWidth 64)
  else s.modMe fun st => ({ write st with slfsr := if sr then lfsrStep st.slfsr else st.slfsr }).advance 4

/-- An FOP instruction whose result is FP32 in f[d]. -/
def State.fopF (s : State) (d : FReg) (m : BitVec 3) (r : Nat × Flags) : Out :=
  .next (s.fop (s.fopMode m = 5) r.2 (fun st => st.setF d (BitVec.ofNat 32 r.1)))

def execFadd (d a b : FReg) (m : BitVec 3) (s : State) : Out :=
  s.fopF d m (fvAdd .f32 (s.fopRnd m false) (s.fv a) (s.fv b))
def execFsub (d a b : FReg) (m : BitVec 3) (s : State) : Out :=
  s.fopF d m (fvAdd .f32 (s.fopRnd m false) (s.fv a) (s.fv b).neg)
def execFmul (d a b : FReg) (m : BitVec 3) (s : State) : Out :=
  s.fopF d m (fvMul .f32 (s.fopRnd m false) (s.fv a) (s.fv b))
def execFfma (d a b : FReg) (m : BitVec 3) (s : State) : Out :=
  s.fopF d m (fvFma .f32 (s.fopRnd m false) (s.fv a) (s.fv b) (s.fv d))
def execFdiv (d a b : FReg) (m : BitVec 3) (s : State) : Out :=
  s.fopF d m (fvDiv .f32 (s.fopRnd m false) (s.fv a) (s.fv b))
def execFsqrt (d a : FReg) (m : BitVec 3) (s : State) : Out :=
  s.fopF d m (fvSqrt .f32 (s.fopRnd m false) (s.fv a))

/-- The number of an f register in an FCVT operand. -/
def fOf (r : GReg) : FReg := ⟨r.val % 16, by omega⟩

/-- FCVT (09 R320): AUX[1:0] selects the kind, AUX[2] is SAT. -/
def execFcvt (d a : GReg) (x : BitVec 3) (m : BitVec 3) (s : State) : Out :=
  let r := s.fopRnd m false
  let sr := decide (r.mode = 5)
  let kind := x.toNat % 4
  if kind = 0 then
    let (v, fl) := fvToInt 64 r.mode r.draw (bit x.toNat 2) (s.fv (fOf a))
    .next (s.fop sr fl (fun st => st.setG d (BitVec.ofInt 64 v)))
  else if kind = 1 then
    let (v, fl) := fvToInt 32 r.mode r.draw (bit x.toNat 2) (s.fv (fOf a))
    .next (s.fop sr fl (fun st => st.setG d (BitVec.ofInt 64 v)))
  else
    let v : Int := if kind = 2 then (s.g a).toInt else ((s.g a).setWidth 32).toInt
    let (p, fl) := intToFv .f32 r v
    .next (s.fop sr fl (fun st => st.setF (fOf d) (BitVec.ofNat 32 p)))

/-- FCMP (09 R320, 08 R269): NV where SIG meets a NaN. -/
def execFcmp (d : GReg) (a b : FReg) (c : BitVec 3) (sig : Bool) (s : State) : Out :=
  let o := fvCmp (s.fv a) (s.fv b)
  .next (s.fop false (if sig && o.isNone then flagNV else 0) (fun st => st.setG d (if fcmpCond c.toNat o then 1 else 0)))

def execFmvgf (d : FReg) (a : GReg) (s : State) : Out :=
  .next (s.modMe fun st => (st.setF d ((st.getG a).setWidth 32)).advance 4)
def execFmvfg (d : GReg) (a : FReg) (s : State) : Out := .next (s.writeG d ((s.me.getF a).setWidth 64))

end Sys2Proof.Machine
end

