-- ==== Sys2Proof/Machine/Images.lean ====
section
/-! DEFINITION. Weir images (05 R190, R191; 14 R437 to R449, R452), KSAVE and KREST (09 R313). -/

namespace Sys2Proof.Machine

/-! Writing an image -/

/-- Bytes padded with zeros to a multiple of n. -/
def padTo (n : Nat) (b : List Byte) : List Byte := b ++ List.replicate ((n - b.length % n) % n) 0

/-- A vector record (14 R439). -/
def vecRecord (v : VecVal) (ver : Nat) : List Byte := leBytes 32 v.bits.toNat ++ leBytes 4 v.mark.toNat ++ leBytes 4 (ver % 4)
/-- A packet record (14 R439). -/
def Packet.image (p : Packet) : List Byte :=
  padTo 8 (leBytes 4 p.hdr.toNat ++ leBytes 2 p.marks.toNat ++ leBytes 2 0 ++ p.elems.flatMap (fun e => leBytes 4 e.toNat))

/-- A section: TYPE, UNIT, SUB and its bytes (14 R438). -/
structure Section where
  ty : Nat
  unit : Nat
  sub : Nat
  data : List Byte
deriving DecidableEq, Repr

/-- The image is that of a stop at a weir, whose wrap is still to come (14 R437, ORIGIN 0). -/
def Region.atWeir (x : Region) : Bool := x.weir != .none

/-- REGION (14 R440). -/
def Region.section_ (x : Region) : Section :=
  ⟨1, 0, 0, leBytes 8 (x.period % 2 ^ 32 * 2 ^ 32 + x.roundLen % 2 ^ 17 * 2 ^ 15 + (x.w - 1) % 32 * 256 + x.fp.toNat) ++
    leBytes 8 x.round ++ List.replicate 48 0⟩

/-- The kernel is in a period of its own (05 R170). -/
def KState.runs (s : KState) : Bool := s = .running || s = .exiting || s = .retiring

/-- KERNEL (14 R440): before its wrap, the period that it ends at has been run (16 R467). The stage predicates recorded are those of its
S stages, the others 0 (16 R467; log 108). -/
def Kernel.section_ (k : Kernel) (i : Nat) (atWeir : Bool) : Section :=
  let sp := match k.cfg with | some c => c.stages k.sp | none => k.sp
  let w0 := k.recorded.code + b2n k.exit_ * 8 + sp.toNat * 256
  let w4 := k.id.asid.toNat + b2n k.id.sup * 65536 + k.c.val * 2 ^ 24 + k.k.val * 2 ^ 32
  ⟨2, 0, i, [w0, k.iters.toNat, k.trips.toNat + b2n k.noTrip * 2 ^ 32,
    k.periods + b2n (atWeir && k.recorded.runs), w4, k.id.rootWord, 0, 0].flatMap (leBytes 8)⟩

/-- A LIVE record declares something (14 R438). -/
def Live.some_ (l : Live) : Bool := l.rsz != 0 || l.v != 0 || l.p != 0 || l.links != 0 || l.prev || l.lfsr || l.w != 0
/-- Numbers of the bits set below n. -/
def setBits (n x : Nat) : List Nat := (List.range n).filter (fun i => bit x i)
/-- Length of a CELL section under a LIVE record (14 R441). -/
def Live.len (l : Live) : Nat :=
  64 + 40 * ((setBits 16 l.v.toNat).length + (setBits 40 l.w.toNat).length + (setBits 4 l.links.toNat).length + b2n l.prev) +
    8 * (setBits 7 l.p.toNat).length

/-- CELL (14 R441). -/
def Cell.section_ (x : Cell) (i : Nat) (k : Fin 4) (kn : Kernel) (ver : Nat) : Section :=
  let lv := vget x.live k
  let head := kn.rbase lv.rsz + lv.rog * 256 + lv.rsz * 65536
  ⟨3, i, k.val,
    leBytes 8 head ++ leBytes 8 (if lv.lfsr then (vget x.lfsr k).toNat else 0) ++ List.replicate 48 0 ++
    (setBits 16 lv.v.toNat).flatMap (fun j => vecRecord (vgetD x.v j VecVal.zero) 0) ++
    (setBits 40 lv.w.toNat).flatMap (fun j => vecRecord (vgetD x.w (physW kn lv j) VecVal.zero) 0) ++
    (setBits 7 lv.p.toNat).flatMap (fun j => leBytes 8 (vgetD x.p (j + 1) 0).toNat) ++
    (setBits 4 lv.links.toNat).flatMap (fun j =>
      if x.driven.getLsbD j then vecRecord (vgetD x.out j VecVal.zero) (vgetD x.out j VecVal.zero).ver.toNat
      else vecRecord VecVal.zero ver) ++
    (if lv.prev then vecRecord x.prev 0 else [])⟩

/-- RIM (14 R442). -/
def rimSection (l : List RimVal) : Section :=
  ⟨4, 0, 0, leBytes 8 l.length ++ l.flatMap (fun v => vecRecord v.val v.val.ver.toNat ++
    leBytes 8 (v.lane % 8 + v.station % 16 * 16 + v.dest % 16 * 256 + Nat.min (v.ofs - 1) 7 * 4096 + b2n v.arrived * 32768))⟩
/-- STORE (14 R442). -/
def storeSection (l : List Granule) : Section :=
  ⟨5, 0, 0, leBytes 8 l.length ++ l.flatMap (fun g => leBytes 8 (g.addr.toNat / 64 * 64 + b2n g.poison) ++ leBytes 8 g.mask.toNat ++
    leBytes 8 g.puts.toNat ++ leBytes 8 0 ++ leBytes 64 g.data.toNat)⟩

/-- INPORT and OUTPORT (14 R443). -/
def Port.section_ (p : Port) (i : Nat) (out : Bool) : Section :=
  if out then
    -- an END or a PREEMPT that waits is the last held packet (05 R183)
    let ks := (p.ready ++ p.marks).filter (fun k => decide (k.kind < 2)) ++ p.held ++ (p.ready ++ p.marks).filter (fun k => decide (2 ≤ k.kind)) ++
      p.open_.toList
    ⟨7, i, 0, leBytes 8 (ks.length % 65536 + b2n p.open_.isSome * 65536) ++ ks.flatMap Packet.image⟩
  else
    ⟨6, i, 0, leBytes 8 (p.taken % 2 ^ 32 + p.inq.length % 65536 * 2 ^ 32 + p.first % 16 * 2 ^ 48) ++ p.inq.flatMap Packet.image⟩

/-- The vectors of a command port as an image can hold them (14 R443): a packet of which a half is refused stands as one refused first
half, whose W0 has a reserved flag set (log 49). -/
def refusedVec (v : CmdVec) : CmdVec :=
  { v with val := { v.val with bits := (v.val.bits ||| BitVec.ofNat 256 (2 ^ 47)) &&& ~~~(BitVec.ofNat 256 (2 ^ 48)) } }
def cmdEntries : List CmdVec → List CmdVec
  | [] => []
  | [a] => [if a.refused then refusedVec a else a]
  | a :: b :: t =>
    if a.refused then refusedVec a :: cmdEntries (b :: t)
    else if pkExt (cmdWords a.val.bits none) then (if b.refused then refusedVec a :: cmdEntries t else a :: b :: cmdEntries t)
    else a :: cmdEntries (b :: t)
/-- The last of a port's vectors is a first half that waits for its second. -/
def halfWaits : List CmdVec → Bool
  | [] => false
  | [a] => !a.refused && pkExt (cmdWords a.val.bits none)
  | a :: b :: t => if !a.refused && pkExt (cmdWords a.val.bits none) then halfWaits t else halfWaits (b :: t)
/-- CMDPORT (14 R443). -/
def cmdSection (i : Nat) (l : List CmdVec) : Section :=
  let es := cmdEntries l
  ⟨8, i, 0, leBytes 8 (es.length % 64 + b2n (halfWaits es) * 64) ++ es.flatMap (fun v => vecRecord v.val 0 ++ leBytes 8 (v.round % 65536))⟩

/-- AGEN (14 R444). -/
def Agen.section_ (a : Agen) (i : Nat) : Section :=
  let bs := a.blocks.toList.filterMap id
  ⟨9, i, 0, bs.flatMap (fun b =>
    [b.pos.q, b.pos.idx, b.pos.tile % 2 ^ 32 + b2n b.pos.ended * 2 ^ 32, b.pos.map.length % 65536, b.pos.ord, 0, 0, 0].flatMap (leBytes 8) ++
      padTo 64 b.pos.map) ++
    leBytes 8 a.takes.length ++ a.takes.flatMap (fun t =>
      leBytes 8 t.val.toNat ++ leBytes 8 t.ord ++ leBytes 8 (t.block % 4 + b2n t.mark * 4))⟩

/-- NODE (14 R445). -/
def MNode.section_ (m : MNode) (i : Nat) : Section :=
  let four := fun (v : Vector Nat 16) => v.toList.flatMap (leBytes 2)
  ⟨10, i, 0,
    leBytes 8 (m.queue.length % 16 + m.replay % 512 * 2 ^ 16 + m.recorded.length % 65536 * 2 ^ 32) ++ leBytes 8 m.lfsr.toNat ++
    four m.gang ++ four m.opos ++ List.replicate 48 0 ++
    (List.range 4).flatMap (fun t => (List.range 16384).flatMap (fun e => leBytes 4 (m.elem t (e / 128) (e % 128)))) ++
    (List.range 4).flatMap (fun t => (List.range 2048).flatMap (fun e =>
      leBytes 1 (joinEls 1 ((List.range 8).map (fun b => b2n (m.marked t ((8 * e + b) / 128) ((8 * e + b) % 128))))))) ++
    m.queue.flatMap (fun h => leBytes 8 h.entry.toNat ++ leBytes 8 (h.p % 65536 + h.num % 16 * 65536)) ++
    m.recorded.flatMap (fun v => vecRecord v v.ver.toNat)⟩

/-- MNSTAT (02 R60). -/
def MemNode.stat (m : MemNode) : Nat := m.full.toNat * 2 ^ 48 + m.fptr.toNat * 2 ^ 44 + m.fcnt.toNat * 2 ^ 15
/-- The buffers of a memory node that an image holds (10 R338). -/
def MemNode.saved (m : MemNode) : List Nat :=
  (List.range m.nb.toNat).filter (fun k => m.isFull k || (m.fptr.toNat = k && m.fcnt != 0))
/-- MNODE (14 R446). -/
def Dev.mnodeSection (d : Dev) (c : ClusterId) (n : MnIx) : Section :=
  let m := d.memNode c n
  let u := m.bufu.toNat
  ⟨11, n.val, 0, leBytes 8 m.stat ++ leBytes 8 m.saved.length ++ m.saved.flatMap (fun k =>
    let base := d.bufBase c n k
    leBytes 1 k ++ List.replicate 63 0 ++ memReadN d.mem base (u * 4096) ++
      padTo 64 ((List.range (u * 8)).flatMap (fun e =>
        leBytes 1 (joinEls 1 ((List.range 8).map (fun b => b2n (smem d.poison (base / 64 + 8 * e + b))))))))⟩

/-- The saved entry: REVAL is set where a read failed (12 R398). -/
def TiedRec.saved (t : TiedRec) : List Byte := { t.entry with reval := if t.failed then 1 else t.entry.reval }.image t.num
/-- STEP (14 R447, 12 R398). -/
def Region.stepSection (x : Region) : Section :=
  ⟨12, 0, 0, leBytes 8 x.tied.length ++ x.tied.flatMap (fun t => t.saved ++ padTo 64 (t.map ++ t.stale)) ++
    (imageCmds x.tiedCmds).flatMap Cmd.record⟩

/-- A generator serves a kernel that is neither LOADED nor RETIRED (16 R467). -/
def Region.serves (x : Region) (a : Agen) : Bool :=
  a.blocks.toList.any (fun b => match b with
    | some b => (match x.kernelOf b with | some k => (vget x.kernels k).active | none => false)
    | none => false)
/-- The ports of a region, with their direction. -/
def Cluster.portsBound (cl : Cluster) (r : RegionIx) : List (PortIx × Bool) :=
  (List.finRange 16).filterMap (fun p => match (vget cl.fab.ports p).cfg with
    | some k => if k.region = r then some (p, k.out) else none
    | none => none)
/-- The memory nodes of a region: those of its matrix nodes that are configured. -/
def Dev.memNodesOf (d : Dev) (c : ClusterId) (r : RegionIx) : List MnIx :=
  (d.nodesOf c r).flatMap (fun n => [mnA n, mnB n].filter (fun m => (d.memNode c m).nb != 0))

/-- The sections of a region's image in their order; a part that is empty has none (14 R438). -/
def Dev.sections (d : Dev) (c : ClusterId) (r : RegionIx) : List Section :=
  let cl := d.cl c
  let x := d.region c r
  let ks := (List.finRange 4).filter (fun k => (vget x.kernels k).cfg.isSome)
  let opt := fun (l : List Section) => l.filter (fun s => s.data.any (· != 0))
  [x.section_] ++ ks.map (fun k => (vget x.kernels k).section_ k.val x.atWeir) ++
  (cl.cellsOf r.val).flatMap (fun i => (ks.filter (fun k => (vget (cl.cell i).live k).some_)).map (fun k =>
    (cl.cell i).section_ i k (vget x.kernels k) x.ver.toNat)) ++
  opt [rimSection x.rim, storeSection x.fill] ++
  opt (((cl.portsBound r).filter (fun p => !p.2)).map (fun p => (vget cl.fab.ports p.1).section_ p.1.val false)) ++
  opt (((cl.portsBound r).filter (fun p => p.2)).map (fun p => (vget cl.fab.ports p.1).section_ p.1.val true)) ++
  opt ((cl.cellsOf r.val).map (fun i => cmdSection i (cl.cell i).cmds)) ++
  ((d.agensOf c r).filter (fun g => x.serves (d.agen c g))).map (fun g => (d.agen c g).section_ g.val) ++
  (d.nodesOf c r).map (fun n => (d.node c n).section_ n.val) ++
  (d.memNodesOf c r).map (fun n => d.mnodeSection c n) ++
  opt [x.stepSection]

/-- The directory of sections from an offset on (14 R438). -/
def directory : Nat → List Section → List Byte
  | _, [] => []
  | off, s :: t =>
    leBytes 2 s.ty ++ leBytes 1 s.unit ++ leBytes 1 s.sub ++ leBytes 4 s.data.length ++ leBytes 8 off ++
      directory (off + (s.data.length + 63) / 64 * 64) t

/-- The weir image of a region (14 R437, R438). -/
def Dev.weirImage (d : Dev) (c : ClusterId) (r : RegionIx) : List Byte :=
  let cl := d.cl c
  let x := d.region c r
  let ss := d.sections c r
  let dirLen := (64 + 16 * ss.length + 63) / 64 * 64
  let body := padTo 64 (directory dirLen ss) ++ ss.flatMap (fun s => padTo 64 s.data)
  leBytes 4 0x4C4E5749 ++ leBytes 2 1 ++ leBytes 1 cl.layout.toNat ++ leBytes 1 r.val ++ leBytes 8 (64 + body.length) ++
    leBytes 4 x.loadId.toNat ++ leBytes 1 x.ver.toNat ++ leBytes 1 x.ver.toNat ++ leBytes 1 (b2n !x.atWeir) ++ leBytes 1 0 ++
    leBytes 2 ss.length ++ leBytes 2 0 ++ leBytes 4 (crc32 body) ++ leBytes 1 c.val ++ List.replicate 31 0 ++ body

/-- A unit's failed access as a trap of the strand. -/
def uaM {α : Type} (a : UA α) : M α := do
  let d ← get
  match a d with
  | (.ok v, d) => do
    set d
    return v
  | (.error (e, ga, _), d) => do
    set d
    throw (e.toErr ga)

/-- KSAVE (09 R313). -/
def execKsave (g a b : GReg) (s : State) : Out :=
  s.asStrand fun c k x => do
    let sel ← regM c k a
    let ga ← regM c k b
    supervisorM c k sel
    let (h, r, _) ← selectorM c sel
    imageAddrM x ga
    let d ← get
    let y := d.region h r
    if !y.configured then configTrap 7
    let _ ← contextM (d.strand c k).instance_ y true
    if y.st != .stopped then configTrap 3
    let img := d.weirImage h r
    uaM (writeBytes x ga img false)
    liftAcc ga (release c 3)
    setRegM c k g (BitVec.ofNat 64 img.length)
    return none

/-! Reading an image -/

/-- A 64-bit word, and a record, of a section. -/
def Section.word (s : Section) (i : Nat) : Nat := leNat ((s.data.drop (8 * i)).take 8)
def vecAt (b : List Byte) (o : Nat) : VecVal :=
  ⟨BitVec.ofNat 256 (leNat ((b.drop o).take 32)), BitVec.ofNat 32 (leNat ((b.drop (o + 32)).take 4)),
    BitVec.ofNat 2 (leNat ((b.drop (o + 36)).take 1))⟩
/-- n packet records; what is left must be nothing. LEN 0 of DATA means 16 elements (05 R177). -/
def packetsOf : Nat → List Byte → Option (List Packet)
  | 0, b => if b.isEmpty then some [] else none
  | n + 1, b =>
    let hdr := leNat (b.take 4)
    let len := if bits hdr 5 4 != 0 then 0 else if bits hdr 3 0 = 0 then 16 else bits hdr 3 0
    let size := (8 + 4 * len + 7) / 8 * 8
    if b.length < size then none
    else
      let p : Packet := ⟨BitVec.ofNat 32 hdr, (List.range len).map (fun i => BitVec.ofNat 32 (leNat ((b.drop (8 + 4 * i)).take 4))),
        BitVec.ofNat 16 (leNat ((b.drop 4).take 2))⟩
      (packetsOf n (b.drop size)).map (fun t => p :: t)

/-- The directory of an image: sections in rising order, within the image (14 R438). -/
def parseSections (img : List Byte) (n : Nat) : Option (List Section) :=
  let f := fun o k => leNat ((img.drop o).take k)
  let ents := (List.range n).map (fun i =>
    let o := 64 + 16 * i
    (f o 2, f (o + 2) 1, f (o + 3) 1, f (o + 4) 4, f (o + 8) 8))
  let keys := ents.map (fun e => e.1 * 65536 + e.2.1 * 256 + e.2.2.1)
  if decide (img.length < 64 + 16 * n) || !(keys.zip (keys.drop 1)).all (fun k => decide (k.1 < k.2)) ||
      ents.any (fun e => e.2.2.2.2 % 64 != 0 || decide (img.length < e.2.2.2.2 + e.2.2.2.1)) then none
  else some (ents.map (fun e => ⟨e.1, e.2.1, e.2.2.1, (img.drop e.2.2.2.2).take e.2.2.2.1⟩))

/-- The header of an image (14 R437), checked as far as it stands alone: LENGTH, at most a context slot (R449). -/
def weirHeaderOk (h : List Byte) : Bool :=
  let f := fun o k => leNat ((h.drop o).take k)
  h.length = 64 && f 0 4 = 0x4C4E5749 && f 4 2 = 1 && f 8 8 % 64 = 0 && decide (64 ≤ f 8 8) && decide (f 8 8 ≤ 2 ^ 24) &&
    decide (f 22 1 ≤ 1) && f 23 1 = 0 && f 26 2 = 0 && (h.drop 33).all (· = 0)

/-- A map snapshot's length within an AGEN section, block by block: the section's length up to the take record. -/
def agenLen (kinds : List Nat) (b : List Byte) : Option Nat :=
  match kinds with
  | [] => some 0
  | k :: t =>
    let n := leNat ((b.drop 24).take 2)
    let m := if k = 2 then (n + 63) / 64 * 64 else 0
    if b.length < 64 + m || (k != 2 && n != 0) then none
    else (agenLen t (b.drop (64 + m))).map (· + (64 + m))

/-- The tied entries and the records of a STEP section. -/
def parseStep : Nat → List Byte → Option (List (Vector Word 8 × TiedRec) × List (List Byte))
  | 0, b => (cutRecords (b.length / 128) b).map (fun r => ([], r))
  | n + 1, b =>
    let w : Vector Word 8 := Vector.ofFn (fun i => BitVec.ofNat 64 (leNat ((b.drop (8 * i.val)).take 8)))
    let tiles := (⟨true, w, 0, 0⟩ : StepEntry).tiles
    let m := (tiles + 7) / 8
    let size := 64 + (m + tiles + 63) / 64 * 64
    if b.length < size then none
    else (parseStep n (b.drop size)).map (fun r =>
      ((w, (⟨bits (pw w 6) 35 32, (b.drop 64).take m, (b.drop (64 + m)).take tiles, false, ⟨true, w, 0, 0⟩⟩ : TiedRec)) :: r.1, r.2))

/-- LEN of a section against the region's load (14 R449); KERNEL and CELL sections are those of the load. -/
def Dev.sectionOk (d : Dev) (c : ClusterId) (r : RegionIx) (s : Section) : Bool :=
  let cl := d.cl c
  let x := d.region c r
  let n := s.data.length
  match s.ty with
  | 1 => s.unit = 0 && s.sub = 0 && n = 64
  | 2 => s.unit = 0 && decide (s.sub < 4) && (vgetD x.kernels s.sub Kernel.reset).cfg.isSome && n = 64
  | 3 =>
    let lv := vgetD (cl.cell s.unit).live s.sub Live.none
    decide (s.sub < 4) && decide (s.unit < 64) && cellRegion cl.layout.toNat s.unit = r.val && lv.some_ && n = lv.len &&
      bits (s.word 0) 13 8 = lv.rog && bits (s.word 0) 21 16 = lv.rsz
  | 4 => s.unit = 0 && s.sub = 0 && n = 8 + 48 * s.word 0
  | 5 => s.unit = 0 && s.sub = 0 && n = 8 + 96 * s.word 0
  | 6 => s.sub = 0 && (cl.portsBound r).any (fun p => p.1.val = s.unit && !p.2) && (packetsOf (bits (s.word 0) 47 32) (s.data.drop 8)).isSome
  | 7 => s.sub = 0 && (cl.portsBound r).any (fun p => p.1.val = s.unit && p.2) && (packetsOf (bits (s.word 0) 15 0) (s.data.drop 8)).isSome
  | 8 => s.sub = 0 && decide (s.unit < 64) && cellRegion cl.layout.toNat s.unit = r.val && (cl.cell s.unit).cmdPort != 0 &&
      n = 8 + 48 * bits (s.word 0) 5 0 && decide (bits (s.word 0) 5 0 ≤ 32)
  | 9 => s.sub = 0 && (d.agensOf c r).any (fun g => g.val = s.unit) &&
      (match agenLen (((vgetD cl.fab.agens s.unit Agen.reset).blocks.toList.filterMap id).map AgBlock.kind) s.data with
        | some o => decide (o + 8 ≤ n) && n = o + 8 + 24 * leNat ((s.data.drop o).take 8)
        | none => false)
  | 10 => s.sub = 0 && (d.nodesOf c r).any (fun m => m.val = s.unit) && decide (bits (s.word 0) 3 0 ≤ 8) &&
      n = 128 + 262144 + 8192 + 16 * bits (s.word 0) 3 0 + 40 * bits (s.word 0) 47 32
  | 11 =>
    let u := (vgetD cl.memNodes s.unit MemNode.reset).bufu.toNat
    s.sub = 0 && (d.memNodesOf c r).any (fun m => m.val = s.unit) && n = 16 + bits (s.word 1) 15 0 * (64 + u * 4096 + (u * 8 + 63) / 64 * 64)
  | 12 => s.unit = 0 && s.sub = 0 && decide (s.word 0 ≤ 16) && (parseStep (s.word 0) (s.data.drop 8)).isSome
  | _ => false

/-- A section of an image, or nothing of it. -/
def sectionAt (ss : List Section) (ty unit sub : Nat) : Option Section := ss.find? (fun s => s.ty = ty && s.unit = unit && s.sub = sub)

/-- The checks of R449 on an image read from memory: its sections. -/
def Dev.parseWeir (d : Dev) (c : ClusterId) (r : RegionIx) (img : List Byte) : Option (List Section) :=
  let f := fun o k => leNat ((img.drop o).take k)
  let cl := d.cl c
  let x := d.region c r
  if !weirHeaderOk (img.take 64) || f 8 8 != img.length || f 28 4 != crc32 (img.drop 64) || f 6 1 != cl.layout.toNat || f 7 1 != r.val ||
      f 16 4 != x.loadId.toNat || f 20 1 != x.ver.toNat || f 21 1 != x.ver.toNat then none
  else match parseSections img (f 24 2) with
    | none => none
    | some ss =>
      let ks := (List.finRange 4).filter (fun k => (vget x.kernels k).cfg.isSome)
      if ss.all (d.sectionOk c r) && (sectionAt ss 1 0 0).isSome && ks.all (fun k => (sectionAt ss 2 0 k.val).isSome) &&
          (cl.cellsOf r.val).all (fun i => ks.all (fun k =>
            !(vget (cl.cell i).live k).some_ || (sectionAt ss 3 i k.val).isSome)) then some ss
      else none

/-- A kernel from its section (14 R440). -/
def Kernel.restore (k : Kernel) (s : Section) (own : ClusterId) (atWeir : Bool) (need : Nat) (inst : Option Nat) : Kernel :=
  let st := ([.loaded, .running, .exiting, .retiring, .retired, .stopped, .faulted, .starting] : List KState).getD (s.word 0 % 8) .loaded
  { k with
    st := st
    was := st
    exit_ := bit (s.word 0) 3
    sp := BitVec.ofNat 8 (bits (s.word 0) 15 8)
    iters := BitVec.ofNat 64 (s.word 1)
    trips := BitVec.ofNat 32 (s.word 2)
    noTrip := bit (s.word 2) 32
    periods := s.word 3 - b2n (atWeir && st.runs)
    id := ⟨bit (s.word 4) 16, BitVec.ofNat 16 (s.word 4), BitVec.ofNat 40 (s.word 5 / 4096), bit (s.word 5) 0⟩
    c := (clusterNo (bits (s.word 4) 30 24)).getD own
    k := ⟨bits (s.word 4) 33 32 % 4, Nat.mod_lt _ (by decide)⟩
    inst := inst
    need := need
    earliest := 0
    fence := 0 }

/-- A cell's live registers from a CELL section (14 R441). -/
def Cell.restore (x : Cell) (s : Section) (k : Fin 4) (kn : Kernel) : Cell :=
  let lv := vget x.live k
  let vs := setBits 16 lv.v.toNat
  let ws := setBits 40 lv.w.toNat
  let ps := setBits 7 lv.p.toNat
  let ls := setBits 4 lv.links.toNat
  let o1 := 64 + 40 * vs.length
  let o2 := o1 + 40 * ws.length
  let o3 := o2 + 8 * ps.length
  let o4 := o3 + 40 * ls.length
  let reg := fun (o n : Nat) => { vecAt s.data (o + 40 * n) with ver := 0 }
  { x with
    lfsr := if lv.lfsr then vset x.lfsr k (BitVec.ofNat 32 (s.word 1)) else x.lfsr
    v := vs.zipIdx.foldl (fun v j => vsetD v j.1 (reg 64 j.2)) x.v
    w := ws.zipIdx.foldl (fun w j => vsetD w (physW kn lv j.1) (reg o1 j.2)) x.w
    p := ps.zipIdx.foldl (fun p j => vsetD p (j.1 + 1) (BitVec.ofNat 32 (leNat ((s.data.drop (o2 + 8 * j.2)).take 4)))) x.p
    out := ls.zipIdx.foldl (fun v j => vsetD v j.1 (vecAt s.data (o3 + 40 * j.2))) x.out
    driven := x.driven ||| BitVec.ofNat 4 (ls.foldl (fun n j => n ||| 2 ^ j) 0)
    prev := if lv.prev then reg o4 0 else x.prev }

/-- Rim values from a RIM section. OFS 0 names both a value on the lane and one that joins it in the next cycle: the slot of the unit
that takes it tells which (log 50). -/
def Cluster.rimOf (cl : Cluster) (r : RegionIx) (w : Nat) (s : Section) : List RimVal :=
  (List.range (s.word 0)).map fun i =>
    let q := leNat ((s.data.drop (8 + 48 * i + 40)).take 8)
    let lane := bits q 2 0
    let st := bits q 7 4
    let dest := bits q 11 8
    let n := bits q 14 12
    let dist := if lane < 4 then (dest + 16 - st) % 16 else (st + 16 - dest) % 16
    let tk := cl.takers r.val w
    let due := fun (t : Nat) => tk.any (fun u => u.1.lane = lane && u.1.station = dest && u.1.cyc = t % w)
    ⟨vecAt s.data (8 + 48 * i), 0, lane, st, dest,
      if n = 0 then (if !bit q 15 && !due (dist + w - 1) && due dist then 1 else 0) else n + 1, bit q 15⟩

/-- Granules from a STORE section. -/
def granulesOf (k : Fin 4) (s : Section) : List Granule :=
  (List.range (s.word 0)).map fun i =>
    let b := s.data.drop (8 + 96 * i)
    let f := fun o n => leNat ((b.drop o).take n)
    ⟨BitVec.ofNat 64 (f 0 8 / 64 * 64), BitVec.ofNat 64 (f 8 8), BitVec.ofNat 8 (f 16 1), BitVec.ofNat 512 (f 32 64), bit (f 0 8) 0, k, false⟩

/-- A port from its section; no section is an empty port (14 R443). Output packets of a round that is not sealed are held. -/
def Port.restore (p : Port) (s : Option Section) (out : Bool) (round : Nat) : Port :=
  let p := { p with
    inq := []
    first := 0
    taken := 0
    held := []
    open_ := none
    ready := []
    marks := [] }
  match s with
  | none => p
  | some s =>
    if out then
      let ks := (packetsOf (bits (s.word 0) 15 0) (s.data.drop 8)).getD []
      let op := bit (s.word 0) 16 && !ks.isEmpty
      let body := if op then ks.dropLast else ks
      let sent := body.takeWhile (fun k => !((k.kind = 0 || k.kind = 1) && k.round = round % 65536))
      { p with ready := sent, held := body.drop sent.length, open_ := if op then ks.getLast? else none }
    else
      { p with
        inq := (packetsOf (bits (s.word 0) 47 32) (s.data.drop 8)).getD []
        first := bits (s.word 0) 51 48
        taken := bits (s.word 0) 31 0 }

/-- The kernel whose words send to a cell's command port. -/
def Cluster.cmdKernel (cl : Cluster) (r : RegionIx) (i : Nat) : Fin 4 :=
  (cl.kernelsWith r.val i (fun p s => (p.word s).op = .send && (p.word s).mod = 1)).headD 0
/-- The vectors of a command port from its section. -/
def Cluster.cmdsOf (cl : Cluster) (r : RegionIx) (round : Nat) (s : Section) : List CmdVec :=
  (List.range (bits (s.word 0) 5 0)).map fun i =>
    let n := leNat ((s.data.drop (8 + 48 * i + 40)).take 2)
    let back := (round + 65536 - n) % 65536
    ⟨vecAt s.data (8 + 48 * i), round - back, cl.cmdKernel r s.unit, false, back != 0⟩

/-- The blocks of a generator from an AGEN section (14 R444). -/
def agBlocksOf : List (Option AgBlock) → List Byte → List (Option AgBlock) × List Byte
  | [], b => ([], b)
  | none :: t, b =>
    let (l, b) := agBlocksOf t b
    (none :: l, b)
  | some x :: t, b =>
    let f := fun i => leNat ((b.drop (8 * i)).take 8)
    let n := f 3 % 65536
    let m := if x.kind = 2 then (n + 63) / 64 * 64 else 0
    let pos : AgPos := ⟨f 0, f 1, f 2 % 2 ^ 32, bit (f 2) 32, if x.kind = 2 then (b.drop 64).take n else [], f 4⟩
    let (l, b) := agBlocksOf t (b.drop (64 + m))
    (some { x with pos := pos, saved := pos, ahead := [], issue := pos } :: l, b)
def Agen.restore (a : Agen) (s : Section) : Agen :=
  let (bs, rest) := agBlocksOf a.blocks.toList s.data
  { a with
    blocks := Vector.ofFn (fun i => bs.getD i.val none)
    takes := (List.range (leNat (rest.take 8))).map (fun i =>
      let b := rest.drop (8 + 24 * i)
      let f := fun j => leNat ((b.drop (8 * j)).take 8)
      ⟨BitVec.ofNat 64 (f 0), f 1, f 2 % 4, bit (f 2) 2⟩)
    suspended := false }

/-- A matrix node from its section (14 R445, 10 R338): before a wrap inside a round, the recorded entries have been met. -/
def MNode.restore (m : MNode) (s : Section) (r : RegionIx) (x : Region) (atWeir : Bool) (rnd now : Nat) : MNode :=
  let f := fun o n => leNat ((s.data.drop o).take n)
  let q := bits (s.word 0) 3 0
  let cnt := bits (s.word 0) 24 16
  let nrec := bits (s.word 0) 47 32
  let o := 128 + 262144 + 8192
  { m with
    acc := Vector.ofFn (fun t => ((List.range 16384).map (fun e => (e, BitVec.ofNat 32 (f (128 + 65536 * t.val + 4 * e) 4)))).filter (fun x => x.2 != 0))
    marks := Vector.ofFn (fun t => (List.range 16384).filter (fun e => bit (f (128 + 262144 + 2048 * t.val + e / 8) 1) (e % 8)))
    queue := (List.range q).map (fun i =>
      let e : Word := BitVec.ofNat 64 (f (o + 16 * i) 8)
      ⟨e, f (o + 16 * i + 8) 2, f (o + 16 * i + 10) 1 % 16, rnd, now, none, 0, r, (x.owner (mxSlot e)).getD 0⟩)
    opos := Vector.ofFn (fun i => f (48 + 2 * i.val) 2)
    gang := Vector.ofFn (fun i => f (16 + 2 * i.val) 2)
    lfsr := BitVec.ofNat 32 (s.word 1)
    replay := cnt
    recorded := (List.range nrec).map (fun i => vecAt s.data (o + 16 * q + 40 * i))
    seen := if atWeir then cnt else 0
    seen0 := if atWeir then cnt else 0
    rpos := if atWeir then nrec else 0
    rpos0 := if atWeir then nrec else 0 }

/-- A memory node from its section (14 R446). -/
def Dev.restoreMnode (d : Dev) (c : ClusterId) (n : MnIx) (s : Section) : Dev :=
  let st := s.word 0
  let u := (d.memNode c n).bufu.toNat
  let size := 64 + u * 4096 + (u * 8 + 63) / 64 * 64
  let d := d.modCl c (fun cl => { cl with memNodes := vmod cl.memNodes n (fun m => { m with
    full := BitVec.ofNat 16 (bits st 63 48), fptr := BitVec.ofNat 4 (bits st 47 44), fcnt := BitVec.ofNat 13 (bits st 27 15), freeing := 0 }) })
  (List.range (bits (s.word 1) 15 0)).foldl (fun d i =>
    let b := s.data.drop (16 + size * i)
    let base := d.bufBase c n (leNat (b.take 1) % 16)
    let po := leNat ((b.drop (64 + u * 4096)).take (u * 8))
    { d with
      mem := memWriteN d.mem base ((b.drop 64).take (u * 4096))
      poison := (List.range (u * 64)).foldl (fun l a => sput l (base / 64 + a) (bit po a)) d.poison }) d

/-- The tied entries, their maps and staleness and the captured commands are placed on a cluster (12 R399): moved says that the image
comes from another cluster. A map that cannot be written there makes the next SIGCMP compute every tile (log 51). -/
def Dev.placeSteps (d : Dev) (c : ClusterId) (r : RegionIx) (moved : Bool) (es : List (Vector Word 8 × TiedRec)) (ks : List Cmd) : Dev :=
  let x : Ctx := d.tieCtx c r
  let d := es.foldl (fun d e =>
    let w : Vector Word 8 := vsetD (vsetD e.1 6 (BitVec.ofNat 64 (pw e.1 6 - bits (pw e.1 6) 37 32 * 2 ^ 32))) 7 0
    let far := moved && (match x.ap.decode (pw w 3) with | some (n, _) => n = 1 || n = 2 | none => false)
    let (ok, d) := match (do
        writeBytes x (vgetD w 4 0) e.2.map false
        writeBytes x (vgetD w 5 0) e.2.stale false : UA Unit) d with
      | (.ok _, d) => (true, d)
      | (.error _, d) => (false, d)
    d.setStepEntry c e.2.num ⟨true, w, pw e.1 7, if bit (pw e.1 6) 37 || far || !ok then 1 else 0⟩) d
  d.modQ c 6 (fun q => { q with cmds := q.cmds ++ ks, placed := (ks.getLast?.map (fun k => k.place + 1)).getD q.placed })

/-- The commands of a STEP section as they are placed (14 R448, R452). -/
def Dev.stepCmds (d : Dev) (c : ClusterId) (rs : List (List Byte)) : List Cmd :=
  let q := d.queue c 6
  q.placeAll (rs.map (fun r =>
    let k := Cmd.ofRecord r (d.cl c).ap 0 q.placed (if q.held then .suspended else .active)
    { k with refused := k.state = .queued && !packetOk 6 k.w }))

/-- An entry number that another region's entry holds, with a kernel that is not RETIRED (12 R399). -/
def Dev.entryHeld (d : Dev) (c : ClusterId) (r : RegionIx) (n : Nat) : Bool :=
  let e := vgetD (d.cl c).step.entries n ⟨false, Vector.replicate 8 0, 0, 0⟩
  (List.finRange 4).any (fun g => g != r && e.tiedTo g &&
    (d.region c g).kernels.toList.any (fun k => k.cfg.isSome && k.st != .retired))

/-- A region goes on from the state it holds (05 R191, 09 R313): its kernels return to the states recorded. Where KREST names no image, FPMODE stays
as software has left it (06 R202; DESIGN CHOICE, log 122). -/
def Dev.resumeStopped (d : Dev) (c : ClusterId) (r : RegionIx) : Dev :=
  let d := d.modRegion c r (fun x =>
    -- a kernel still STARTING begins at this weir when it starts a round (05 R174)
    let ks := x.kernels.map (fun k =>
      let k := { k with st := k.recorded }
      if x.weir = .none && x.period = 0 && d.mayBegin k then k.begin_ else k)
    { x with
      kernels := ks
      st := if ks.toList.any Kernel.live then .running else .idle
      weir := if ks.toList.any Kernel.live then x.weir else .none
      fcause := 0
      slot := 0
      stop := false
      preempted := false
      rotate := false
      tied := []
      tiedCmds := []
      ap := (d.cl c).ap
      ctxs := x.ctxs.map (fun t => if t.running then { t with stoppedBySup := false } else t) })
  d.retireKernels c r

/-- An image is applied to a region (05 R191, 14 R449). -/
def Dev.applyImage (d : Dev) (c : ClusterId) (r : RegionIx) (ss : List Section) (origin : Nat) (inst : Option Nat) : Dev :=
  let atWeir := origin = 0
  let rg := sectionAt ss 1 0 0
  let w0 := match rg with | some s => s.word 0 | none => 0
  let round := match rg with | some s => s.word 1 | none => 0
  let period := bits w0 63 32
  let w := bits w0 12 8 + 1
  let d := d.modRegion c r (fun x => { x with
    w := w
    roundLen := bits w0 31 15
    period := period
    round := round
    fp := BitVec.ofNat 8 w0
    weir := if atWeir then .wrap else .none
    origin := !atWeir
    flights := []
    left := 0
    flags := 0
    nflags := 0
    commit := none
    outs := []
    settled := []
    kernels := Vector.ofFn (fun k => match sectionAt ss 2 0 k.val with
      | some s => (vget x.kernels k).restore s c atWeir (if period = 0 then x.sealedN else x.sealedN + 1) inst
      | none => vget x.kernels k) })
  let cl := d.cl c
  let x := d.region c r
  let fab := cl.fab
  let cl : Cluster := { cl with
    fpMode := fpByteSet cl.fpMode r.val (w0 % 256)
    fab := { fab with
      cells := Vector.ofFn (fun i =>
        let y := vget fab.cells i
        if cellRegion cl.layout.toNat i.val != r.val then y
        else
          let y := { y with out := Vector.replicate 4 VecVal.zero, driven := 0, cmds := match sectionAt ss 8 i.val 0 with
            | some s => cl.cmdsOf r round s
            | none => [] }
          (List.finRange 4).foldl (fun y k => match sectionAt ss 3 i.val k.val with
            | some s => y.restore s k (vget x.kernels k)
            | none => y) y)
      ports := Vector.ofFn (fun p =>
        let q := vget fab.ports p
        match q.cfg with
        | some k => if k.region = r then q.restore (sectionAt ss (if k.out then 7 else 6) p.val 0) k.out round else q
        | none => q)
      agens := Vector.ofFn (fun g => match sectionAt ss 9 g.val 0 with
        | some s => (vget fab.agens g).restore s
        | none => vget fab.agens g)
      nodes := Vector.ofFn (fun n => match sectionAt ss 10 n.val 0 with
        | some s => (vget fab.nodes n).restore s r x atWeir (w0 % 8) d.now
        | none => vget fab.nodes n) } }
  let cl := cl.modReg r (fun y => { y with
    rim := match sectionAt ss 4 0 0 with
      | some s => cl.rimOf r w s
      | none => []
    fill := match sectionAt ss 5 0 0 with
      | some s => granulesOf (y.resident.headD 0) s
      | none => [] })
  let d := d.setCl c cl
  let d := (List.finRange 24).foldl (fun d n => match sectionAt ss 11 n.val 0 with
    | some s => d.restoreMnode c n s
    | none => d) d
  (d.resumeStopped c r).capture c r

/-- KREST with an image (09 R313, 12 R399, 14 R449, R452). -/
def restoreM (h : ClusterId) (r : RegionIx) (img : List Byte) (inst : Option Nat) : M Unit := do
  let d ← get
  match d.parseWeir h r img with
  | none => configTrap 6
  | some ss => do
    let moved := leNat ((img.drop 32).take 1) != h.val
    let origin := leNat ((img.drop 22).take 1)
    let (es, rs) := match sectionAt ss 12 0 0 with
      | some s => (parseStep (s.word 0) (s.data.drop 8)).getD ([], [])
      | none => ([], [])
    if es.any (fun e => d.entryHeld h r e.2.num) then configTrap 6
    let ks := d.stepCmds h rs
    -- the probe of a SIGCMP or SHDUPD uses the entries as restored
    let d' := { d with clusters := (d.placeSteps h r moved es []).clusters }
    match d'.probeAll h 6 ks with
    | (false, p) => do
      set { d with parts := p.parts, mem := p.mem, lls := p.lls, plru := p.plru, dies := p.dies }
      configTrap 9
    | (true, _) => do
      let d := (d.applyImage h r ss origin inst)
      set (d.placeSteps h r moved es (ks.map (fun k => { k with faulted := false })))

/-- KREST with g[b] = 0: the region resumes from the image it holds, which becomes its shadow image (14 R430). -/
def resumeHeldM (h : ClusterId) (r : RegionIx) : M Unit := do
  let d ← get
  let x := d.region h r
  if x.tied.any (fun t => d.entryHeld h r t.num) then configTrap 6
  let q := d.queue h 6
  let ks := q.placeAll (x.tiedCmds.map (fun k => { k with
    state := if k.state = .queued then .queued else if q.held then .suspended else .active
    floor := q.placed
    ap := (d.cl h).ap }))
  match d.probeAll h 6 ks with
  | (false, d) => do
    set d
    configTrap 9
  | (true, d) => do
    let es := x.tied.map (fun t =>
      ((Vector.ofFn (fun i => BitVec.ofNat 64 (leNat ((t.saved.drop (8 * i.val)).take 8))) : Vector Word 8), t))
    let d := d.placeSteps h r false es (ks.map (fun k => { k with faulted := false }))
    let d := d.modCl h (fun cl => { cl with fab := { cl.fab with cells := Vector.ofFn (fun i =>
      let y := vget cl.fab.cells i
      if cellRegion cl.layout.toNat i.val = r.val then y.linksLive x.kernels x.ver.toNat else y) } })
    set ((d.resumeStopped h r).capture h r)

/-- KREST (09 R313; 13 R424 for a control strand). -/
def execKrest (a b : GReg) (s : State) : Out :=
  s.asStrand fun c k x => do
    let sel ← regM c k a
    let ga ← regM c k b
    supervisorM c k sel
    let (h, r, _) ← selectorM c sel
    if ga != 0 then imageAddrM x ga
    let d ← get
    let y := d.region h r
    if !y.configured then configTrap 7
    let _ ← contextM (d.strand c k).instance_ y true
    -- what a supervisor strand restores is the running context's, if there is one (13 R424)
    let inst := match y.ctxs.find? (·.running) with | some t => some t.inst | none => (d.strand c k).instance_
    if !(y.st = .stopped || (ga != 0 && y.st = .idle && !y.live)) then configTrap 3
    if ga = 0 then resumeHeldM h r
    else
      let hd ← imageM x ga 64
      if !weirHeaderOk hd then configTrap 6
      let img ← imageM x ga (leNat ((hd.drop 8).take 8))
      modify (fun d => d.acquire c k)
      restoreM h r img inst
    return none

end Sys2Proof.Machine
end

