-- ==== Sys2Proof/Machine/TransRegs.lean ====
section
/-! DEFINITION. The translation block (01 R36 to R46): fault queue control, retry, invalidation, access counters. -/

namespace Sys2Proof.Machine

/-- The clusters of a partition, in order (17 R484). -/
def Dev.clustersOf (d : Dev) (p : PartId) : List ClusterId := (List.finRange 72).filter (fun c => d.partOf c = some p)

/-- The whole header of the fault queue (01 R40): words 2 to 7 are zero. A queue outside class 0 sets QERR (R39). -/
def Dev.fqWholeHeader (d : Dev) (p : PartId) : Dev :=
  if !d.fqInside p then d.modTr p (fun t => { t with qErr := true })
  else
    let base := (d.part p).tr.fqBase.toNat * 64
    let d := (d.fqHead p).fqOvf p
    ([2, 3, 4, 5, 6, 7] : List Nat).foldl (fun d i => d.physWrite8 p (base + 8 * i) 0) d

/-- FQCTL (01 R39, R40, R43): while EN = 1 a write acts only on EN; a new BASE or LOG2SIZE zeroes the counters. -/
def Dev.writeFqctl (d : Dev) (p : PartId) (v : Word) : Dev :=
  let t := (d.part p).tr
  let en := bit v.toNat 63
  if t.fqEn then (if en then d else d.modTr p (fun t => { t with fqEn := false, merge := [] }))
  else
    let log2 : BitVec 5 := BitVec.ofNat 5 (bits v.toNat 60 56)
    let base : BitVec 46 := BitVec.ofNat 46 (bits v.toNat 51 6)
    let d := if log2 = t.fqLog2 && base = t.fqBase then d
      else d.modTr p (fun t => { t with
        fqLog2 := log2, fqBase := base, fqHead := 0, fqOvfCount := 0, fqTail := 0, fqClose := 0, merge := [] })
    if en then (d.modTr p (fun t => { t with fqEn := true })).fqWholeHeader p else d
def execFqctl (n : PartId) (v : Word) (s : State) : Out := .next { s with dev := s.dev.writeFqctl n v }

/-- FQTAIL (01 R39): above HEAD or below TAIL it is ignored and sets TERR. -/
def Dev.writeFqtail (d : Dev) (p : PartId) (v : Word) : Dev :=
  d.modTr p fun t => if v.ult t.fqTail || t.fqHead.ult v then { t with terr := true } else { t with fqTail := v }
def execFqtail (n : PartId) (v : Word) (s : State) : Out := .next { s with dev := s.dev.writeFqtail n v }

/-- FQCLOSE (01 R39, R42): never goes back, and never beyond HEAD. -/
def Dev.writeFqclose (d : Dev) (p : PartId) (v : Word) : Dev :=
  d.modTr p fun t =>
    let n := if t.fqHead.ult v then t.fqHead else v
    if t.fqClose.ult n then { t with fqClose := n } else t
def execFqclose (n : PartId) (v : Word) (s : State) : Out := .next { s with dev := s.dev.writeFqclose n v }

/-- A region that is FAULTED replays its round (14 R429 class 0). -/
def Dev.retryRegion (d : Dev) (c : ClusterId) (r : RegionIx) : Dev :=
  if (d.region c r).st != .faulted then d
  else
    (d.modRegion c r (fun x => { x with
      st := if x.stop || x.preempted then .stopping else .running
      fcause := 0
      kernels := x.kernels.map (fun k => if k.st = .faulted then { k with st := k.was } else k) })).retireKernels c r

/-- Every unit of a cluster that is suspended on a translation fault repeats its access (01 R44): commands, generators, draining writes,
regions. -/
def Dev.retryCluster (d : Dev) (c : ClusterId) : Dev :=
  let d := d.retryCmds c
  let d := d.modCl c (fun cl => { cl with fab := { cl.fab with
    agens := cl.fab.agens.map (fun a =>
      if a.suspended then { a with
        suspended := false
        blocks := a.blocks.map (Option.map (fun b =>
          let good := b.ahead.takeWhile (fun v => !v.walk)
          { b with ahead := good, issue := (good.getLast?.map (·.after)).getD b.pos })) }
      else a)
    regions := cl.fab.regions.map (fun x => { x with
      drain := x.drain.map (fun h => { h with grans := h.grans.map (fun g => { g with waiting := false }) }) }) } })
  (List.finRange 4).foldl (fun d r => d.retryRegion c r) d

/-- FQRETRY (01 R44). -/
def Dev.writeFqretry (d : Dev) (p : PartId) (v : Word) : Dev :=
  if bit v.toNat 0 then (d.clustersOf p).foldl Dev.retryCluster d else d
def execFqretry (n : PartId) (v : Word) (s : State) : Out := .next { s with dev := s.dev.writeFqretry n v }

/-- TLBINV (01 R36): an invalidation is written. -/
def Dev.addInval (d : Dev) (p : PartId) (i : Inval) : Dev := d.modTr p (fun t => { t with invals := t.invals ++ [i] })
def execTlbinvVa (n : PartId) (asid : BitVec 16) (vpn : BitVec 36) (s : State) : Out :=
  .next { s with dev := s.dev.addInval n ⟨0, asid, vpn⟩ }
def execTlbinvAsid (n : PartId) (asid : BitVec 16) (s : State) : Out := .next { s with dev := s.dev.addInval n ⟨1, asid, 0⟩ }
def execTlbinvAll (n : PartId) (s : State) : Out := .next { s with dev := s.dev.addInval n ⟨2, 0, 0⟩ }

/-- The entry of a slice that an invalidation names (01 R36). -/
def Inval.namesTlb (i : Inval) (t : TlbEntry) : Bool :=
  let g := bit t.entry.toNat 6
  match i.kind.toNat with
  | 0 => t.vpn = i.vpn.toNat / 2 ^ (9 * t.level) && (g || t.asid = i.asid)
  | 1 => !g && t.asid = i.asid
  | _ => true
/-- The walk-cache entry that an invalidation names. -/
def Inval.namesWalk (i : Inval) (w : WalkEntry) : Bool :=
  match i.kind.toNat with
  | 0 => w.vpn = i.vpn.toNat / 2 ^ (9 * w.level) && w.asid = i.asid
  | 1 => w.asid = i.asid
  | _ => true

/-- Remove the entries of a partition that a list of invalidations names, on every die. -/
def Dev.dropEntries (d : Dev) (p : PartId) (l : List Inval) : Dev :=
  { d with dies := d.dies.map (fun x => { x with
      tlb := x.tlb.filter (fun t => !(t.part = p && l.any (fun i => i.namesTlb t)))
      walk := x.walk.filter (fun w => !(w.part = p && l.any (fun i => i.namesWalk w))) }) }

/-- An engine of the partition still works with pages translated before (01 R37). -/
def Dev.pagesInUse (d : Dev) (c : ClusterId) : Bool :=
  (d.cl c).eng.toList.any (fun q => !q.groups.isEmpty || q.cmds.any (fun k => k.state = .active && !k.pages.isEmpty))

/-- A signal operation of the cluster waits that has its address translated. -/
def Dev.signalsInUse (d : Dev) (c : ClusterId) : Bool :=
  (d.cl c).signals.any (fun s => match s.t with | .phys _ _ _ _ => true | _ => false)

/-- INVALIDATION_COMPLETE (01 R37): the entries named are gone, and every access translated by them is performed at DEVICE scope. -/
def Dev.invalComplete (d : Dev) (p : PartId) : Dev :=
  let l := (d.part p).tr.invals
  let cs := d.clustersOf p
  if l.isEmpty || cs.any d.pagesInUse || cs.any d.signalsInUse then d
  else
    let d := cs.foldl (fun d c => (d.drain c).modCl c (fun cl => { cl with
      eng := cl.eng.map (fun q => { q with cmds := q.cmds.map (fun k => { k with pages := [] }) }) })) d
    (d.dropEntries p l).modTr p (fun t => { t with invals := [] })
def execInvalidationComplete (n : PartId) (s : State) : Out := .next { s with dev := s.dev.invalComplete n }

/-- ACCSYNC (01 R45, R46): a write of 1 starts a synchronisation. -/
def Dev.writeAccsync (d : Dev) (p : PartId) (v : Word) : Dev :=
  if bit v.toNat 0 then d.modTr p (fun t => { t with accSync := true }) else d
def execAccsync (n : PartId) (v : Word) (s : State) : Out := .next { s with dev := s.dev.writeAccsync n v }
/-- ACCSYNC_COMPLETE (01 R46): every increment of an earlier translation is performed. Buffered writes leave, and are counted; while a command, a
merge group or a signal operation still holds a translated address whose access is to come, the synchronisation goes on. -/
def Dev.accsyncComplete (d : Dev) (p : PartId) : Dev :=
  let cs := d.clustersOf p
  if cs.any d.pagesInUse || cs.any d.signalsInUse then d
  else (cs.foldl Dev.drain d).modTr p (fun t => { t with accSync := false })
def execAccsyncComplete (n : PartId) (s : State) : Out := .next { s with dev := s.dev.accsyncComplete n }

end Sys2Proof.Machine
end

