-- ==== Sys2Proof/Machine/MemRegs.lean ====
section
/-! DEFINITION. The memory system's own steps: writes performed at their homes (04 R121, 03 R97), walks (01 R30), refreshes (03 R99), and
the retirement of a pseudo-channel (03 R113 to R118). -/

namespace Sys2Proof.Machine

/-- An older buffered write to a common location goes to the home first (04 R123). -/
def Dev.pendingHeld (d : Dev) (c : ClusterId) (i : Nat) (w : Pending) : Bool := ((d.cl c).buffer.take i).any (fun o => o.overlaps w)

/-- The buffered write that makes a whole line with the i-th: it goes with it, if it comes next for its home (03 R91). -/
def Dev.mateOf (d : Dev) (c : ClusterId) (i : Nat) (w : Pending) : Option (Nat × Pending) :=
  match (d.cl c).buffer.zipIdx.find? (fun o => o.2 != i && o.1.lineMates w) with
  | some o => if d.pendingHeld c o.2 o.1 then none else some (o.2, o.1)
  | none => none

/-- HOME_REQUEST: the i-th buffered write of a cluster is performed at its home, and with it the one that completes its line; `ecc` is what the
ECC finds in the code words of an atom that the home reads from DRAM for it, where no error is latent there (03 R97). -/
def Dev.homeRequest (d : Dev) (c : ClusterId) (i : Nat) (ecc : Ecc) : Dev :=
  match (d.cl c).buffer[i]? with
  | none => d
  | some w =>
    if d.pendingHeld c i w then d
    else
      match d.mateOf c i w with
      | some (j, o) => (d.modCl c (fun cl => { cl with buffer := (cl.buffer.eraseIdx (Nat.max i j)).eraseIdx (Nat.min i j) })).performLine c w o
      | none =>
        let d := d.modCl c (fun cl => { cl with buffer := cl.buffer.eraseIdx i })
        match ecc, w.dest, w.cells with
        | .clean, _, _ => d.perform c w
        | e, .phys p _ _, (a, _) :: _ =>
          let fresh := (codeWords (d.physKey p (a / 64 * 64) / 64)).filter (fun x => (tget d.dramErr x).isNone)
          let d := { d with dramErr := fresh.foldl (fun t x => tset t x (e == Ecc.uncorrectable)) d.dramErr }.perform c w
          { d with dramErr := fresh.foldl terase d.dramErr }
        | _, _, _ => d.perform c w
def execHomeRequest (c : ClusterId) (i : Nat) (ecc : Ecc) (s : State) : Out := .next { s with dev := s.dev.homeRequest c i ecc }

/-- The identity under which a unit's walk is made, and its bit in a fault record (01 R20, R40); a strand's walk records nothing. -/
def Dev.walkIdent (d : Dev) (c : ClusterId) (u : Unit') : Option (Ident × Option Nat) :=
  match u with
  | .strand k => some ((d.strand c k).ident, none)
  | .region r => (d.region c r).resident.head?.map (fun k => ((vget (d.region c r).kernels k).id, some 40))
  | .queue q => ((d.queue c q).cmds.find? (fun k => k.state = .active)).map (fun k => (k.id, some (queueAgent q)))

/-- A unit whose walk has failed and is recorded is suspended (01 R38): a region voids its round, a command holds its record. -/
def Dev.suspendUnit (d : Dev) (c : ClusterId) (u : Unit') (row : Bool) (va : Nat) (code : Nat) : Dev :=
  match u with
  | .strand _ => d
  | .region r =>
    let x := d.region c r
    if x.st = .running || x.st = .frozen || x.st = .stopping then
      d.faultRegion c r ⟨1, ((d.agensOf c r).headD 0).val, (XFault.walk code 0).cause, true, BitVec.ofNat 64 (x.ap.lo (if row then 4 else 3) + va)⟩
    else d
  | .queue q =>
    match (d.queue c q).cmds.find? (fun k => k.state = .active) with
    | some k => d.modCmd c q k.key (fun k => { k with state := .suspended, faulted := true })
    | none => d

/-- PAGE_WALK: a translation on behalf of a unit (01 R30 to R35); one that fails is recorded and suspends the unit, but for a strand's (R38). -/
def Dev.pageWalk (d : Dev) (c : ClusterId) (u : Unit') (row : Bool) (va : Nat) (kind : AccKind) : Dev :=
  match d.partOf c, d.walkIdent c u with
  | some p, some (id, agent) =>
    match d.translate (dieOf c) p id row kind va, agent with
    | (.fail code lv, d), some a => (d.recordFault p c id.asid va row (kind == .write) code lv a).suspendUnit c u row va code
    | (_, d), _ => d
  | _, _ => d
def execPageWalk (c : ClusterId) (u : Unit') (row : Bool) (va : BitVec 52) (kind : AccKind) (s : State) : Out :=
  .next { s with dev := s.dev.pageWalk c u row va.toNat kind }

/-- REFRESH (03 R99): a held bank postpones it, up to 8; the eighth closes the row, and the bank is refreshed. Data is unchanged. -/
def Dev.refreshBank (d : Dev) (bank : Nat) (held : Bool) : Dev :=
  let n := (tget d.refresh bank).getD 0 + 1
  if held && n < 8 then { d with refresh := tset d.refresh bank n } else { d with refresh := terase d.refresh bank }
def execRefresh (stack : Fin 12) (pc : Fin 96) (bank : Fin 64) (held : Bool) (s : State) : Out :=
  .next { s with dev := s.dev.refreshBank ((96 * stack.val + pc.val) * 64 + bank.val) held }

/-! Retirement -/

/-- The row-region piece of a partition that lies on a pseudo-channel (03 R101, R114): the piece's nominal pseudo-channel. -/
def Dev.rowPiece (d : Dev) (p : PartId) (pcx : Nat) : Option Nat :=
  let owns := fun (n : Nat) => (vgetD d.splitOwner (n / 96) 0xF).toNat = p.val && decide (0 < (vgetD d.splitRsub (n / 96) 0).toNat)
  match (d.part p).mb.pieces.find? (fun e => e.2 = pcx) with
  | some e => some e.1
  | none => if pcx < 1152 && owns pcx && (tget (d.part p).mb.pieces pcx).isNone then some pcx else none

/-- A spare pseudo-channel of a partition (03 R113). -/
def Dev.isSpare (d : Dev) (p : PartId) (pcx : Nat) : Bool :=
  let g := (vgetD d.groups (pcx / 8) 0x0F).toNat
  pcx < 1152 && g % 16 = p.val && g / 16 % 4 = 1 && (vgetD d.splitRsub (pcx / 96) 0).toNat = 0

/-- The check of a GO (03 R113). -/
def Dev.retireErr (d : Dev) (p : PartId) (pcx spare : Nat) : Nat :=
  let mb := (d.part p).mb
  if !(mb.cmap.contains pcx) && (d.rowPiece p pcx).isNone then 1
  else if !d.isSpare p spare then 2
  else if mb.cmap.contains spare || mb.pieces.any (fun e => e.2 = spare) then 3
  else if mb.retiring.isSome then 4 else 0

/-- CHRETIRE (03 R113, R114): the RW fields take the write; GO starts a retirement, or is refused and changes nothing else. -/
def Dev.writeChretire (d : Dev) (p : PartId) (v : Word) : Dev :=
  let pcx := bits v.toNat 10 0
  let spare := bits v.toNat 26 16
  let d := d.modMb p (fun b => { b with chSpare := BitVec.ofNat 11 spare, chPcx := BitVec.ofNat 11 pcx })
  if !bit v.toNat 63 then d
  else
    let e := d.retireErr p pcx spare
    d.modMb p (fun b => { b with chErr := BitVec.ofNat 3 e, retiring := if e = 0 then some (pcx, spare) else b.retiring })
def execChretire (n : PartId) (v : Word) (s : State) : Out := .next { s with dev := s.dev.writeChretire n v }

/-- The rows of a pseudo-channel that a partition uses (03 R114 step 3). -/
def Dev.rowUsed (d : Dev) (p : PartId) (pcx row : Nat) : Bool :=
  ((d.part p).mb.cmap.contains pcx && decide (row < d.rmin p)) ||
    (match d.rowPiece p pcx with
     | some n => decide (512 * (16 - (vgetD d.splitRsub (n / 96) 0).toNat) ≤ row)
     | none => false)

/-- Copy marks of used rows from one pseudo-channel to another: keys in units of 2^u bytes. -/
def copyKeys (used : Nat → Bool) (src dst u : Nat) (l : List Nat) : List Nat :=
  let mine := fun (x k : Nat) => decide (x * 2 ^ 29 ≤ k * 2 ^ u) && decide (k * 2 ^ u < (x + 1) * 2 ^ 29)
  let row := fun (k : Nat) => k * 2 ^ u / 1024 % 8192
  let kept := l.filter (fun k => !(mine dst k && used (row k)))
  (l.filter (fun k => mine src k && used (row k))).foldl (fun l k => sins l (k + dst * 2 ^ (29 - u) - src * 2 ^ (29 - u))) kept

/-- The same for the entries of a table. -/
def copyTab {α : Type} (used : Nat → Bool) (src dst u : Nat) (l : Table α) : Table α :=
  let mine := fun (x k : Nat) => decide (x * 2 ^ 29 ≤ k * 2 ^ u) && decide (k * 2 ^ u < (x + 1) * 2 ^ 29)
  let row := fun (k : Nat) => k * 2 ^ u / 1024 % 8192
  let kept := l.filter (fun e => !(mine dst e.1 && used (row e.1)))
  (l.filter (fun e => mine src e.1 && used (row e.1))).foldl (fun l e => tset l (e.1 + dst * 2 ^ (29 - u) - src * 2 ^ (29 - u)) e.2) kept

/-- A measurement register's value of bytes, and back. -/
def measureBytes (v : BitVec 384) : List Byte := leBytes 48 v.toNat
def measureOf (l : List Byte) : BitVec 384 := BitVec.ofNat 384 (leNat (sha384 l))

/-- RETIREMENT_COMPLETE (03 R114 steps 2 to 5, R116, R118): the rows are copied with check bits and poison, the map names the spare, the
version and the measurement move on, and held requests go again. -/
def Dev.retireDone (d : Dev) (p : PartId) : Dev :=
  match (d.part p).mb.retiring with
  | none => d
  | some (pcx, spare) =>
    let used := d.rowUsed p pcx
    let piece := d.rowPiece p pcx
    let lo := pcx * 2 ^ 29
    let mine := d.mem.filter (fun c => decide (lo ≤ c.1) && decide (c.1 < lo + 2 ^ 29) && used (c.1 / 1024 % 8192))
    let cleared := d.mem.filter (fun c => !(decide (spare * 2 ^ 29 ≤ c.1) && decide (c.1 < (spare + 1) * 2 ^ 29) && used (c.1 / 1024 % 8192)))
    let ver := (d.part p).mb.mapVer + 1
    let d : Dev := { d with
      mem := memWriteCells cleared (mine.map (fun c => (c.1 + spare * 2 ^ 29 - lo, c.2)))
      poison := copyKeys used pcx spare 6 d.poison
      enc := copyTab used pcx spare 6 d.enc
      dramErr := copyTab used pcx spare 4 d.dramErr
      monitors := d.monitors.map (fun m =>
        if decide (lo ≤ m.granule * 64) && decide (m.granule * 64 < lo + 2 ^ 29) && used (m.granule * 64 / 1024 % 8192) then
          { m with granule := m.granule + spare * 2 ^ 23 - pcx * 2 ^ 23 } else m)
      splitRetd := match piece with
        | some n => vsetD d.splitRetd (n / 96) true
        | none => d.splitRetd }
    let d := d.modMb p (fun b => { b with
      retiring := none
      mapVer := ver
      cmap := b.cmap.map (fun x => if x = pcx then spare else x)
      pieces := match piece with
        | some n => tset b.pieces n spare
        | none => b.pieces
      retired := b.retired ++ [(pcx, spare, ver.toNat)] })
    d.modPart p (fun x => { x with
      measured := measureOf (measureBytes x.measured ++ leBytes 16 (leNat (Config.configBytes [pcx, spare, ver.toNat]))) })
def execRetirementComplete (n : PartId) (s : State) : Out := .next { s with dev := s.dev.retireDone n }

end Sys2Proof.Machine
end

