-- ==== Sys2Proof/Machine/Message.lean ====
section
/-! DEFINITION. Messages between clusters (09 R318, R319; 11 R377 to R380). -/

namespace Sys2Proof.Machine

/-- The spill ring's size (09 R318): a ring outside class 0 acts as none. -/
def Dev.ringSize (d : Dev) (c : ClusterId) : Nat :=
  let cl := d.cl c
  match d.partOf c with
  | some p => if d.class0 p (cl.spillBase.toNat * 64) (32 * cl.spillEntries.toNat) then cl.spillEntries.toNat else 0
  | none => 0

/-- A message arrives (09 R319, 11 R377): into the queue, or the ring; none where both are full. -/
def Dev.deliver (d : Dev) (c : ClusterId) (w : Vector Word 4) : Option Dev :=
  let cl := d.cl c
  let n := d.ringSize c
  if cl.spillUsed = 0 && decide (cl.inbox.length < 64) then some (d.modCl c (fun cl => { cl with inbox := cl.inbox ++ [⟨w, none⟩] }))
  else if decide (cl.spillUsed < n) then
    match d.partOf c with
    | none => none
    | some p =>
      let a := cl.spillBase.toNat * 64 + 32 * ((cl.spillHead + cl.spillUsed) % n)
      some ((d.physWriteN p 2 a (w.toList.flatMap (fun x => leBytes 8 x.toNat))).modCl c (fun cl => { cl with spillUsed := cl.spillUsed + 1 }))
  else none

/-- A refused attempt raises QUEUE_SPILL_FULL where TRAPEN is set (11 R379). -/
def Dev.spillFull (d : Dev) (c sender : ClusterId) (k : StrandIx) : Dev :=
  if !(d.cl c).spillTrapEn then d
  else
    let t := ((List.finRange 4).find? (fun j => (d.strand c j).state != .idle)).getD 0
    d.report ⟨.spill c, c, t, .queueSpillFull, 0, BitVec.ofNat 64 (sender.val * 256 + k.val)⟩

/-- One attempt of a message at its cluster: whether it was delivered. -/
def Dev.attempt (d : Dev) (c sender : ClusterId) (k : StrandIx) (w : Vector Word 4) : Bool × Dev :=
  match d.deliver c w with
  | some d => (true, d)
  | none => (false, d.spillFull c sender k)

/-- The four words of a message (09 R319). -/
def message (sender : ClusterId) (k : StrandIx) (w1 w2 w3 : Word) : Vector Word 4 :=
  Vector.ofFn (fun i => match i with
    | 0 => 0x8000000000000000 ||| BitVec.ofNat 64 (sender.val * 256 + k.val)
    | 1 => w1
    | 2 => w2
    | 3 => w3)

/-- MESSAGE_ARRIVAL: one attempt of a message at its receiving cluster. -/
def execMessageArrival (c sender : ClusterId) (k : StrandIx) (w1 w2 w3 : Word) (s : State) : Out :=
  .next { s with dev := (s.dev.attempt c sender k (message sender k w1 w2 w3)).2 }

/-- The register n places on. -/
def gPlus (r : GReg) (n : Nat) : GReg := ⟨(r.val + n) % 32, Nat.mod_lt _ (by decide)⟩

/-- MSGSEND (09 R319): the first attempt; a refused one waits 512 cycles for the next. -/
def execMsgsend (g a b : GReg) (sc : BitVec 3) (s : State) : Out :=
  s.asStrand fun c k _ => do
    let t ← regM c k a
    let d ← get
    match clusterNo (t.toNat % 128) with
    | none => trapM .protection t
    | some h => do
      if (d.partOf c).isNone || d.partOf h != d.partOf c then trapM .protection t
      liftAcc 0 (releaseBy c k sc.toNat)
      let w := message c k (← regM c k b) (← regM c k (gPlus b 1)) (← regM c k (gPlus b 2))
      let d ← get
      match d.attempt h c k w with
      | (true, d) => do
        set d
        setRegM c k g 0
        return none
      | (false, d) => do
        set d
        throw (.wait (.msgsend 1 (d.now + 512) g h w))

/-- MSGSEND_RETRY (09 R319): after 512 cycles the next attempt; the sixteenth refusal answers FULL. -/
def Dev.msgsendRetry (d : Dev) (c : ClusterId) (k : StrandIx) : Dev :=
  match (d.strand c k).state with
  | .wait (.msgsend tries next g h w) handler =>
    if d.now < next then d
    else match d.attempt h c k w with
      | (true, d) => d.modStrand c k (fun st => (st.setG g 0).advance 4)
      | (false, d) =>
        if 15 ≤ tries then d.modStrand c k (fun st => (st.setG g 1).advance 4)
        else d.modStrand c k (fun st => { st with state := .wait (.msgsend (tries + 1) (next + 512) g h w) handler })
  | _ => d
def execMsgsendRetry (c : ClusterId) (k : StrandIx) (s : State) : Out := .next { s with dev := s.dev.msgsendRetry c k }

/-- A freed place of the queue takes the oldest ring entry (11 R377). -/
def Dev.refill (d : Dev) (c : ClusterId) : Dev :=
  let cl := d.cl c
  let n := d.ringSize c
  if cl.spillUsed = 0 || n = 0 then d
  else match d.partOf c with
    | none => d
    | some p =>
      let ((bs, po), d) := d.physReadN p 2 (cl.spillBase.toNat * 64 + 32 * cl.spillHead) 32
      let w : Vector Word 4 := Vector.ofFn (fun i => leWord ((bs.drop (8 * i.val)).take 8))
      d.modCl c (fun cl => { cl with
        inbox := cl.inbox ++ [⟨w, if po then some cl.spillHead else none⟩]
        spillHead := (cl.spillHead + 1) % n
        spillUsed := cl.spillUsed - 1 })

/-- MSGRECV (09 R319, 11 R377): waits for a message; one read from a poisoned atom is removed and traps. -/
def execMsgrecv (g : GReg) (_sc : BitVec 3) (s : State) : Out :=
  s.asStrand fun c k _ => do
    let d ← get
    match (d.cl c).inbox with
    | [] => retryM
    | m :: rest => do
      set ((d.modCl c (fun cl => { cl with inbox := rest })).refill c)
      match m.bad with
      | some i => trapM .poison (BitVec.ofNat 64 i)
      | none => do
        modify (fun d => d.acquire c k)
        for i in List.finRange 4 do
          setRegM c k (gPlus g i.val) (vget m.w i)
        return none

end Sys2Proof.Machine
end

