-- ==== Sys2Proof/Machine/PartReset.lean ====
section
/-! DEFINITION. Partitions: set-up, reset and release (17 R484 to R486, 14 R455, R456), the watchdog (14 R453, R454), the measured
configuration (17 R488). -/

namespace Sys2Proof.Machine

/-- MSI-X vector v of partition p's function (17 R479). -/
def Dev.msix (d : Dev) (p : PartId) (v : Nat) : Dev := { d with sent := d.sent ++ [.msix ⟨p.val + 1, by omega⟩ v] }

/-- A strand at reset (09 R292, R295): TRAPVEC, whose Reset entry is a dash, keeps what it holds (00 R7). -/
def Strand.cleared (st : Strand) : Strand := { Strand.reset with trapVec := st.trapVec }

/-- Scratchpads and memory nodes of a cluster hold zeros, no word is full and no atom is poisoned (14 R455 step 6). -/
def Dev.scrubCluster (d : Dev) (c : ClusterId) : Dev :=
  let lo := scratchKey c.val 0 0 0
  let hi := scratchKey (c.val + 1) 0 0 0
  let nlo := nodeKey c.val 0 0
  let nhi := nodeKey (c.val + 1) 0 0
  { d with
    mem := memZeroRange (memZeroRange d.mem lo hi) nlo nhi
    poison := sdelRange (sdelRange d.poison (lo / 64) (hi / 64)) (nlo / 64) (nhi / 64)
    full := sdelRange d.full (lo / 8) (hi / 8) }

/-- The supervisor registers that a scrub resets (14 R455 step 6). -/
def Cluster.scrubRegs (cl : Cluster) : Cluster := { cl with
  ap := Apertures.reset
  deferLimit := 0x4000
  poisonEn := false
  poisonCount := 0
  spillBase := 0
  spillEntries := 0
  spillTrapEn := false
  fpMode := 0
  fpFlags := 0
  fpTrapEn := 0 }

/-- Engine queues after a partition reset (11 R349): every command ends with CANCELLED in its log, and nothing is published. -/
def EngQueue.cancelled (q : EngQueue) : EngQueue := { q with
  cmds := []
  groups := []
  err := q.err || !q.cmds.isEmpty
  log := q.cmds.foldl (fun l k => tset l (k.seq.toNat % 16) (engLog k 9)) q.log
  xfer := { q.xfer with busy := false } }

/-- A cluster after a partition reset (14 R455 steps 2 to 6). -/
def Cluster.partReset (cl : Cluster) : Cluster :=
  { cl.scrubRegs with
    strands := cl.strands.map Strand.cleared
    last := 3
    fab := Fabric.reset
    layout := 0
    rimOwn := 0x924924
    memNodes := Vector.replicate 24 MemNode.reset
    eng := cl.eng.map EngQueue.cancelled
    step := StepSeq.reset
    buffer := []
    inbox := []
    signals := []
    spillUsed := 0
    spillHead := 0
    waits := []
    reqs := []
    banks := cl.banks.map (fun b => { b with busy := false }) }

/-- The source of a report lies in a partition. -/
def Dev.sourceIn (d : Dev) (p : PartId) (r : Report) : Bool :=
  d.partOf r.c = some p || (match r.src with
    | .watchdog q => q = p
    | _ => false)

/-- The translation state of a partition goes (01 R47, R40): cached entries, merge table, counters; FQCTL.EN becomes 0. -/
def Dev.clearTranslation (d : Dev) (p : PartId) : Dev :=
  { d with dies := d.dies.map (fun (x : Die) => { x with
      tlb := x.tlb.filter (fun t => t.part != p), walk := x.walk.filter (fun w => w.part != p) }) }.modTr p (fun t => { t with
        fqEn := false, merge := [], fqHead := 0, fqOvfCount := 0, fqTail := 0, fqClose := 0, invals := [], accSync := false })

/-- Steps 1 to 7 of a partition reset (14 R455). -/
def Dev.resetWork (d : Dev) (p : PartId) : Dev :=
  let cs := d.clustersOf p
  -- 1
  let d := d.modDb p (fun b => { b with windows := b.windows.map (fun w => { w with en := false, fifo := [] }), ctxUsed := [] })
  let d := { d with dies := d.dies.map (fun (x : Die) => { x with
    hand := x.hand.filter (fun t => t.part != p), insts := x.insts.filter (fun i => i.part != p),
    datas := x.datas.filter (fun t => t.part != p) }) }
  -- 2 to 6
  let d := { d with
    reports := d.reports.filter (fun r => !d.sourceIn p r)
    monitors := d.monitors.filter (fun m => !cs.contains m.c)
    clusters := Vector.ofFn (fun c => if cs.contains c then (vget d.clusters c).partReset else vget d.clusters c) }
  let d := cs.foldl Dev.scrubCluster d
  -- 7
  let d := (d.lls.filter (fun w => w.part = p)).foldl Dev.evict d
  d.clearTranslation p

/-- A partition reset begins (17 R485): from here to its completion accesses that target the partition are refused. -/
def Dev.beginReset (d : Dev) (p : PartId) (after : AfterReset) : Dev :=
  (d.modPart p (fun x => { x with state := .resetting, after := after })).resetWork p

/-! Set-up -/

/-- The owner and role of channel group g (17 R484). -/
def Dev.groupOwner (d : Dev) (g : Nat) : Nat := (vgetD d.groups g 0x0F).toNat % 16
def Dev.groupSpare (d : Dev) (g : Nat) : Bool := (vgetD d.groups g 0x0F).toNat / 16 % 4 = 1
/-- Interleaved groups of a partition, in order (03 R88). -/
def Dev.interleaved (d : Dev) (p : PartId) : List Nat :=
  (List.range 144).filter (fun g => d.groupOwner g = p.val && !d.groupSpare g)
/-- The groups of stack s that a partition owns. -/
def Dev.stackShare (d : Dev) (p : PartId) (s : Nat) : Nat :=
  ((List.range 12).filter (fun k => d.groupOwner (12 * s + k) = p.val)).length

/-- The checks of a SETUP (17 R485 ERR, R486 step 1; 03 R86). -/
def Dev.setupErr (d : Dev) (p : PartId) : Nat :=
  let others := (List.finRange 8).filter (fun q => q != p && (d.part q).state != .off)
  let ways := (vget d.pways p).toNat
  let badSplit := (List.range 12).any (fun s =>
    let k := (vgetD d.psplit s 0).toNat
    let n := d.stackShare p s
    decide (0 < n) && (decide (16 < k) || (decide (0 < k) && n != 12)))
  if others.any (fun q => ways &&& (vget d.pways q).toNat != 0) then 1
  else if badSplit then 2
  else if (d.clustersOf p).isEmpty || (d.interleaved p).isEmpty then 4
  else if others.any (fun q => (d.part q).pid = (d.part p).pid) then 6 else 0

/-- SETUP accepted (17 R486 step 1): a failure leaves the partition OFF. -/
def Dev.beginSetup (d : Dev) (p : PartId) : Dev :=
  let e := d.setupErr p
  d.modPart p (fun x => if e = 0 then { x with state := .setting, err := 0 } else { x with err := BitVec.ofNat 3 e })

/-- The bytes of a measured configuration: groups and spares, each partition's CMAP and LLSWAYS, row splits, row-repair tables, retirement table and key policy
(03 R117; log 9). -/
def Dev.configOf (d : Dev) (p : PartId) : List Byte :=
  Config.configBytes ((List.range 144).map d.groupOwner ++ (List.range 144).map (fun g => b2n (d.groupSpare g)) ++
    (List.finRange 8).flatMap (fun q => (d.part q).mb.cmap ++ [(d.part q).mb.ways.toNat]) ++
    (List.range 12).map (fun s => (vgetD d.splitOwner s 0xF).toNat * 256 + b2n (vgetD d.splitRetd s false) * 128 +
      (vgetD d.splitRsub s 0).toNat) ++ (List.range 12).flatMap Config.rowRepair ++
    (d.part p).mb.retired.flatMap (fun e => [e.1, e.2.1, e.2.2]) ++ [(d.part p).kpol.toNat])

/-- A channel group is written with zeros (17 R486 step 3). -/
def Dev.scrubGroup (d : Dev) (g : Nat) : Dev :=
  let lo := dramKey (8 * g) 0 0 0
  let hi := dramKey (8 * g + 8) 0 0 0
  { d with
    mem := memZeroRange d.mem lo hi
    poison := sdelRange d.poison (lo / 64) (hi / 64)
    enc := d.enc.filter (fun e => decide (e.1 < lo / 64) || decide (hi / 64 ≤ e.1))
    dramErr := d.dramErr.filter (fun e => decide (e.1 < lo / 64) || decide (hi / 64 ≤ e.1)) }

/-- The row splits of the stacks of a partition take their new values (03 R86; 17 R486 step 4). -/
def Dev.setSplits (d : Dev) (p : PartId) : Dev :=
  (List.range 12).foldl (fun d s =>
    if d.stackShare p s = 0 then d
    else { d with
      splitOwner := vsetD d.splitOwner s (if d.stackShare p s = 12 then BitVec.ofNat 4 p.val else 0xF)
      splitRsub := vsetD d.splitRsub s (vgetD d.psplit s 0)
      splitRetd := vsetD d.splitRetd s false }) d

/-- Steps 2 to 6 of a SETUP (17 R486). -/
def Dev.setupWork (d : Dev) (p : PartId) : Dev :=
  let cs := d.clustersOf p
  -- 2
  let d := { d with clusters := Vector.ofFn (fun c =>
    let cl := vget d.clusters c
    if cs.contains c then { cl.partReset with
      banks := cl.banks.map (fun b => { b with busy := false, owner := BitVec.ofNat 4 p.val, glog := 0, mode := 0 }) } else cl) }
  let d := cs.foldl Dev.scrubCluster d
  -- 3
  let gs := (List.range 144).filter (fun g => d.groupOwner g = p.val && (vgetD d.groupSet g 0xF).toNat != p.val)
  let d := gs.foldl (fun d g => { d.scrubGroup g with groupSet := vsetD d.groupSet g (BitVec.ofNat 4 p.val) }) d
  -- 4
  let d := d.setSplits p
  let d := { d with lls := d.lls.filter (fun w => w.part != p) }
  let d := d.modMb p (fun b => { b with
    ways := vget d.pways p
    cmap := (d.interleaved p).flatMap (fun g => (List.range 8).map (fun i => 8 * g + i))
    pieces := []
    retired := []
    mapVer := 0
    retiring := none })
  -- 5 and 6
  d.modPart p (fun x => { x with
    key := none
    measured := measureOf (d.configOf p)
    reported := []
    tr := Translation.reset
    db := DispatchBlock.reset
    pf := Platform.reset
    state := .ready
    err := 0 })

/-- Every resource of a partition goes to none (17 R486, RELEASE). The RSUB of a stack that it owned reads on as the next set-up finds it (03 R86;
DESIGN CHOICE, log 124). -/
def Dev.freeMaps (d : Dev) (p : PartId) : Dev :=
  let mine := fun s => d.stackShare p s != 0
  { d with
    cmapClusters := d.cmapClusters.map (fun (o : BitVec 4) => if o.toNat = p.val then 0xF else o)
    groups := d.groups.map (fun (g : BitVec 8) => if g.toNat % 16 = p.val then 0x0F else g)
    pways := vset d.pways p 0
    psplit := Vector.ofFn (fun s => if mine s.val then 0 else vget d.psplit s)
    splitOwner := Vector.ofFn (fun s => if (vget d.splitOwner s).toNat = p.val then 0xF else vget d.splitOwner s) }.modPart p
      (fun x => { x with mb := { x.mb with cmap := [], ways := 0, pieces := [], retiring := none }, key := none, state := .off })

/-! Commands of PCTL -/

/-- The commands in a write of PCTL. -/
def pctlCommands (v : Word) : Nat := b2n (bit v.toNat 63) + b2n (bit v.toNat 62) + b2n (bit v.toNat 61)

/-- A write of PCTL when it is performed (17 R485). One whose commands fail for their number or the partition's state changes nothing but ERR. -/
def Dev.pctlNow (d : Dev) (p : PartId) (v : Word) : Dev :=
  let x := d.part p
  if pctlCommands v != 0 && (x.state = .setting || x.state = .resetting) then d.modPart p (fun x => { x with heldCmds := x.heldCmds ++ [.pctl v] })
  else
    let k := bits v.toNat 1 0
    let fail := fun (e : BitVec 3) => d.modPart p (fun x => { x with err := e })
    let e := if x.state = .off then d.modPart p (fun x => { x with
        pid := BitVec.ofNat 12 (bits v.toNat 43 32), kpol := if k < 2 then BitVec.ofNat 2 k else x.kpol }) else d
    if pctlCommands v = 0 then e
    else if 1 < pctlCommands v then fail 5
    else if bit v.toNat 63 then (if x.state = .off then e.beginSetup p else fail 3)
    else if x.state != .ready then fail 3
    else d.beginReset p (if bit v.toNat 62 then .ready else .off)

/-- A write of PCTL (17 R485, R492): until bring-up phase 2 ends it is held. -/
def Dev.writePctl (d : Dev) (p : PartId) (v : Word) : Dev :=
  if !d.phases.getLsbD 1 then { d with heldPctl := d.heldPctl ++ [(p, v)] } else d.pctlNow p v

/-- A partition reset asked for by a function (17 R472): one that comes while the partition is being set up waits for its end. -/
def Dev.functionReset (d : Dev) (p : PartId) : Dev :=
  match (d.part p).state with
  | .ready => d.beginReset p .kept
  | .setting => d.modPart p (fun x => { x with heldCmds := x.heldCmds ++ [.functionReset] })
  | _ => d

/-- Held writes are performed, each until one takes the partition out of a settled state (17 R485). -/
def Dev.releaseHeld (d : Dev) (p : PartId) : Dev :=
  let l := (d.part p).heldCmds
  l.foldl (fun d h => match h with
    | .pctl v => d.pctlNow p v
    | .functionReset => d.functionReset p) (d.modPart p (fun x => { x with heldCmds := [] }))
/-- The writes of PCTL that bring-up has held are performed in the order of their arrival (17 R485, R492). -/
def Dev.releasePctl (d : Dev) : Dev := d.heldPctl.foldl (fun d h => d.pctlNow h.1 h.2) { d with heldPctl := [] }

/-- SETUP, RESET and RELEASE: a write of PCTL with that command (17 R485). -/
def execSetup (n : PartId) (v : Word) (s : State) : Out :=
  if bit v.toNat 63 then .next { s with dev := s.dev.writePctl n v } else .next s
def execReset (n : PartId) (v : Word) (s : State) : Out :=
  if bit v.toNat 62 then .next { s with dev := s.dev.writePctl n v } else .next s
def execRelease (n : PartId) (v : Word) (s : State) : Out :=
  if bit v.toNat 61 then .next { s with dev := s.dev.writePctl n v } else .next s

/-- SETUP_DONE (17 R486 steps 2 to 6). -/
def Dev.setupDone (d : Dev) (p : PartId) : Dev :=
  if (d.part p).state != .setting then d else (d.setupWork p).releaseHeld p
def execSetupDone (n : PartId) (s : State) : Out := .next { s with dev := s.dev.setupDone n }

/-- PARTITION_RESET_COMPLETE (17 R479, R485, R486). -/
def Dev.resetComplete (d : Dev) (p : PartId) : Dev :=
  if (d.part p).state != .resetting then d
  else
    let d := match (d.part p).after with
      | .ready => d.modPart p (fun x => { x with state := .ready, err := 0 })
      | .off => (d.freeMaps p).modPart p (fun x => { x with err := 0 })
      | .kept => d.modPart p (fun x => { x with state := .ready })
    (d.msix p 2).releaseHeld p
def execPartitionResetComplete (n : PartId) (s : State) : Out := .next { s with dev := s.dev.resetComplete n }

/-- FLR (17 R472). -/
def execFlr (n : PartId) (s : State) : Out := .next { s with dev := s.dev.functionReset n }
/-- D3HOT_ENTRY (17 R493): the partition stays READY after its reset. -/
def execD3hotEntry (n : PartId) (s : State) : Out :=
  if (s.dev.part n).d3hot then .next s
  else .next { s with dev := (s.dev.functionReset n).modPart n (fun x => { x with d3hot := true }) }

/-! Watchdog -/

/-- PWDKICK (14 R453). -/
def Dev.writePwdkick (d : Dev) (p : PartId) (v : Word) : Dev :=
  if v.toNat % 256 = 0xA5 then d.modDb p (fun b => { b with wdFrom := d.now, wdStage := 0 }) else d
def execPwdkick (n : PartId) (v : Word) (s : State) : Out := .next { s with dev := s.dev.writePwdkick n v }

/-- The watchdog's count has reached m times its limit, for the first time since it started (14 R454). -/
def Dev.wdAt (d : Dev) (p : PartId) (m : Nat) : Bool :=
  let b := (d.part p).db
  b.wdEn && b.wdLimit != 0 && decide (b.wdStage < m) && decide (m * b.wdLimit.toNat * 2 ^ 20 ≤ d.now - b.wdFrom)

/-- WATCHDOG_FIRST_STAGE (14 R453, R454). -/
def Dev.watchdog1 (d : Dev) (p : PartId) : Dev :=
  if !d.wdAt p 1 then d
  else
    let b := (d.part p).db
    let d := d.modDb p (fun b => { b with exp1 := true, wdStage := 1 })
    match clusterNo b.wdTcl.toNat with
    | some c =>
      if d.partOf c = some p then d.report ⟨.watchdog p, c, ⟨b.wdTstr.toNat, b.wdTstr.isLt⟩, .watchdog, 0, 1⟩ else d
    | none => d
def execWatchdogFirstStage (n : PartId) (s : State) : Out := .next { s with dev := s.dev.watchdog1 n }

/-- WATCHDOG_SECOND_STAGE (14 R454, 17 R479). -/
def Dev.watchdog2 (d : Dev) (p : PartId) : Dev :=
  if !d.wdAt p 2 then d
  else
    let d := (d.modDb p (fun b => { b with exp2 := true, wdStage := 2 })).msix p 0
    if (d.part p).db.wdAction != 0 then d.functionReset p else d
def execWatchdogSecondStage (n : PartId) (s : State) : Out := .next { s with dev := s.dev.watchdog2 n }

end Sys2Proof.Machine
end

