-- ==== Sys2Proof/Machine/Regs.lean ====
section
/-! DEFINITION. Register blocks (17 R473): what a read of each register returns, what a write does under the access codes of 00 R7, and
the snapshot pages (17 R490, R491). Offsets are MMIO offsets (01 R13). -/

namespace Sys2Proof.Machine

/-- A field: a value at a bit position. -/
def fld (v lo : Nat) : Nat := v * 2 ^ lo
def fldB (b : Bool) (lo : Nat) : Nat := b2n b * 2 ^ lo

/-! Reads without effect -/

/-- The head of a node waits for a buffer or a gang (10 R336). -/
def Dev.mxWaits (d : Dev) (c : ClusterId) (n : NodeIx) : Bool :=
  match (d.node c n).queue with
  | h :: _ => h.began.isNone && (mxMop h.entry = 10 || !d.mxBuffersFull c n h.entry)
  | [] => false

/-- MXSTATn (10 R336). -/
def Dev.mxstat (d : Dev) (c : ClusterId) (n : NodeIx) : Nat :=
  let m := d.node c n
  let head := match m.queue with
    | h :: _ => fld (if mxMop h.entry ≤ 2 then h.p % 256 else 0) 16 + fld (h.num % 16) 12
    | [] => 0
  fld m.doneCnt.toNat 32 + head + fld m.queue.length 8 + fld (match m.region with | some r => r.val | none => 0) 2 +
    fldB (d.mxWaits c n) 1 + fldB m.region.isSome 0

/-- REGSTATn (05 R173). -/
def Region.stat (x : Region) : Nat :=
  fld (x.round % 2 ^ 32) 32 + fld (x.slot % 32) 22 + fld (if x.configured then (x.w - 1) % 32 else 0) 17 +
    (List.finRange 4).foldl (fun n k =>
      n + fldB ((vget x.kernels k).cfg.isSome && (vget x.kernels k).st != .retired) (8 + k.val)) 0 +
    fld (x.fcause % 8) 5 + x.st.code

/-- REGFLTn (14 R432). -/
def RegFlt.word (f : RegFlt) : Nat :=
  fld f.round.toNat 32 + fldB f.pend 31 + fldB f.valid 30 + fld f.kern.toNat 28 + fld f.slot.toNat 21 + fld f.unit.toNat 14 +
    fld f.src.toNat 11 + fld f.cls.toNat 9 + f.cause.toNat

/-- ENGCTLq (11 R349) and ENGXFERq (14 R450). -/
def EngQueue.ctl (q : EngQueue) : Nat := fld q.act 5 + fldB q.errTrap 2 + fldB q.held 1 + fldB q.hold 0
def Xfer.word (x : Xfer) : Nat := fldB x.busy 62 + fld x.op.toNat 60 + fld x.err.toNat 57 + fld x.base.toNat 6

/-- A cluster's register block (02 R57 to R66, 05 R167, R173, 10 R336, 11 R346, R349, 14 R432, R450). -/
def Dev.clusterReg (d : Dev) (c : ClusterId) (x : Nat) : Nat :=
  let cl := d.cl c
  let i := x / 8
  if 0x1000 ≤ x && x < 0x10C0 then
    let m := vgetD cl.memNodes (i - 0x200) MemNode.reset
    fld m.fillu.toNat 27 + fld m.bufu.toNat 12 + m.nb.toNat
  else if 0x1100 ≤ x && x < 0x11C0 then (vgetD cl.memNodes (i - 0x220) MemNode.reset).stat
  else if 0x1200 ≤ x && x < 0x1300 then
    let b := vgetD cl.banks (i - 0x240) BankCfg.reset
    fld b.epoch.toNat 16 + fldB b.busy 15 + fld b.owner.toNat 8 + fld b.glog.toNat 2 + b.mode.toNat
  else if x = 0x1300 then cl.rimOwn.toNat
  else if x = 0x1308 then cl.layout.toNat
  else if 0x1310 ≤ x && x < 0x1330 then (vgetD cl.fab.regions (i - 0x262) Region.reset).stat
  else if 0x1330 ≤ x && x < 0x1370 then
    let f := (vgetD cl.fab.regions ((x - 0x1330) / 16) Region.reset).flt
    if x % 16 = 0 then f.word else f.value.toNat
  else if 0x1400 ≤ x && x < 0x1460 then (if h : i - 0x280 < 12 then d.mxstat c ⟨i - 0x280, h⟩ else 0)
  else if 0x1700 ≤ x && x < 0x1738 then (vgetD cl.eng (i - 0x2E0) EngQueue.reset).ctl
  else if 0x1740 ≤ x && x < 0x1778 then (vgetD cl.eng (i - 0x2E8) EngQueue.reset).xfer.word
  else if 0x1800 ≤ x && x < 0x1B80 then
    ((tget (vgetD cl.eng ((x - 0x1800) / 0x80) EngQueue.reset).log ((x - 0x1800) % 0x80 / 8)).getD 0).toNat
  else 0

/-- The translation block (01 R36, R39, R45). -/
def Translation.reg (t : Translation) (x : Nat) : Nat :=
  match x with
  | 0x00 => fldB t.fqEn 63 + fld t.fqLog2.toNat 56 + fld t.fqBase.toNat 6
  | 0x08 => t.fqTail.toNat
  | 0x10 => t.fqClose.toNat
  | 0x18 => fldB t.terr 3 + fldB t.accErr 2 + fldB t.qErr 1 + fldB t.ovf 0
  | 0x30 => fldB (!t.invals.isEmpty) 0
  | 0x38 => fld t.accMode.toNat 62 + fld t.accBase.toNat 6
  | 0x40 => fld t.accFirst.toNat 34 + t.accBlocks.toNat
  | 0x48 => fldB t.accSync 0
  | _ => 0

/-- The memory block (03 R86, R91, R98, R113). -/
def Dev.memReg (d : Dev) (p : PartId) (x : Nat) : Nat :=
  let m := (d.part p).mb
  if x = 0x00 then m.ways.toNat
  else if x = 0x08 then fld m.ceCnt.toNat 32 + m.ueCnt.toNat
  else if x = 0x10 then
    fldB m.retiring.isSome 62 + fld m.chErr.toNat 59 + fld m.mapVer.toNat 32 + fld m.chSpare.toNat 16 + m.chPcx.toNat
  else if 0x100 ≤ x && x < 0x160 then
    let s := (x - 0x100) / 8
    fld (vgetD d.splitOwner s 0xF).toNat 8 + fldB (vgetD d.splitRetd s false) 7 + (vgetD d.splitRsub s 0).toNat
  else 0

/-- INGCTLw and INGSTATw (13 R403). -/
def Window.ctl (w : Window) : Nat := fldB w.en 63 + fld w.die.val 16 + fld w.pmax.toNat 8 + w.kmask.toNat
def Window.stat (w : Window) : Nat := fld w.acc.toNat 32 + fld (w.bad.toNat % 256) 24 + fld (w.drop.toNat % 256) 16 + (8 - w.fifo.length)

/-- The dispatch block (13 R403, R408, R419, R421; 14 R453). -/
def DispatchBlock.reg (b : DispatchBlock) (x : Nat) : Nat :=
  if 0x1000 ≤ x && x < 0x1400 then
    let w := vgetD b.windows ((x - 0x1000) / 16) Window.reset
    if x % 16 = 0 then w.ctl else w.stat
  else match x with
  | 0x00 => fld b.gtBase.toNat 12
  | 0x08 => b.gtSize.toNat
  | 0x10 => fld b.ctxBase.toNat 24
  | 0x18 => fld (b.ctxUsed.length % 65536) 48 + b.ctxCnt.toNat
  | 0x20 => fld b.errInst.toNat 32 + fld b.errGraph.toNat 16 + fld b.errCount.toNat 8 + b.errCause.toNat
  | 0x30 => fldB b.wdEn 63 + fld b.wdAction.toNat 61 + fldB b.exp1 60 + fldB b.exp2 59 + fld b.wdTcl.toNat 44 + fld b.wdTstr.toNat 42 +
      b.wdLimit.toNat
  | _ => 0

/-- The platform block (17 R475 to R490). -/
def Platform.reg (f : Platform) (x : Nat) : Nat :=
  if 0x40 ≤ x && x < 0x80 then
    let i := (x - 0x40) / 16
    if x % 16 = 0 then fld (vgetD f.hwBase i 0).toNat 12 + fldB (vgetD f.hwEn i false) 0 else fld (vgetD f.hwLimit i 0).toNat 12
  else if 0x200 ≤ x && x < 0x400 then f.domMap.toNat / 2 ^ (8 * (x - 0x200)) % 2 ^ 64
  else match x with
  | 0x00 => fldB f.expEn 63 + fldB f.expWr 62 + fldB f.expSp 61 + f.expLimit.toNat
  | 0x18 => f.peerErr.toNat
  | 0x20 => fldB f.ntfFull 63 + fldB f.ntfBad 62 + f.ntfOff.toNat
  | 0x30 => fldB f.snArm 63 + fldB f.snFired 62 + fld f.snSrc.toNat 60 + fldB f.snPin 59 + fld f.snCluster.toNat 44
  | _ => 0

/-- A partition's block (17 R473). -/
def Dev.partReg (d : Dev) (p : PartId) (x : Nat) : Nat :=
  if x < 0x1000 then (d.part p).tr.reg x
  else if x < 0x2000 then d.memReg p (x - 0x1000)
  else if x < 0x4000 then (d.part p).db.reg (x - 0x2000)
  else if x < 0x5000 then (d.part p).pf.reg (x - 0x4000)
  else 0

/-- STATE of PCTL (17 R485). -/
def PartState.code : PartState → Nat
  | .off => 0 | .setting => 1 | .ready => 2 | .resetting => 3

/-- The device block (17 R483 to R485, R491). -/
def Dev.deviceReg (d : Dev) (x : Nat) : Nat :=
  let i := x / 8
  if x < 0x40 then
    let p := d.part ⟨i % 8, Nat.mod_lt _ (by decide)⟩
    fld p.state.code 56 + fldB p.key.isSome 55 + fld p.err.toNat 52 + fld p.pid.toNat 32 + p.kpol.toNat
  else if 0x100 ≤ x && x < 0x128 then
    (List.range 16).foldl (fun n k => n + (match clusterNo (16 * (i - 0x20) + k) with
      | some c => fld (vget d.cmapClusters c).toNat (4 * k)
      | none => 0)) 0
  else if 0x200 ≤ x && x < 0x290 then (List.range 8).foldl (fun n k => n + fld (vgetD d.groups (8 * (i - 0x40) + k) 0).toNat (8 * k)) 0
  else if 0x300 ≤ x && x < 0x340 then (vgetD d.pways (i - 0x60) 0).toNat
  else if 0x380 ≤ x && x < 0x3E0 then (vgetD d.psplit (i - 0x70) 0).toNat
  else if x = 0x400 then d.bootErr.toNat
  else if 0x600 ≤ x && x < 0x660 then
    let l := vgetD d.links (i - 0xC0) Link.reset
    fld l.retry.toNat 32 + fld l.lanes.toNat 4 + l.state.toNat
  else 0

/-- The block of an MMIO offset (17 R473). -/
inductive Block where
  | cluster (c : ClusterId)
  | part (p : PartId)
  | device
deriving DecidableEq, Repr
def blockAt (off : Nat) : Option Block :=
  let b := off / 0x10000
  match clusterNo b with
  | some c => some (.cluster c)
  | none => if h : 0x100 ≤ b ∧ b < 0x108 then some (.part ⟨b - 0x100, by omega⟩) else if b = 0x200 then some .device else none
/-- The first offset of a block. -/
def Block.base : Block → Nat
  | .cluster c => 0x10000 * c.val
  | .part p => 0x1000000 + 0x10000 * p.val
  | .device => 0x2000000

/-- What a register holds, seen without any effect (17 R491: snapshot pages included). -/
def Dev.regPeek (d : Dev) (off : Nat) : Word :=
  let x := off % 0x10000
  if 0x8000 ≤ x then (tget d.snaps off).getD 0
  else BitVec.ofNat 64 (match blockAt off with
    | some (.cluster c) => d.clusterReg c x
    | some (.part p) => d.partReg p x
    | some .device => d.deviceReg x
    | none => 0)

/-- A read of a register clears its RC fields (00 R7). -/
def Dev.regRead (d : Dev) (off : Nat) : Word × Dev :=
  let v := d.regPeek off
  let x := off % 0x10000
  (v, match blockAt off with
    | some (.part p) =>
      if x = 0x1008 then d.modMb p (fun m => { m with ceCnt := 0, ueCnt := 0 })
      else if x = 0x2020 then d.modDb p (fun b => { b with errCount := 0 })
      else if 0x3000 ≤ x && x < 0x3400 && x % 16 = 8 then
        d.modDb p (fun b => { b with windows := b.windows.mapIdx (fun i w => if i = (x - 0x3000) / 16 then { w with bad := 0, drop := 0 } else w) })
      else if x = 0x4018 then d.modPf p (fun f => { f with peerErr := 0 })
      else d
    | some .device =>
      if 0x600 ≤ x && x < 0x660 then
        { d with links := d.links.mapIdx (fun i l => if i = (x - 0x600) / 8 then { l with retry := 0 } else l) }
      else d
    | _ => d)

/-! Snapshots -/

/-- A trigger reaches a partition (17 R490, R491): with ARM = 0 it does nothing; while a latch is pending it joins it. -/
def Dev.triggerPart (d : Dev) (p : PartId) (src : BitVec 2) (cl : BitVec 7) : Dev :=
  if !(d.part p).pf.snArm then d
  else match d.latch with
    | none => { d with latch := some ⟨d.now + 32, [(p, src, cl)], false⟩ }
    | some l => if l.parts.any (fun x => x.1 = p) then d else { d with latch := some { l with parts := l.parts ++ [(p, src, cl)] } }

/-- The blocks that a latch copies. -/
def Dev.latchBlocks (d : Dev) (l : Latch) : List Block :=
  l.parts.flatMap (fun x => .part x.1 :: (d.clustersOf x.1).map .cluster) ++ (if l.device then [.device] else [])

/-- The copy of a block: the register at x goes to x + 0x8000 for x below 0x7FF8, CYCLE to 0xFFF8. -/
def Dev.snapBlock (d : Dev) (b : Block) : Table Word :=
  ((List.range 0xFFF).filterMap (fun i =>
    let v := d.regPeek (b.base + 8 * i)
    if v = 0 then none else some (b.base + 0x8000 + 8 * i, v))) ++ [(b.base + 0xFFF8, BitVec.ofNat 64 d.now)]

/-- SNAP_LATCH (17 R491): every block in reach is copied; ARM clears, FIRED sets, SNAPOUT pulses. -/
def Dev.snapLatch (d : Dev) : Dev :=
  match d.latch with
  | none => d
  | some l =>
    if d.now < l.due then d
    else
      let bs := d.latchBlocks l
      let old := d.snaps.filter (fun e => !bs.any (fun b => decide (b.base ≤ e.1) && decide (e.1 < b.base + 0x10000)))
      let new := (bs.flatMap d.snapBlock).foldl (fun t e => tset t e.1 e.2) old
      let d := { d with snaps := new, latch := none, sent := d.sent ++ [.snapOut] }
      l.parts.foldl (fun d x => d.modPf x.1 (fun f => { f with snArm := false, snFired := true, snSrc := x.2.1, snCluster := x.2.2 })) d
def execSnapLatch (s : State) : Out := .next { s with dev := s.dev.snapLatch }

/-- A cluster's trigger: SNAP or its counter. -/
def Dev.clusterTrigger (d : Dev) (c : ClusterId) (src : BitVec 2) : Dev :=
  match d.partOf c with
  | some p => d.triggerPart p src (BitVec.ofNat 7 c.val)
  | none => d

/-- SNAP (09 R309, 17 R490): at user privilege only with UEN = 1. -/
def execSnap (s : State) : Out :=
  if !s.me.priv && !(s.dev.cl s.curC).snapUen then .next (s.trapHere .protection 0 0x78000600)
  else .next { s with dev := (s.dev.clusterTrigger s.curC 0).modStrand s.curC s.curK (fun st => st.advance 4) }

/-- COUNTER_TRIGGER (17 R490): CYCLE[47:0] equals CMATCH with CMEN = 1. -/
def execCounterTrigger (c : ClusterId) (s : State) : Out :=
  let cl := s.dev.cl c
  if cl.snapCmen && s.dev.now % 2 ^ 48 = cl.cmatch.toNat then .next { s with dev := s.dev.clusterTrigger c 1 } else .next s

/-- SNAPIN (17 R490): every partition with PINEN = 1, and the device block. -/
def Dev.snapin (d : Dev) : Dev :=
  let d := (List.finRange 8).foldl (fun d p => if (d.part p).pf.snPin then d.triggerPart p 2 0 else d) d
  match d.latch with
  | none => { d with latch := some ⟨d.now + 32, [], true⟩ }
  | some l => { d with latch := some { l with device := true } }
def execSnapin (s : State) : Out := .next { s with dev := s.dev.snapin }

/-- PSNAP (17 R490): ARM and PINEN are written, FIRED is W1C, TRIG raises the host's trigger. -/
def Dev.writePsnap (d : Dev) (p : PartId) (v : Word) : Dev :=
  let n := v.toNat
  let d := d.modPf p (fun f => { f with snArm := bit n 63, snFired := f.snFired && !bit n 62, snPin := bit n 59 })
  if bit n 58 then d.triggerPart p 3 0 else d
/-- TRIG: a write of PSNAP with TRIG = 1. -/
def execTrig (n : PartId) (v : Word) (s : State) : Out :=
  if bit v.toNat 58 then .next { s with dev := s.dev.writePsnap n v } else .next s

/-! Writes -/

/-- HOSTIRQ (17 R479). -/
def Dev.writeHostirq (d : Dev) (p : PartId) (v : Word) : Dev := if bit v.toNat 0 then d.msix p 3 else d
def execHostirq (n : PartId) (v : Word) (s : State) : Out := .next { s with dev := s.dev.writeHostirq n v }

/-- A cluster's register block: ENGCTL, ENGXFER, REGFLT.VALID; every other field is RO. -/
def Dev.writeClusterReg (d : Dev) (c : ClusterId) (x : Nat) (v : Word) : Dev :=
  let i := x / 8
  if 0x1330 ≤ x && x < 0x1370 && x % 16 = 0 then
    if bit v.toNat 30 then
      d.modCl c (fun cl => { cl with fab := { cl.fab with
        regions := cl.fab.regions.mapIdx (fun n y => if n = (x - 0x1330) / 16 then { y with flt := { y.flt with valid := false } } else y) } })
    else d
  else if h : 0x2E0 ≤ i ∧ i < 0x2E7 then d.writeEngctl c ⟨i - 0x2E0, by omega⟩ v
  else if h : 0x2E8 ≤ i ∧ i < 0x2EF then d.writeEngxfer c ⟨i - 0x2E8, by omega⟩ v
  else d

/-- The translation block. -/
def Dev.writeTransReg (d : Dev) (p : PartId) (x : Nat) (v : Word) : Dev :=
  let n := v.toNat
  match x with
  | 0x00 => d.writeFqctl p v
  | 0x08 => d.writeFqtail p v
  | 0x10 => d.writeFqclose p v
  | 0x18 => d.modTr p (fun t => { t with
      terr := t.terr && !bit n 3, accErr := t.accErr && !bit n 2, qErr := t.qErr && !bit n 1, ovf := t.ovf && !bit n 0 })
  | 0x20 => d.writeFqretry p v
  | 0x28 => d.addInval p ⟨BitVec.ofNat 2 (bits n 63 62), BitVec.ofNat 16 (bits n 61 46), BitVec.ofNat 36 (bits n 35 0)⟩
  | 0x38 => d.modTr p (fun t => { t with accMode := BitVec.ofNat 2 (bits n 63 62), accBase := BitVec.ofNat 46 (bits n 51 6) })
  | 0x40 => d.modTr p (fun t => { t with accFirst := BitVec.ofNat 30 (bits n 63 34), accBlocks := BitVec.ofNat 24 (bits n 23 0) })
  | 0x48 => d.writeAccsync p v
  | _ => d

/-- PWDCTL (14 R453): the count runs from the write that set EN (R454). -/
def Dev.writePwdctl (d : Dev) (p : PartId) (v : Word) : Dev :=
  let n := v.toNat
  d.modDb p (fun b => { b with
    wdEn := bit n 63
    wdAction := BitVec.ofNat 2 (bits n 62 61)
    exp1 := b.exp1 && !bit n 60
    exp2 := b.exp2 && !bit n 59
    wdTcl := BitVec.ofNat 7 (bits n 50 44)
    wdTstr := BitVec.ofNat 2 (bits n 43 42)
    wdLimit := BitVec.ofNat 32 n
    wdFrom := if bit n 63 && !b.wdEn then d.now else b.wdFrom
    wdStage := if bit n 63 && !b.wdEn then 0 else b.wdStage })

/-- The dispatch block. -/
def Dev.writeDispReg (d : Dev) (p : PartId) (x : Nat) (v : Word) : Dev :=
  let n := v.toNat
  if 0x1000 ≤ x && x < 0x1400 then
    if x % 16 != 0 then d
    else d.modDb p (fun b => { b with windows := b.windows.mapIdx (fun i w =>
      if i = (x - 0x1000) / 16 then { w with
        en := bit n 63
        die := ⟨bits n 17 16 % 4, Nat.mod_lt _ (by decide)⟩
        pmax := BitVec.ofNat 2 (bits n 9 8)
        kmask := BitVec.ofNat 4 (bits n 3 0) } else w) })
  else match x with
  | 0x00 => d.modDb p (fun b => { b with gtBase := BitVec.ofNat 40 (bits n 51 12) })
  | 0x08 => d.modDb p (fun b => { b with gtSize := BitVec.ofNat 17 (bits n 16 0) })
  | 0x10 => d.modDb p (fun b => { b with ctxBase := BitVec.ofNat 28 (bits n 51 24) })
  | 0x18 => d.modDb p (fun b => if n % 65536 < b.ctxUsed.length then b else { b with ctxCnt := BitVec.ofNat 16 n })
  | 0x30 => d.writePwdctl p v
  | 0x38 => d.writePwdkick p v
  | _ => d

/-- The platform block. -/
def Dev.writePlatReg (d : Dev) (p : PartId) (x : Nat) (v : Word) : Dev :=
  let n := v.toNat
  if 0x40 ≤ x && x < 0x80 then
    let i := (x - 0x40) / 16
    let page : BitVec 52 := BitVec.ofNat 52 (n / 4096)
    d.modPf p (fun f => if x % 16 = 0 then { f with hwBase := vsetD f.hwBase i page, hwEn := vsetD f.hwEn i (bit n 0) }
      else { f with hwLimit := vsetD f.hwLimit i page })
  else if 0x200 ≤ x && x < 0x400 then
    d.modPf p (fun f =>
      let lo := 8 * (x - 0x200)
      { f with domMap := (f.domMap &&& ~~~(BitVec.ofNat 4096 ((2 ^ 64 - 1) * 2 ^ lo))) ||| BitVec.ofNat 4096 (n * 2 ^ lo) })
  else match x with
  | 0x00 => d.modPf p (fun f => { f with expEn := bit n 63, expWr := bit n 62, expSp := bit n 61, expLimit := BitVec.ofNat 36 n })
  | 0x20 => d.modPf p (fun f => { f with ntfFull := f.ntfFull && !bit n 63, ntfBad := f.ntfBad && !bit n 62 })
  | 0x28 => d.writeHostirq p v
  | 0x30 => d.writePsnap p v
  | _ => d

/-- A partition's block: of the memory block CHRETIRE alone is written. -/
def Dev.writePartReg (d : Dev) (p : PartId) (x : Nat) (v : Word) : Dev :=
  if x < 0x1000 then d.writeTransReg p x v
  else if x = 0x1010 then d.writeChretire p v
  else if x < 0x2000 then d
  else if x < 0x4000 then d.writeDispReg p (x - 0x2000) v
  else if x < 0x5000 then d.writePlatReg p (x - 0x4000) v
  else d

/-- A map entry may change hands between these owners (17 R484): each is none or OFF. -/
def Dev.freeOwner (d : Dev) (o : Nat) : Bool :=
  if h : o < 8 then (d.part ⟨o, h⟩).state = .off else o = 15

/-- The device block (17 R484): map entries whose owners are free, PCTL. -/
def Dev.writeDeviceReg (d : Dev) (x : Nat) (v : Word) : Dev :=
  let n := v.toNat
  let i := x / 8
  if x < 0x40 then d.writePctl ⟨i % 8, Nat.mod_lt _ (by decide)⟩ v
  else if 0x100 ≤ x && x < 0x128 then
    { d with cmapClusters := Vector.ofFn (fun c =>
        let old := vget d.cmapClusters c
        let new := n / 2 ^ (4 * (c.val % 16)) % 16
        if c.val / 16 = i - 0x20 && d.freeOwner old.toNat && d.freeOwner new then BitVec.ofNat 4 new else old) }
  else if 0x200 ≤ x && x < 0x290 then
    { d with groups := Vector.ofFn (fun g =>
        let old := vget d.groups g
        let new := n / 2 ^ (8 * (g.val % 8)) % 64
        if g.val / 8 = i - 0x40 && d.freeOwner (old.toNat % 16) && d.freeOwner (new % 16) && decide (new < 32) then BitVec.ofNat 8 new else old) }
  else if h : 0x60 ≤ i ∧ i < 0x68 then
    if d.freeOwner (i - 0x60) then { d with pways := vset d.pways ⟨i - 0x60, by omega⟩ (BitVec.ofNat 16 n) } else d
  else if 0x70 ≤ i && i < 0x7C then
    if (List.range 12).all (fun k => d.freeOwner (d.groupOwner (12 * (i - 0x70) + k))) then
      { d with psplit := vsetD d.psplit (i - 0x70) (BitVec.ofNat 5 n) } else d
  else d

/-- A write of 8 bytes at a register's offset; snapshot pages are read only. -/
def Dev.regWrite (d : Dev) (off : Nat) (v : Word) : Dev :=
  let x := off % 0x10000
  if 0x8000 ≤ x then d
  else match blockAt off with
    | some (.cluster c) => d.writeClusterReg c x v
    | some (.part p) => d.writePartReg p x v
    | some .device => d.writeDeviceReg x v
    | none => d

/-! The host's register accesses through BAR0 -/

/-- A function answers (17 R492, R488): function 0 once phase 3 is done, the others unless an image failed. -/
def Dev.functionUp (d : Dev) (f : FuncIx) : Bool := d.phases.getLsbD 2 && (f.val = 0 || d.bootErr = 0)

/-- The partition of a function. -/
def FuncIx.part (f : FuncIx) : Option PartId := if h : f.val = 0 then none else some ⟨f.val - 1, by omega⟩

/-- The MMIO offset that a BAR0 offset of a function names (17 R472, R473): none where it reads as zero and ignores writes. -/
def Dev.bar0 (d : Dev) (f : FuncIx) (off : Nat) : Option Nat :=
  match FuncIx.part f with
  | none => if off < 2 ^ 32 then some off else none
  | some p =>
    if off < 0x10000 then some (0x1000000 + 0x10000 * p.val + off)
    else match clusterNo (off / 0x10000 - 1) with
      | some c => if d.partOf c = some p then some (off - 0x10000) else none
      | none => none

/-- An access through BAR0 of a size or at a place that R137 does not allow, or to a partition that is reset, acts on no register; PEERERR counts
it for a partition function (04 R137, 14 R455). -/
def Dev.hostRefuse (d : Dev) (f : FuncIx) : Dev :=
  if !d.functionUp f then d
  else match FuncIx.part f with
    | none => d
    | some p => d.countPeerErr p

/-- REGISTER_WRITE: a write of 8 bytes through BAR0 (04 R137, 17 R472): one that is not aligned is dropped, and PEERERR counts it for a
partition function, as it does while the partition is reset (14 R455). -/
def Dev.hostWrite (d : Dev) (f : FuncIx) (off : Nat) (v : Word) : Dev :=
  if !d.functionUp f then d
  else match FuncIx.part f with
    | none => if off % 8 != 0 then d else match d.bar0 f off with
      | some o => d.regWrite o v
      | none => d
    | some p =>
      let d := d.modPart p (fun x => { x with d3hot := false })
      if off % 8 != 0 || (d.part p).state = .resetting then d.countPeerErr p
      else match d.bar0 f off with
        | some o => d.regWrite o v
        | none => d
def execRegisterWrite (f : FuncIx) (off : Nat) (v : Word) (s : State) : Out := .next { s with dev := s.dev.hostWrite f off v }

/-- A read of n bytes through BAR0 of a function (04 R137): of a register, whose data goes to the host; of another size or alignment, or of a
partition that is reset, it completes with Unsupported Request. -/
def Dev.hostRead (d : Dev) (f : FuncIx) (off : Nat) (n : Nat := 8) : Dev :=
  if !d.functionUp f then d
  else if n != 8 || off % 8 != 0 || (match FuncIx.part f with | some p => (d.part p).state = .resetting | none => false) then
    { d.hostRefuse f with sent := d.sent ++ [.unsupported] }
  else match d.bar0 f off with
    | some o =>
      let (v, d) := d.regRead o
      { d with sent := d.sent ++ [.readData (leBytes 8 v.toNat)] }
    | none => { d with sent := d.sent ++ [.readData (leBytes 8 0)] }

/-- A read of BAR2 returns zeros (13 R401, 17 R478). -/
def Dev.bar2Read (d : Dev) (p : PartId) (n : Nat) : Dev :=
  if d.functionUp ⟨p.val + 1, by omega⟩ then { d with sent := d.sent ++ [.readData (List.replicate n 0)] } else d

/-- The function of a partition. -/
def PartId.func (n : PartId) : FuncIx := ⟨n.val + 1, by omega⟩
def execMemerrRead (n : PartId) (s : State) : Out := .next { s with dev := s.dev.hostRead (PartId.func n) 0x1008 }
def execPeererrRead (n : PartId) (s : State) : Out := .next { s with dev := s.dev.hostRead (PartId.func n) 0x4018 }
def execDisperrRead (n : PartId) (s : State) : Out := .next { s with dev := s.dev.hostRead (PartId.func n) 0x2020 }
def execIngstatRead (n : PartId) (w : WindowIx) (s : State) : Out :=
  .next { s with dev := s.dev.hostRead (PartId.func n) (0x3008 + 16 * w.val) }
def execLinkstatRead (p : LinkIx) (s : State) : Out := .next { s with dev := s.dev.hostRead 0 (0x2000600 + 8 * p.val) }

end Sys2Proof.Machine
end

