-- ==== Sys2Proof/Machine/LoadStore.lean ====
section
/-! DEFINITION. Loads and stores (09 R303, R304), registers by MMIO (04 R137), and SIGST (09 R319, 04 R161). -/

namespace Sys2Proof.Machine

/-- A value of n bytes in a register, sign or zero extended (09 R303). -/
def extend (n : Nat) (signed : Bool) (v : Nat) : Word :=
  let v := v % 2 ^ (8 * n)
  if signed && decide (2 ^ (8 * n - 1) ≤ v) then BitVec.ofNat 64 (2 ^ 64 - 2 ^ (8 * n) + v) else BitVec.ofNat 64 v

/-- A load of n bytes (09 R303), an acquire where `acq` says so (R304): the order of its checks, then the access. One of another device takes
what the cluster's buffered writes hold of it, or stays outstanding (04 R123, R134). -/
def loadM (g : GReg) (ga : Word) (n : Nat) (signed acq : Bool) (c : ClusterId) (k : StrandIx) (x : Ctx) : M Next := do
  if ga.toNat % n != 0 then trapM .misaligned ga
  match ← tryAcc ga (resolve x ga .read) with
  | none => do
    modify (fun d => d.peerRefusal c k ga)
    setRegM c k g 0
    return none
  | some (.mmio o) => do
    if n != 8 then trapM .misaligned ga
    let (v, d) := (← get).regRead o
    set (if acq then d.acquire c k else d)
    setRegM c k g v
    return none
  | some (.peer m off) => do
    match ← liftAcc ga (peerLocal x m off n true) with
    | some (bs, po) => do
      if po then trapM .poison ga
      loaded c k g n signed acq bs
    | none => do
      let d ← get
      let r : Req := { tag := 0, who := .strand k, kind := .load g n signed, addr := ga, first := d.now, limit := 0, reissue := none,
                       reply := none, member := m, port := d.freePort, act := some (.read n), off := off, acq := acq }
      let (tag, d) := d.addReq c r
      set d
      throw (.wait (.remote tag))
  | some t => do
    let (bs, po) ← liftAcc ga (readT x ga t n)
    if po then trapM .poison ga
    loaded c k g n signed acq bs
where
  /-- The value is placed. -/
  loaded (c : ClusterId) (k : StrandIx) (g : GReg) (n : Nat) (signed acq : Bool) (bs : List Byte) : M Next := do
    if acq then modify (fun d => d.acquire c k)
    setRegM c k g (extend n signed (leNat bs))
    return none

/-- The load instructions: base g[a], offset SExt(imm16). -/
def State.load (s : State) (g a : GReg) (i : BitVec 16) (n : Nat) (signed : Bool) : Out :=
  s.asStrand (loadM g (s.g a + i.signExtend 64) n signed false)
def execLdb (d a : GReg) (i : BitVec 16) (s : State) : Out := s.load d a i 1 true
def execLdh (d a : GReg) (i : BitVec 16) (s : State) : Out := s.load d a i 2 true
def execLdw (d a : GReg) (i : BitVec 16) (s : State) : Out := s.load d a i 4 true
def execLdd (d a : GReg) (i : BitVec 16) (s : State) : Out := s.load d a i 8 false
def execLdbu (d a : GReg) (i : BitVec 16) (s : State) : Out := s.load d a i 1 false
def execLdhu (d a : GReg) (i : BitVec 16) (s : State) : Out := s.load d a i 2 false
def execLdwu (d a : GReg) (i : BitVec 16) (s : State) : Out := s.load d a i 4 false
/-- LDA (09 R304): 4 bytes zero-extended, or 8; an acquire. -/
def execLda (d a : GReg) (_sc : BitVec 3) (w : Bool) (s : State) : Out :=
  s.asStrand (loadM d (s.g a) (if w then 8 else 4) false true)

/-- The target of a store of n bytes by a strand, or of a signal operation, checked in the order of 09 R303: none where the member of a PEER
address refused. A node window takes neither a strand's store nor an atomic or presence operation (02 R61, R63). -/
def storeTarget (x : Ctx) (ga : Word) (n : Nat) (signal : Bool := false) : M (Option Target) := do
  if ga.toNat % n != 0 then trapM .misaligned ga
  match ← tryAcc ga (resolve x ga .write) with
  | none => return none
  | some (.mmio o) => do
    if n != 8 then trapM .misaligned ga
    return some (.mmio o)
  | some (.node h i _) => do
    let d ← get
    if signal || (vgetD (d.cl h).memNodes i MemNode.reset).nb = 0 then trapM .aperture ga
    trapM .misaligned ga
  | some (.scratch h o) => do
    let d ← get
    match d.bankCheck (d.partOf h) h o with
    | some e => throw (e.toErr ga)
    | none => return some (.scratch h o)
  | some t => return some t

/-- The write of a checked store: a register, or memory. A write of HOSTIRQ rings once the strand's earlier accesses are performed at SYSTEM
scope (17 R479). -/
def storeTo (x : Ctx) (k : StrandIx) (ga : Word) (t : Option Target) (n : Nat) (v : Word) : M Unit := do
  liftAcc ga (pastFence x.c k)
  match t with
  | none => modify (fun d => d.peerRefusal x.c k ga)
  | some (.mmio o) => do
    if o % 0x10000 = 0x4028 && 0x1000000 ≤ o && v.toNat % 2 = 1 then liftAcc ga (releaseBy x.c k 5)
    modify (fun d => d.regWrite o v)
  | some t => liftAcc ga (writeT x ga t (cellsOf (leBytes n v.toNat)) false)

/-- A store of the low n bytes of a value. -/
def storeM (ga : Word) (v : Word) (n : Nat) (rel : Option Nat) (c : ClusterId) (k : StrandIx) (x : Ctx) : M Next := do
  let t ← storeTarget x ga n
  match rel with
  | some sc => liftAcc ga (releaseBy c k sc)
  | none => pure ()
  storeTo x k ga t n v
  return none

/-- The store instructions: base g[base], offset SExt(imm16), value g[b]. -/
def State.store (s : State) (base b : GReg) (o : BitVec 16) (n : Nat) : Out :=
  s.asStrand (storeM (s.g base + o.signExtend 64) (s.g b) n none)
def execStb (base b : GReg) (o : BitVec 16) (s : State) : Out := s.store base b o 1
def execSth (base b : GReg) (o : BitVec 16) (s : State) : Out := s.store base b o 2
def execStw (base b : GReg) (o : BitVec 16) (s : State) : Out := s.store base b o 4
def execStd (base b : GReg) (o : BitVec 16) (s : State) : Out := s.store base b o 8
/-- STL (09 R304, 04 R129): a store that releases at SCOPE. -/
def execStl (a b : GReg) (sc : BitVec 3) (w : Bool) (s : State) : Out :=
  s.asStrand (storeM (s.g a) (s.g b) (if w then 8 else 4) (some sc.toNat))

/-! SIGST -/

/-- The target of a SIGST's signal word: an atomic add reaches what an AMO does; a PUT, a presence word or another device (09 R319). -/
def signalTarget (x : Ctx) (k : StrandIx) (ga : Word) (put : Bool) : M (Option Target) := do
  match ← storeTarget x ga 8 true with
  | none => return none
  | some (.mmio _) => trapM .aperture ga
  | some t => do
    if !put then return some t
    match x.ap.decode ga.toNat, t with
    | some (5, _), .phys _ _ _ _ => do
      modify (fun d => d.peerRefusal x.c k ga)
      return none
    | _, .phys _ _ _ _ => trapM .aperture ga
    | _, _ => return some t

/-- The signal operation of a SIGST (04 R161, R141): performed here, or sent to its device; none where it must wait: at a bank that is BUSY
(02 R72). A PUT that finds its word full is reported, and so is an operation whose bank has gone to another partition since it was issued. -/
def Dev.signal (d : Dev) (c : ClusterId) (s : Signal) : Option Dev :=
  let refused := fun (d : Dev) (e : Cause) => d.report ⟨.sigst c s.k, c, s.k, e, 0, s.ga⟩
  let add := fun (_ : Unit) =>
    match rmwT ⟨c, .strand s.k, Ident.reset, Apertures.reset⟩ s.t 8 (fun old => some ((old + s.v.toNat) % 2 ^ 64)) false s.va d with
    | (.ok _, d) => some d
    | (.error .protection, d) => some (refused d .protection)
    | (.error _, _) => none
  match s.t with
  | .peer m off =>
    let act : PeerAccess := if s.put then .put s.v else .atomic .add 8 s.v
    some (d.addReq c { tag := 0, who := .strand s.k, kind := .store, addr := s.ga, first := d.now, limit := 0, reissue := none,
                       reply := none, member := m, port := d.freePort, act := some act, off := off }).2
  | .scratch h o =>
    if s.put then
      match d.bankCheck (d.partOf h) h o with
      | some .protection => some (refused d .protection)
      | some _ => none
      | none =>
        match d.putWord h (d.scratchKeyOf h o) s.v (h != c) with
        | some d => some d
        | none => some (refused d .presenceDoublePut)
    else add ()
  | _ => add ()

/-- What a signal waits for is acknowledged. -/
def Dev.signalReady (d : Dev) (c : ClusterId) (s : Signal) : Bool :=
  !(d.cl c).reqs.any (fun r => r.kind = .store && r.reply.isNone && s.after.contains r.tag)

/-- The waiting signal operations of a cluster that can be performed, oldest first and in order for each strand; one that meets a map fence or a
BUSY bank waits on, and has no effect. -/
def Dev.flushSignals (d : Dev) (c : ClusterId) : Dev :=
  let (d, left) := (d.cl c).signals.foldl (fun (acc : Dev × List Signal) s =>
    let (d, left) := acc
    if left.any (fun o => o.k = s.k) || !d.signalReady c s then (d, left ++ [s])
    else match d.signal c s with
      | some d' => if d'.fenceMet then (d, left ++ [s]) else (d', left)
      | none => (d, left ++ [s])) (d, [])
  d.modCl c (fun cl => { cl with signals := left })

/-- The member of a PEER target. -/
def Target.member : Target → Option Nat
  | .peer m _ => some m
  | _ => none

/-- The acknowledgements that a signal operation waits for: that of its data's write to another device, unless the signal follows it to the
same device; and at a scope that reaches devices those of the strand's earlier writes (04 R129). -/
def Dev.signalAfter (d : Dev) (c : ClusterId) (k : StrandIx) (t : Option Target) (ts : Target) (scope dataTag : Nat) : List Nat :=
  let data := match t.bind Target.member with
    | some m => if ts.member = some m then [] else [dataTag]
    | none => []
  let earlier := if 4 ≤ scope then
      ((d.cl c).reqs.filter (fun r => d.ordersStore c k r && !(r.tag = dataTag && (t.bind Target.member).isSome))).map (·.tag)
    else []
  earlier ++ data

/-- SIGST (09 R319, 04 R161): both addresses are checked, the data is written, and the instruction is complete. The signal operation releases at
SCOPE over the data: it is performed now, or waits until what it follows is acknowledged and the strand's earlier signals are performed. -/
def execSigst (a b : GReg) (put : Bool) (sc : BitVec 3) (s : State) : Out :=
  s.asStrand fun c k x => do
    let ga ← regM c k a
    let v ← regM c k b
    let gs ← regM c k (gPlus a 1)
    let vs ← regM c k (gPlus b 1)
    let t ← storeTarget x ga 8
    let ts ← signalTarget x k gs put
    if 2 ≤ sc.toNat then modify (fun d => d.drain c)
    let tag := ((← get).cl c).nextTag
    storeTo x k ga t 8 v
    modify (fun d => d.drain c)
    match ts with
    | none => do
      modify (fun d => d.peerRefusal c k gs)
      return none
    | some ts => do
      let d ← get
      let after := d.signalAfter c k t ts sc.toNat tag
      set ((d.modCl c (fun cl => { cl with signals := cl.signals ++ [(⟨k, gs, ts, vs, put, after, x.countVa gs⟩ : Signal)] })).flushSignals c)
      return none

end Sys2Proof.Machine
end

