-- ==== Sys2Proof/Machine/SysRegs.lean ====
section
/-! DEFINITION. System registers and their SRD and SWR (09 R293, R295 to R297; 01 R15, R25; 04 R143; 06 R202, R206, R207, R217;
09 R318, R320; 13 R422; 17 R490). -/

namespace Sys2Proof.Machine

/-- The system registers in use (09 R295). -/
inductive SysReg where
  | status | trapcause | trappc | trapval | trapvec | tscratch | strandid | cycle | asid | ptroot
  | fpmode | fpflags | fptrapen | slfsr | roundlen | quantum | prio | deferwd | poisoncnt | spillbase | spillsize | snapctl
  | apbase (i : Fin 6) | aplimit (i : Fin 6)
deriving DecidableEq, Repr

/-- The register of a number (09 R295). -/
def sysRegOf (n : Nat) : Option SysReg :=
  match n with
  | 0x000 => some .status
  | 0x001 => some .trapcause
  | 0x002 => some .trappc
  | 0x003 => some .trapval
  | 0x004 => some .trapvec
  | 0x005 => some .tscratch
  | 0x006 => some .strandid
  | 0x007 => some .cycle
  | 0x010 => some .asid
  | 0x011 => some .ptroot
  | 0x020 => some .fpmode
  | 0x021 => some .fpflags
  | 0x022 => some .fptrapen
  | 0x023 => some .slfsr
  | 0x030 => some .roundlen
  | 0x040 => some .quantum
  | 0x041 => some .prio
  | 0x050 => some .deferwd
  | 0x051 => some .poisoncnt
  | 0x052 => some .spillbase
  | 0x053 => some .spillsize
  | 0x054 => some .snapctl
  | 0x061 => some (.apbase 0) | 0x062 => some (.apbase 1) | 0x063 => some (.apbase 2)
  | 0x064 => some (.apbase 3) | 0x065 => some (.apbase 4) | 0x066 => some (.apbase 5)
  | 0x071 => some (.aplimit 0) | 0x072 => some (.aplimit 1) | 0x073 => some (.aplimit 2)
  | 0x074 => some (.aplimit 3) | 0x075 => some (.aplimit 4) | 0x076 => some (.aplimit 5)
  | _ => none

/-- Registers open to user privilege (09 R295). -/
def SysReg.user : SysReg → Bool
  | .strandid | .cycle | .fpmode | .fpflags | .fptrapen | .slfsr | .roundlen => true
  | _ => false

/-- STATUS as a word (09 R293). -/
def Strand.status (st : Strand) : Word :=
  BitVec.ofNat 64 (fldB st.dbl 5 + fldB st.pie 4 + fldB st.ppriv 3 + fldB st.ie 1 + fldB st.priv 0)

/-- A context's effective priority (13 R423). -/
def RegCtx.eff (x : RegCtx) : Nat := if x.running then x.base else Nat.min 3 (x.base + x.boost)

/-- PRIO (13 R422): byte k for region k. -/
def Cluster.prioWord (cl : Cluster) : Nat :=
  (List.finRange 4).foldl (fun n k =>
    let r := vget cl.fab.regions k
    let run := r.ctxs.find? (·.running)
    n + fld r.ctxs.length (8 * k.val + 5) + fldB r.pin (8 * k.val + 4) +
      fld ((run.map RegCtx.eff).getD 0 % 4) (8 * k.val + 2) + fld ((run.map (·.base)).getD (bits cl.prio.toNat (8 * k.val + 1) (8 * k.val)) % 4)
        (8 * k.val)) 0

/-- What a read of a register returns (00 R7). -/
def Dev.sysRead (d : Dev) (c : ClusterId) (k : StrandIx) (r : SysReg) : Word :=
  let cl := d.cl c
  let st := d.strand c k
  match r with
  | .status => st.status
  | .trapcause => BitVec.ofNat 64 (fld st.trapSub.toNat 8 + st.trapCause.toNat)
  | .trappc => st.trapPc
  | .trapval => st.trapVal
  | .trapvec => st.trapVec.setWidth 64 <<< 2
  | .tscratch => st.tscratch
  | .strandid => BitVec.ofNat 64 (fld (vget d.cmapClusters c).toNat 16 + fld c.val 8 + k.val)
  | .cycle => BitVec.ofNat 64 d.now
  | .asid => st.asid.setWidth 64
  | .ptroot => BitVec.ofNat 64 (fld st.ptRoot.toNat 12 + fldB st.ptEn 0)
  | .fpmode => cl.fpMode
  | .fpflags => cl.fpFlags
  | .fptrapen => cl.fpTrapEn
  | .slfsr => st.slfsr.setWidth 64
  | .roundlen => st.roundLen.setWidth 64
  | .quantum => cl.quantum.setWidth 64
  | .prio => BitVec.ofNat 64 cl.prioWord
  | .deferwd => cl.deferLimit.setWidth 64
  | .poisoncnt => BitVec.ofNat 64 (fldB cl.poisonEn 63 + cl.poisonCount.toNat)
  | .spillbase => BitVec.ofNat 64 (fld cl.spillBase.toNat 6)
  | .spillsize => BitVec.ofNat 64 (fldB cl.spillTrapEn 63 + fld (cl.spillUsed % 2 ^ 20) 20 + cl.spillEntries.toNat)
  | .snapctl => BitVec.ofNat 64 (fldB cl.snapUen 63 + fldB cl.snapCmen 62 + cl.cmatch.toNat)
  | .apbase i => BitVec.ofNat 64 (fld (vget cl.ap.base i).toNat 24)
  | .aplimit i => BitVec.ofNat 64 (fld (vget cl.ap.limit i).toNat 24 + 0xFFFFFF)

/-- The byte of FPMODE after a write (06 R202): a mode of 6 or 7 leaves RND. -/
def fpModeByte (old new : Nat) : Nat := fldB (bit new 3) 3 + (if new % 8 < 6 then new % 8 else old % 8)
/-- A register of eight bytes, byte by byte. -/
def byBytes (f : Nat → Nat → Nat) (old new : Word) : Word :=
  BitVec.ofNat 64 ((List.range 8).foldl (fun n i => n + f (old.toNat / 256 ^ i % 256) (new.toNat / 256 ^ i % 256) % 256 * 256 ^ i) 0)

/-- The base priorities of running contexts, and PIN, take a write of PRIO (13 R422). -/
def Cluster.writePrio (cl : Cluster) (v : Nat) : Cluster :=
  { cl with
    prio := BitVec.ofNat 64 ((List.range 4).foldl (fun n k => n + fld (v / 2 ^ (8 * k) % 4) (8 * k)) 0)
    fab := { cl.fab with regions := Vector.ofFn (fun k =>
      let r := vget cl.fab.regions k
      { r with
        pin := bit v (8 * k.val + 4)
        ctxs := r.ctxs.map (fun (x : RegCtx) => if x.running then { x with base := v / 2 ^ (8 * k.val) % 4 } else x) }) } }

/-- A strand's own registers after a write (09 R293, R296, R297; 01 R25). -/
def Strand.sysWrite (st : Strand) (r : SysReg) (v : Word) : Strand :=
  let n := v.toNat
  match r with
  | .status => { st with dbl := st.dbl && !bit n 5, pie := bit n 4, ppriv := bit n 3, ie := bit n 1 }
  | .trapcause => { st with trapSub := BitVec.ofNat 8 (bits n 15 8), trapCause := BitVec.ofNat 8 n }
  | .trappc => { st with trapPc := v }
  | .trapval => { st with trapVal := v }
  | .trapvec => { st with trapVec := BitVec.ofNat 62 (n / 4) }
  | .tscratch => { st with tscratch := v }
  | .asid => { st with asid := BitVec.ofNat 16 n }
  | .ptroot => { st with ptRoot := BitVec.ofNat 40 (bits n 51 12), ptEn := bit n 0 }
  | .slfsr => if n % 2 ^ 32 = 0 then st else { st with slfsr := BitVec.ofNat 32 n }
  | .roundlen => { st with roundLen := BitVec.ofNat 17 n }
  | _ => st

/-- A cluster's registers after a write. -/
def Cluster.sysWrite (cl : Cluster) (r : SysReg) (v : Word) : Cluster :=
  let n := v.toNat
  match r with
  | .fpmode => { cl with fpMode := byBytes fpModeByte cl.fpMode v }
  | .fpflags => { cl with fpFlags := cl.fpFlags &&& ~~~v }
  | .fptrapen => { cl with fpTrapEn := v &&& 0x1F1F1F1F1F1F1F1F }
  | .quantum => { cl with quantum := BitVec.ofNat 20 n }
  | .prio => cl.writePrio n
  | .deferwd => { cl with deferLimit := BitVec.ofNat 32 n }
  | .poisoncnt => { cl with poisonEn := bit n 63 }
  | .spillbase => if cl.spillUsed != 0 then cl else { cl with spillBase := BitVec.ofNat 46 (bits n 51 6), spillHead := 0 }
  | .spillsize =>
    if cl.spillUsed != 0 then cl else { cl with spillTrapEn := bit n 63, spillEntries := BitVec.ofNat 20 n, spillHead := 0 }
  | .snapctl => { cl with snapUen := bit n 63, snapCmen := bit n 62, cmatch := BitVec.ofNat 48 n }
  | .apbase i => { cl with ap := { cl.ap with base := vset cl.ap.base i (BitVec.ofNat 40 (n / 2 ^ 24)) } }
  | .aplimit i => { cl with ap := { cl.ap with limit := vset cl.ap.limit i (BitVec.ofNat 40 (n / 2 ^ 24)) } }
  | _ => cl

/-- The number of a system register (07 R235). -/
def sysNum (n : BitVec 5) (r : BitVec 8) : Nat := n.toNat * 256 + r.toNat

/-- The check of SRD and SWR (09 R296): an unassigned number traps with ILLEGAL, a supervisor register at user privilege with PROTECTION,
TRAPVAL holding the number (14 R425). -/
def State.sysCheck (s : State) (i : Instr) (num : Nat) (go : SysReg → State) : State :=
  match sysRegOf num with
  | none => s.trapHere .illegal 0 (instrWord i)
  | some r => if !s.me.priv && !r.user then s.trapHere .protection 0 (BitVec.ofNat 64 num) else go r

/-- SRD (09 R296): a read of POISONCNT clears its count. -/
def execSrd (d : GReg) (n : BitVec 5) (r : BitVec 8) (s : State) : Out :=
  .next (s.sysCheck (.srd d n r) (sysNum n r) (fun x =>
    let v := s.dev.sysRead s.curC s.curK x
    let s := if x = .poisoncnt then { s with dev := s.dev.modCl s.curC (fun cl => { cl with poisonCount := 0 }) } else s
    s.writeG d v))

/-- SWR (09 R296): it takes effect from the strand's next instruction. -/
def execSwr (a : GReg) (n : BitVec 5) (r : BitVec 8) (s : State) : Out :=
  .next (s.sysCheck (.swr a n r) (sysNum n r) (fun x =>
    let v := s.g a
    let s := { s with dev := s.dev.modCl s.curC (fun cl => cl.sysWrite x v) }
    s.modMe (fun st => (st.sysWrite x v).advance 4)))

end Sys2Proof.Machine
end

