-- ==== Sys2Proof/Machine/Reply.lean ====
section
/-! DEFINITION. Answers from other devices (03 R95, 04 R161), DEFERWD (04 R143), Ralva links (17 R481, R483), and accesses that arrive
from the domain (17 R474, R475, R482). -/

namespace Sys2Proof.Machine

/-- Drop an outstanding request. -/
def Dev.dropReq (d : Dev) (c : ClusterId) (tag : Nat) : Dev :=
  d.modCl c (fun cl => { cl with reqs := cl.reqs.filter (fun r => r.tag != tag) })

/-- A store's acknowledgement is a refusal: a reply that is not empty, nor the old value of an atomic. -/
def Req.storeRefused (r : Req) (data : List Byte) : Bool :=
  match r.act with
  | some (.atomic _ n _) => !(data.isEmpty || data.length = n)
  | _ => !data.isEmpty

/-- The end of a store that a strand or a draining half made to another device (01 R18, 04 R141, 02 R84): a PUT answered with a one byte
reply of 1 found its word full. -/
def Dev.storeAnswered (d : Dev) (c : ClusterId) (r : Req) (data : List Byte) : Dev :=
  let d := d.dropReq c r.tag
  if !r.storeRefused data then d
  else match r.who with
    | .strand k =>
      match r.act, data with
      | some (.put _), [1] => d.report ⟨.sigst c k, c, k, .presenceDoublePut, 0, r.addr⟩
      | _, _ => d.peerRefusal c k r.addr
    | .drain g => d.commitFault c g .protection ((d.region c g).round) r.addr
    | _ => d

/-- The read that has returned is an acquire (04 R130). -/
def Dev.acquired (d : Dev) (c : ClusterId) (k : StrandIx) (r : Req) : Dev := if r.acq then d.acquire c k else d

/-- A reply of another device reaches its request (03 R95): data of the length asked for; one byte more says that it is poisoned; any
other length refuses. A refused load, AMO or CAS completes with zero (01 R18). -/
def Dev.reply (d : Dev) (c : ClusterId) (r : Req) (data : List Byte) : Dev :=
  match r.kind, r.who with
  | .load g n sg, .strand k =>
    let d := d.dropReq c r.tag
    if data.length = n then (d.acquired c k r).modStrand c k (fun st => (st.setG g (extend n sg (leNat data))).advance 4)
    else if data.length = n + 1 then d.modStrand c k (fun st => st.enterTrap .poison 0 r.addr st.pc)
    else (d.peerRefusal c k r.addr).modStrand c k (fun st => (st.setG g 0).advance 4)
  | .atomic g n, .strand k =>
    let d := d.dropReq c r.tag
    if data.length = n then (d.acquired c k r).modStrand c k (fun st => (st.setG g (extend n true (leNat data))).advance 4)
    else if data.length = n + 1 then d.modStrand c k (fun st => st.enterTrap .poison 0 r.addr st.pc)
    else (d.peerRefusal c k r.addr).modStrand c k (fun st => (st.setG g 0).advance 4)
  | .store, .queue _ _ =>
    d.modCl c (fun cl => { cl with reqs := cl.reqs.map (fun q =>
      if q.tag = r.tag then { q with reply := some (if r.storeRefused data then [1] else []) } else q) })
  | .store, _ => d.storeAnswered c r data
  | .read _ _ _, _ =>
    d.modCl c (fun cl => { cl with reqs := cl.reqs.map (fun q => if q.tag = r.tag then { q with reply := some data } else q) })
  | _, _ => d

/-- A request of another device that has no answer yet. -/
def Dev.peerReq (d : Dev) (c : ClusterId) (tag : Nat) : Option Req :=
  (d.cl c).reqs.find? (fun r => r.tag = tag && r.act.isSome && r.reply.isNone)

/-- REPLY_PLACEMENT: the reply with this tag arrives. -/
def Dev.replyPlacement (d : Dev) (c : ClusterId) (tag : Nat) (data : List Byte) : Dev :=
  match d.peerReq c tag with
  | some r => (d.reply c r data).flushSignals c
  | none => d
def execReplyPlacement (c : ClusterId) (tag : Nat) (data : List Byte) (s : State) : Out :=
  .next { s with dev := s.dev.replyPlacement c tag data }

/-- DEFER_TIMEOUT (04 R143, R144): the limit of an unanswered RDF or TAKE has passed: it is cancelled, and its strand traps or its region
faults. -/
def Dev.deferTimeout (d : Dev) (c : ClusterId) (tag : Nat) : Dev :=
  match (d.cl c).reqs.find? (fun r => r.tag = tag) with
  | none => d
  | some r =>
    match r.kind with
    | .presence _ _ _ _ =>
      if r.limit = 0 || r.reply.isSome || d.now < r.first + r.limit then d
      else match r.who with
        | .strand k => (d.cancelReq c tag).modStrand c k (fun st => st.enterTrap .deferTimeout 0 r.addr st.pc)
        | .gen g _ _ =>
          match (d.agen c g).region with
          | some x => (d.cancelReq c tag).faultRegion c x ⟨1, g.val, .deferTimeout, false, r.addr⟩
          | none => d.cancelReq c tag
        | _ => d.cancelReq c tag
    | _ => d
def execDeferTimeout (c : ClusterId) (tag : Nat) (s : State) : Out := .next { s with dev := s.dev.deferTimeout c tag }

/-! Links -/

/-- Change a link port. -/
def Dev.modLink (d : Dev) (p : LinkIx) (f : Link → Link) : Dev := { d with links := vmod d.links p f }

/-- LINK_DEGRADED (17 R483): 4 lanes. -/
def execLinkDegraded (p : LinkIx) (s : State) : Out :=
  if (vget s.dev.links p).state = 2 then .next { s with dev := s.dev.modLink p (fun _ => ⟨(vget s.dev.links p).retry, 4, 3⟩) } else .next s

/-- LINK_DOWN (17 R483): the port's unacknowledged messages are sent again on another port that has a path. -/
def Dev.linkDown (d : Dev) (p : LinkIx) : Dev :=
  let d := d.modLink p (fun l => { l with lanes := 0, state := 0 })
  let port := d.freePort
  { d with clusters := d.clusters.map (fun (cl : Cluster) =>
      { cl with reqs := cl.reqs.map (fun (r : Req) => if r.port = some p then { r with port := port } else r) }) }
def execLinkDown (p : LinkIx) (s : State) : Out := .next { s with dev := s.dev.linkDown p }

/-- The reply that refuses a request: no bytes for one that reads, two for a store, whose acknowledgement has none. -/
def Req.refusal (r : Req) : List Byte :=
  match r.kind with
  | .store => [0, 0]
  | _ => []

/-- PATH_TIMEOUT (17 R483): a request without a path is refused, and not performed. -/
def Dev.pathTimeout (d : Dev) (c : ClusterId) (tag : Nat) : Dev :=
  match d.peerReq c tag with
  | some r => if r.port.isSome || d.freePort.isSome then d else d.reply c r r.refusal
  | none => d
def execPathTimeout (c : ClusterId) (tag : Nat) (s : State) : Out := .next { s with dev := s.dev.pathTimeout c tag }

/-- FLIT_RECEIVE (17 R481): a flit with a bad CRC is replayed and counted; one that is good brings its message, whose request is then performed
once (INCOMING_PEER_ACCESS). -/
def Dev.flitReceive (d : Dev) (p : LinkIx) (crcOk : Bool) (src : Nat) (seq : BitVec 16) : Dev :=
  if !crcOk then d.modLink p (fun l => { l with retry := satAdd l.retry 1 })
  else if d.received.contains (src, seq.toNat) then d
  else
    let older := d.received.filter (fun x => x.1 = src)
    let kept := d.received.filter (fun x => x.1 != src) ++ older.drop (older.length + 1 - 32768)
    { d with received := kept ++ [(src, seq.toNat)] }
def execFlitReceive (p : LinkIx) (crcOk : Bool) (src : Nat) (seq : BitVec 16) (s : State) : Out :=
  .next { s with dev := s.dev.flitReceive p crcOk src seq }

/-! Exported memory, as others reach it -/

/-- The answer to an access from outside. -/
inductive ExportAnswer where
  | data (bs : List Byte)
  | done
  | refused
  | poisoned
  | full
deriving DecidableEq, Repr

/-- Read n bytes of an export target, atom by atom (17 R474). -/
def Dev.exportRead (d : Dev) (t : Target) (n : Nat) : (List Byte × Bool) × Dev :=
  match t with
  | .phys p pa _ _ => d.physReadN p (n / 64 + 2) pa n
  | .scratch c o =>
    let parts := (List.range n).map (fun i =>
      let key := d.scratchKeyOf c (o + i)
      (memRead d.mem key, smem d.poison (key / 64)))
    ((parts.map (·.1), parts.any (·.2)), d)
  | _ => (([], false), d)

/-- Write bytes at an export target. -/
def Dev.exportWrite (d : Dev) (t : Target) (bs : List Byte) : Dev :=
  match t with
  | .phys p pa _ _ => d.physWriteN p (bs.length / 64 + 2) pa bs
  | .scratch c o =>
    (granules (bs.length / 64 + 2) (BitVec.ofNat 64 o) bs.length).foldl (fun d g =>
      let key := d.scratchKeyOf c (g.1.toNat / 64 * 64)
      d.bankWrite true (((bs.drop (g.1.toNat - o)).take g.2).zipIdx.map (fun x => (key + g.1.toNat % 64 + x.2, x.1))) false none) d
  | _ => d

/-- The place where every byte of an access is exported, each bank of it owned and not BUSY (17 R474): the target of its first byte. -/
def Dev.exportAt (d : Dev) (q : PartId) (src : Option Nat) (off n : Nat) (write : Bool) : Option Target :=
  if (List.range (n / 64 + 1)).any (fun i => decide (64 * i < n) && (d.exportTarget q src (off + 64 * i) write).isNone) then none
  else match d.exportTarget q src off write, d.exportTarget q src (off + n - 1) write with
  | some (.phys p a ca e), some (.phys _ b _ _) => if b = a + n - 1 then some (.phys p a ca e) else none
  | some (.scratch c o), some (.scratch c' o') => if c = c' && o' = o + n - 1 then some (.scratch c o) else none
  | _, _ => none

/-- A read-modify-write of n bytes at an export target, in one step (04 R136): the old value. -/
def Dev.exportRmw (d : Dev) (t : Target) (n : Nat) (f : Nat → Option Nat) : ExportAnswer × Dev :=
  let ((bs, po), d) := d.exportRead t n
  if po then (.poisoned, d)
  else match f (leNat bs) with
    | some v => (.data bs, d.exportWrite t (leBytes n v))
    | none => (.data bs, d)

/-- The combination of a REDUCE at an export target, within one granule, in one step (11 R355, 04 R136). -/
def Dev.exportReduce (d : Dev) (t : Target) (fmt op : Nat) (bs : List Byte) (poison : Bool) : Dev :=
  let ((old, po), d) := d.exportRead t bs.length
  let new := leBytes bs.length (redCombine fmt op (bs.length / redSize fmt) (leNat old) (leNat bs))
  match t with
  | .phys p pa _ _ => d.homeWrite p pa 0 false (new.zipIdx.map (fun x => (pa + x.2, x.1))) (poison || po) none
  | .scratch c o =>
    let key := d.scratchKeyOf c (o / 64 * 64)
    d.bankWrite true (new.zipIdx.map (fun x => (key + o % 64 + x.2, x.1))) (poison || po) none
  | _ => d

/-- A PUT at an export target: only a presence word of a scratchpad (04 R138, 17 R477). -/
def Dev.exportPut (d : Dev) (t : Target) (off : Nat) (v : Word) : ExportAnswer × Dev :=
  match t with
  | .scratch c o =>
    if off % 8 != 0 then (.refused, d)
    else match d.putWord c (d.scratchKeyOf c o) v true with
      | some d => (.done, d)
      | none => (.full, d)
  | _ => (.refused, d)

/-- An access from outside, performed at the exported memory of a partition (17 R474 to R476, R482). -/
def Dev.exported (d : Dev) (q : PartId) (src : Option Nat) (off : Nat) (act : PeerAccess) : ExportAnswer × Dev :=
  match act with
  | .read n =>
    match d.exportAt q src off (Nat.max n 1) false with
    | none => (.refused, d)
    | some t =>
      let ((bs, po), d) := d.exportRead t n
      (if po then .poisoned else .data bs, d)
  | .write bs =>
    match d.exportAt q src off (Nat.max bs.length 1) true with
    | none => (.refused, d)
    | some t => (.done, d.exportWrite t bs)
  | .atomic op n v =>
    match d.exportAt q src off n true with
    | none => (.refused, d)
    | some t => if off % n != 0 then (.refused, d) else d.exportRmw t n (fun old => some (amoFn op n old (v.toNat % 2 ^ (8 * n))))
  | .cas n e v =>
    match d.exportAt q src off n true with
    | none => (.refused, d)
    | some t =>
      if off % n != 0 then (.refused, d)
      else d.exportRmw t n (fun old => if old = e.toNat % 2 ^ (8 * n) then some (v.toNat % 2 ^ (8 * n)) else none)
  | .put v =>
    match d.exportAt q src off 8 true with
    | none => (.refused, d)
    | some t => d.exportPut t off v
  | .reduce fmt op bs poison =>
    match d.exportAt q src off (Nat.max bs.length 1) true with
    | none => (.refused, d)
    | some t => if off / 64 = (off + bs.length - 1) / 64 then (.done, d.exportReduce t fmt op bs poison) else (.refused, d)
  | .numbered _ act => d.exported q src off act

/-- A request of another member has been performed or refused: the sequence numbers of the last 32,768 of each source and target are kept
(17 R481; log 34). -/
def Dev.noteRequest (d : Dev) (src : Nat) (n : PartId) (seq : Nat) : Dev :=
  let key := src * 8 + n.val
  let older := d.performed.filter (fun x => x.1 = key)
  { d with performed := d.performed.filter (fun x => x.1 != key) ++ older.drop (older.length + 1 - 32768) ++ [(key, seq)] }

/-- A request of another member is checked, performed or refused, and answered (17 R475, R482). -/
def Dev.incomingNew (d : Dev) (src : Nat) (n : PartId) (off : Nat) (act : PeerAccess) : Dev :=
  let (a, d) := d.exported n (some src) off act
  let say := fun (d : Dev) (m : HostMsg) => { d with sent := d.sent ++ [m] }
  match a with
  | .data bs => say d (.peerData src bs)
  | .done => say d (.peerDone src)
  | .refused => say (d.countPeerErr n) (.peerRefused src)
  | .poisoned => say d (.peerPoison src)
  | .full => say d (.peerData src [1])
/-- INCOMING_PEER_ACCESS (17 R475, R481, R482): the request of a message that a good flit has brought; a duplicate of its source and target is
discarded. A request without a number is none (log 34). -/
def Dev.incoming (d : Dev) (src : Nat) (n : PartId) (off : Nat) (act : PeerAccess) : Dev :=
  match act with
  | .numbered seq act =>
    if !d.received.contains (src, seq.toNat) then d
    else
      let d := { d with received := d.received.erase (src, seq.toNat) }
      if d.performed.contains (src * 8 + n.val, seq.toNat) then d else (d.noteRequest src n seq.toNat).incomingNew src n off act
  | _ => d
def execIncomingPeerAccess (src : Fin 4096) (n : PartId) (off : BitVec 40) (acc : PeerAccess) (s : State) : Out :=
  .next { s with dev := s.dev.incoming src.val n off.toNat acc }

end Sys2Proof.Machine
end

