-- ==== Sys2Proof/Machine/Token.lean ====
section
/-! DEFINITION. Tokens and graphs (13 R400 to R414, R419, R420): windows, the checks of a token, binding, EDIT, PREEMPT, DATA,
dependences, and GLAUNCH (09 R315). -/

namespace Sys2Proof.Machine

/-! Fields of a token (R404) -/
def tokKind (t : Vector Word 8) : Nat := bits (pw t 0) 7 0
def tokPrio (t : Vector Word 8) : Nat := bits (pw t 0) 9 8
def tokGraph (t : Vector Word 8) : Nat := bits (pw t 0) 31 16
def tokVersion (t : Vector Word 8) : Nat := bits (pw t 0) 47 32
def tokTag (t : Vector Word 8) : Nat := bits (pw t 0) 63 48

/-- An address and value pair of a LAUNCH (R405). -/
def tokPairOk (a v : Nat) : Bool := a % 8 = 0 && !bit v 63 && (a != 0 || v = 0)
/-- Words i and above are zero. -/
def tokZeroFrom (t : Vector Word 8) (i : Nat) : Bool := (List.range 8).all (fun j => decide (j < i) || pw t j = 0)
/-- Element i of a DATA token (R406). -/
def tokElem (t : Vector Word 8) (i : Nat) : Nat := bits (pw t (2 + i / 2)) (32 * (i % 2) + 31) (32 * (i % 2))
def tokCount (t : Vector Word 8) : Nat := bits (pw t 1) 23 20

/-- The format of a token (R404 to R406). -/
def tokFormatOk (t : Vector Word 8) : Bool :=
  bits (pw t 0) 15 10 = 0 &&
  (match tokKind t with
  | 1 => pw t 1 % 64 = 0 && tokPairOk (pw t 2) (pw t 3) && tokPairOk (pw t 4) (pw t 5) && tokPairOk (pw t 6) (pw t 7)
  | 2 => tokVersion t = 0 && tokPrio t = 0 && tokZeroFrom t 1
  | 3 => tokVersion t != 0 && tokPrio t = 0 && tokZeroFrom t 1
  | 4 =>
    let k := bits (pw t 1) 17 16
    let n := tokCount t
    decide (tokVersion t ≤ 3) && tokPrio t = 0 && bits (pw t 1) 19 18 = 0 && bits (pw t 1) 63 24 = 0 && k != 2 &&
      (if k = 0 then decide (1 ≤ n) && decide (n ≤ 12) else n = 0) &&
      (List.range 12).all (fun i => decide (i < n) || tokElem t i = 0)
  | _ => false)

/-! Graphs and versions (R408, R409) -/

/-- Eight words from 64 bytes. -/
def words8 (b : List Byte) : Vector Word 8 := Vector.ofFn (fun i => leWord ((b.drop (8 * i.val)).take 8))
/-- The fields of a graph entry (R408). -/
def graphEntryOk (w : Vector Word 8) : Bool :=
  bit (pw w 0) 0 && bits (pw w 0) 15 3 = 0 && bits (pw w 0) 63 48 = 0 && pw w 2 % 64 = 0 && bits (pw w 3) 63 16 = 0 && tokZeroFrom' w
where
  tokZeroFrom' (w : Vector Word 8) : Bool := (List.range 8).all (fun j => decide (j < 4) || pw w j = 0)
/-- The entry of a graph, read whole (R408, R410); none fails its token with cause 1. -/
def Dev.graphEntry (d : Dev) (p : PartId) (g : Nat) : Option (Vector Word 8) × Dev :=
  let b := (d.part p).db
  let a := b.gtBase.toNat * 4096 + 64 * g
  if b.gtSize.toNat ≤ g || !d.class0 p a 64 then (none, d)
  else
    let ((bs, po), d) := d.physReadN p 2 a 64
    (if po || !graphEntryOk (words8 bs) then none else some (words8 bs), d)
def geConc (ge : Vector Word 8) : Bool := bit (pw ge 0) 1
def geUser (ge : Vector Word 8) : Bool := bit (pw ge 0) 2
def geLatest (ge : Vector Word 8) : Nat := bits (pw ge 0) 31 16
/-- The identity of a graph's instances (R407, R408): user privilege. -/
def geIdent (ge : Vector Word 8) : Ident :=
  ⟨false, BitVec.ofNat 16 (bits (pw ge 0) 47 32), BitVec.ofNat 40 (pw ge 1 / 4096), bit (pw ge 1) 0⟩

def vrNcl (vr : Vector Word 8) : Nat := bits (pw vr 0) 7 1
def vrLoadId (vr : Vector Word 8) : Nat := bits (pw vr 0) 63 32
/-- Ingress index i of a version record (R409). -/
def vrIng (vr : Vector Word 8) (i : Nat) : Nat := bits (pw vr 3) (16 * i + 15) (16 * i)
/-- The fields of a version record (R409). -/
def versionOk (w : Vector Word 8) : Bool :=
  bit (pw w 0) 0 && decide (1 ≤ vrNcl w) && decide (vrNcl w ≤ 72) && bits (pw w 0) 31 8 = 0 && pw w 1 % 64 = 0 && pw w 2 % 4 = 0 &&
  (List.range 4).all (fun i => let g := vrIng w i; bits g 14 12 = 0 && !bit g 7 && (!bit g 15 || decide (bits g 6 0 < vrNcl w))) &&
  (List.range 8).all (fun j => decide (j < 4) || pw w j = 0)
/-- The record of version v (R409); none fails the token with cause 1. -/
def Dev.versionRec (d : Dev) (p : PartId) (ge : Vector Word 8) (v : Nat) : Option (Vector Word 8) × Dev :=
  let a := pw ge 2 + 64 * (v - 1)
  if v = 0 || bits (pw ge 3) 15 0 < v || !d.class0 p a 64 then (none, d)
  else
    let ((bs, po), d) := d.physReadN p 2 a 64
    (if po || !versionOk (words8 bs) then none else some (words8 bs), d)

/-- A virtual address of a token or record (R407): its physical address and the leaf's attributes. -/
def Dev.tokTrans (d : Dev) (die : DieId) (p : PartId) (id : Ident) (kind : AccKind) (va : Nat) : Option (Nat × Nat × Bool) × Dev :=
  if 2 ^ 52 ≤ va then (none, d)
  else match d.translate die p id false kind va with
    | (.ok pa e, d) => (some (pa, bits e.toNat 12 11, bit e.toNat 8), d)
    | (.fail _ _, d) => (none, d)
/-- A dependence or DONE word lies in class 0 (R407). -/
def Dev.tokWord (d : Dev) (die : DieId) (p : PartId) (id : Ident) (kind : AccKind) (va : Nat) : Option (Nat × Nat × Bool) × Dev :=
  match d.tokTrans die p id kind va with
  | (some (pa, c, e), d) => (if paClass pa = 0 then some (pa, c, e) else none, d)
  | (none, d) => (none, d)

/-! Failures (R419) -/

/-- DISPERR takes a failure. -/
def Dev.logFail (d : Dev) (p : PartId) (inst graph cause : Nat) : Dev :=
  d.modDb p (fun b => { b with
    errInst := BitVec.ofNat 32 inst
    errGraph := BitVec.ofNat 16 graph
    errCount := BitVec.ofNat 8 (Nat.min 255 (b.errCount.toNat + 1))
    errCause := BitVec.ofNat 8 cause })
/-- A stamp of a LAUNCH is written, as a release at DEVICE scope, where its address is usable (R418, R419). -/
def Dev.writeDone (d : Dev) (die : DieId) (p : PartId) (id : Ident) (va v : Nat) : Bool × Dev :=
  if va = 0 then (true, d)
  else match d.tokWord die p id .write va with
    | (some (pa, c, e), d) => (true, d.homeWrite p pa c e ((leBytes 8 v).zipIdx.map (fun x => (pa + x.2, x.1))) false none)
    | (none, d) => (false, d)
/-- A LAUNCH fails: the failure stamp, then DISPERR. -/
def Dev.failLaunch (d : Dev) (die : DieId) (p : PartId) (ge : Option (Vector Word 8)) (t : Vector Word 8) (inst cause : Nat) : Dev :=
  let d := match ge with
    | some ge => if pw t 6 % 8 = 0 && !bit (pw t 7) 63 then (d.writeDone die p (geIdent ge) (pw t 6) (pw t 7 + 2 ^ 63)).2 else d
    | none => d
  d.logFail p inst (tokGraph t) cause
/-- A token that has no instance fails. -/
def Dev.failToken (d : Dev) (die : DieId) (p : PartId) (t : Vector Word 8) (cause : Nat) : Dev :=
  if tokKind t = 1 then
    let (ge, d) := d.graphEntry p (tokGraph t)
    d.failLaunch die p ge t 0 cause
  else d.logFail p 0 (tokGraph t) cause

/-- The checks that every kind shares: KMASK and privilege, format, graph, USER (R403 to R408, R413). -/
def Dev.admitToken (d : Dev) (h : HandTok) : Except Nat (Vector Word 8) × Dev :=
  let k := tokKind h.token
  if decide (1 ≤ k) && decide (k ≤ 4) && !bit h.kmask.toNat (k - 1) then (.error 3, d)
  else if h.user && k != 1 && k != 4 then (.error 3, d)
  else if !tokFormatOk h.token then (.error 2, d)
  else match d.graphEntry h.part (tokGraph h.token) with
    | (none, d) => (.error 1, d)
    | (some ge, d) => (if h.user && !geUser ge then .error 3 else .ok ge, d)

/-! Instances -/

/-- Instances of a partition, on every die. -/
def Dev.instances (d : Dev) (p : PartId) : List Instance :=
  d.dies.toList.flatMap (fun x => x.insts.filter (fun i => i.part = p))
/-- Order of binding and arrival at the dispatchers (R412). -/
def Dev.nextOrder (d : Dev) : Nat :=
  1 + (d.dies.toList.flatMap (fun x => x.insts.map (·.order) ++ x.datas.map (·.order))).foldl Nat.max 0
def Dev.modInst (d : Dev) (die : DieId) (id : Nat) (f : Instance → Instance) : Dev :=
  d.modDie die (fun x => { x with insts := x.insts.map (fun i => if i.id = id then f i else i) })
def Dev.dropInst (d : Dev) (die : DieId) (id : Nat) : Dev :=
  d.modDie die (fun x => { x with insts := x.insts.filter (fun i => i.id != id) })
def Dev.inst (d : Dev) (die : DieId) (id : Nat) : Option Instance := (d.die die).insts.find? (fun i => i.id = id)

/-- Tokens in a queue of a dispatcher, the LAUNCH that it has in hand among them (R413). -/
def Die.queueLen (x : Die) (prio : Nat) : Nat :=
  (x.insts.filter (fun i => i.state = .waiting && i.prio.toNat = prio)).length + (x.datas.filter (fun t => t.prio.toNat = prio)).length +
    (x.hand.toList.filter (fun h => tokKind h.token = 1 && Nat.min (tokPrio h.token) h.pmax.toNat = prio)).length

/-- A LAUNCH whose dependences are met and whose serial predecessors are gone is ready (R412, R415). -/
def Dev.isReady (d : Dev) (i : Instance) : Bool :=
  i.state = .waiting && i.met = 3 &&
    (geConc i.gentry || !(d.instances i.part).any (fun j => j.graph = i.graph && decide (j.order < i.order)))
/-- Every LAUNCH that has become ready notes the cycle. -/
def Dev.markReady (d : Dev) : Dev :=
  { d with dies := d.dies.map (fun (x : Die) => { x with insts := x.insts.map (fun i =>
      if i.readySince.isNone && d.isReady i then { i with readySince := some d.now } else i) }) }

/-- What a read of a dependence finds (R414). -/
inductive DepRead where
  | met | unmet | fail (cause : Nat)
deriving DecidableEq, Repr

/-- Read dependence n of an instance, at the place that binding found for it (R407, R410; log 66). -/
def Dev.depRead (d : Dev) (i : Instance) (n : Nat) : DepRead × Dev :=
  if pw i.token (2 + 2 * n) = 0 || i.met.getLsbD n then (.met, d)
  else match vgetD i.watch n none with
    | none => (.fail 4, d)
    | some (pa, c, e) =>
      let ((bs, po), d) := d.homeRead i.part pa 8 c e false
      let v := leNat bs
      (if po || bit v 63 then .fail 5 else if pw i.token (3 + 2 * n) ≤ v then .met else .unmet, d)
/-- A bound instance fails (R419). -/
def Dev.failInst (d : Dev) (die : DieId) (i : Instance) (cause : Nat) : Dev :=
  (d.dropInst die i.id).failLaunch die i.part (some i.gentry) i.token i.id cause
/-- The dispatcher reads the unmet dependences of an instance, and acts on what writes to their granules let it find (R414). -/
def Dev.readDeps (d : Dev) (die : DieId) (id : Nat) : Dev :=
  match d.inst die id with
  | none => d
  | some i =>
    if i.state != .waiting then d
    else if i.depFault then (d.failInst die i 5).markReady
    else if i.met = 3 then d.markReady
    else
      let (r0, d) := d.depRead i 0
      let (r1, d) := d.depRead i 1
      match r0, r1 with
      | .fail c, _ => (d.failInst die i c).markReady
      | _, .fail c => (d.failInst die i c).markReady
      | _, _ => (d.modInst die id (fun i => { i with met := BitVec.ofNat 2 (b2n (r0 = .met) + 2 * b2n (r1 = .met)) })).markReady

/-- DEPENDENCE_READ and DEPENDENCE_POLL (R414). -/
def execDependenceRead (die : DieId) (inst : Nat) (s : State) : Out := .next { s with dev := s.dev.readDeps die inst }
def Dev.pollDeps (d : Dev) (die : DieId) : Dev := ((d.die die).insts.map (·.id)).foldl (fun d i => d.readDeps die i) d
def execDependencePoll (die : DieId) (s : State) : Out := .next { s with dev := s.dev.pollDeps die }

/-! LAUNCH -/

/-- Every address of a LAUNCH and of its version record translates (R407, R410). -/
def Dev.tokAddrsOk (d : Dev) (die : DieId) (p : PartId) (ge t vr : Vector Word 8) : Bool × Dev :=
  let id := geIdent ge
  let plain := [pw t 1, pw vr 1, pw vr 2].filter (fun a => a != 0 || a = pw vr 1 || a = pw vr 2)
  let (ok, d) := plain.foldl (fun (acc : Bool × Dev) a =>
    let (r, d) := acc.2.tokTrans die p id .read a
    (acc.1 && r.isSome, d)) (true, d)
  [(pw t 2, AccKind.read), (pw t 4, AccKind.read), (pw t 6, AccKind.write)].foldl (fun (acc : Bool × Dev) a =>
    if a.1 = 0 then acc
    else
      let (r, d) := acc.2.tokWord die p id a.2 a.1
      (acc.1 && r.isSome, d)) (ok, d)

/-- The place of a dependence word, as binding translates it (R407, R410). -/
def Dev.depPlace (d : Dev) (die : DieId) (p : PartId) (id : Ident) (a : Nat) : Option (Nat × Nat × Bool) × Dev :=
  if a = 0 then (none, d) else d.tokWord die p id .read a

/-- The next instance number of a die (R410). -/
def nextCount (n : BitVec 30) : BitVec 30 := if n + 1 = 0 then 1 else n + 1

/-- A LAUNCH is bound and queued, or fails: its instance id, or 0 (R410, R413). -/
def Dev.bindLaunch (d : Dev) (die : DieId) (h : HandTok) : Nat × Dev :=
  let t := h.token
  match d.admitToken h with
  | (.error e, d) => (0, d.failToken die h.part t e)
  | (.ok ge, d) =>
    let v := if tokVersion t = 0 then geLatest ge else tokVersion t
    match d.versionRec h.part ge v with
    | (none, d) => (0, d.failLaunch die h.part (some ge) t 0 1)
    | (some vr, d) =>
      match d.tokAddrsOk die h.part ge t vr with
      | (false, d) => (0, d.failLaunch die h.part (some ge) t 0 4)
      | (true, d) =>
        let (w0, d) := d.depPlace die h.part (geIdent ge) (pw t 2)
        let (w1, d) := d.depPlace die h.part (geIdent ge) (pw t 4)
        let n := nextCount (d.die die).bindCount
        let id := die.val * 2 ^ 30 + n.toNat
        let i : Instance :=
          { id := id
            part := h.part
            graph := BitVec.ofNat 16 (tokGraph t)
            token := t
            gentry := ge
            vrec := vr
            version := BitVec.ofNat 16 v
            prio := BitVec.ofNat 2 (Nat.min (tokPrio t) h.pmax.toNat)
            src := h.src
            order := d.nextOrder
            met := 0
            readySince := none
            state := .waiting
            base := 0
            strand := 0
            blocked := false
            pre := false
            watch := #v[w0, w1]
            depFault := false }
        (id, (d.modDie die (fun x => { x with bindCount := n, insts := x.insts ++ [i] })).readDeps die id)

/-! EDIT -/

/-- An EDIT is performed (R411): LATEST alone changes, in one step at the entry's home. -/
def Dev.performEdit (d : Dev) (die : DieId) (h : HandTok) : Dev :=
  match d.admitToken h with
  | (.error e, d) => d.failToken die h.part h.token e
  | (.ok ge, d) =>
    match d.versionRec h.part ge (tokVersion h.token) with
    | (none, d) => d.failToken die h.part h.token 1
    | (some _, d) =>
      let a := (d.part h.part).db.gtBase.toNat * 4096 + 64 * tokGraph h.token
      d.homeWrite h.part a 0 false ((leBytes 2 (tokVersion h.token)).zipIdx.map (fun x => (a + 2 + x.2, x.1))) false none

/-! PREEMPT -/

/-- The ingress ports of an instance: index, cluster and port (R409). -/
def Instance.ports (i : Instance) : List (Nat × ClusterId × PortIx) :=
  (List.range 4).filterMap (fun n =>
    let g := vrIng i.vrec n
    if !bit g 15 then none
    else (clusterNo (i.base.val + bits g 6 0)).map (fun c => (n, c, (⟨bits g 11 8 % 16, Nat.mod_lt _ (by decide)⟩ : PortIx))))
/-- The region that a port is bound to. -/
def Dev.portRegion (d : Dev) (c : ClusterId) (p : PortIx) : Option RegionIx :=
  match (vget (d.cl c).fab.ports p).cfg with
  | some k => if k.out then none else some k.region
  | none => none
/-- The instance's context runs on a region. -/
def Dev.runsOn (d : Dev) (id : Nat) (c : ClusterId) (r : RegionIx) : Bool := (d.region c r).ctxs.any (fun t => t.inst = id && t.running)
/-- The expected VER of a port. -/
def Port.ver (p : Port) : Nat := match p.cfg with | some k => k.ver.toNat | none => 0

/-- PREEMPT packets at the ingress ports of one region of an instance, and the stop of a region without input ports (R420, 05 R192). -/
def Dev.injectPreempt (d : Dev) (i : Instance) (c : ClusterId) (r : RegionIx) : Dev :=
  let d := i.ports.foldl (fun d p =>
    if p.2.1 = c && d.portRegion c p.2.2 = some r then
      d.receive c p.2.2 (bare 0 (vget (d.cl c).fab.ports p.2.2).ver 2)
    else d) d
  let d := d.modRegion c r (fun x => { x with
    graphPre := true
    ctxs := x.ctxs.map (fun t => if t.running then { t with stoppedBySup := true, pre := false } else t) })
  if ((d.cl c).portsBound r).all (fun p => p.2) then d.requestStop c r true else d

/-- The regions that hold contexts of an instance. -/
def Dev.ctxRegions (d : Dev) (p : PartId) (id : Nat) : List (ClusterId × RegionIx) :=
  (d.clustersOf p).flatMap (fun c => (List.finRange 4).filterMap (fun r =>
    if (d.region c r).ctxs.any (fun t => t.inst = id) then some (c, r) else none))

/-- PREEMPT reaches an instance (R420). -/
def Dev.preemptInst (d : Dev) (i : Instance) : Dev :=
  match i.state with
  | .waiting => d
  | .placed => d.modInst ⟨i.id / 2 ^ 30 % 4, Nat.mod_lt _ (by decide)⟩ i.id (fun i => { i with pre := true })
  | .loaded | .running =>
    let d := (d.ctxRegions i.part i.id).foldl (fun d cr =>
      if d.runsOn i.id cr.1 cr.2 then d.injectPreempt i cr.1 cr.2
      else d.modRegion cr.1 cr.2 (fun x => { x with ctxs := x.ctxs.map (fun t => if t.inst = i.id then { t with pre := true } else t) })) d
    if i.state = .running then d.report ⟨.preempt i.id, i.base, i.strand, .preempt, 0, BitVec.ofNat 64 i.id⟩
    else d.modInst ⟨i.id / 2 ^ 30 % 4, Nat.mod_lt _ (by decide)⟩ i.id (fun i => { i with pre := true })

/-- A tag selects an instance (R405, R406, R420). -/
def Instance.tagged (i : Instance) (graph tag : Nat) : Bool := i.graph.toNat = graph && (tag = 0xFFFF || tokTag i.token = tag)

/-- A PREEMPT token is performed (R420). -/
def Dev.performPreempt (d : Dev) (die : DieId) (h : HandTok) : Dev :=
  match d.admitToken h with
  | (.error e, d) => d.failToken die h.part h.token e
  | (.ok _, d) =>
    match (d.instances h.part).filter (fun i => i.state != .waiting && i.tagged (tokGraph h.token) (tokTag h.token)) with
    | [] => d.failToken die h.part h.token 7
    | l => l.foldl Dev.preemptInst d

/-! DATA -/

/-- A DATA token enters its queue, or fails (R413). -/
def Dev.enterData (d : Dev) (die : DieId) (h : HandTok) : Dev :=
  match d.admitToken h with
  | (.error e, d) => d.failToken die h.part h.token e
  | (.ok _, d) =>
    let t : DataTok := ⟨h.token, h.part, BitVec.ofNat 2 (Nat.min (tokPrio h.token) h.pmax.toNat), h.src, d.nextOrder⟩
    d.modDie die (fun x => { x with datas := x.datas ++ [t] })

/-- A context of the instance waits in a region of the cluster. -/
def Dev.waitsOn (d : Dev) (id : Nat) (c : ClusterId) : Bool :=
  (d.cl c).fab.regions.toList.any (fun r => r.ctxs.any (fun t => t.inst = id && !t.running))
/-- The oldest running instance that a DATA token selects, and the port of its index (R406): while a context of the instance waits in the
port's cluster the port may be that of another load, and the token waits too (log 69). -/
def Dev.dataTarget (d : Dev) (t : DataTok) : Option (Nat × ClusterId × PortIx) :=
  let l := (d.instances t.part).filter (fun i => i.state = .running && i.tagged (tokGraph t.token) (tokTag t.token))
  match l.foldl (fun (b : Option Instance) i => match b with
      | none => some i
      | some x => if i.order < x.order then some i else some x) none with
  | none => none
  | some i => (i.ports.find? (fun p => p.1 = tokVersion t.token)).bind (fun p =>
      if (d.portRegion p.2.1 p.2.2).isSome || d.waitsOn i.id p.2.1 then some (i.id, p.2) else none)

/-- The packet of a DATA token (R406). -/
def dataTokPacket (t : Vector Word 8) (ver : Nat) : Packet :=
  let n := tokCount t
  ⟨packetHdr (bits (pw t 1) 15 0) ver (bits (pw t 1) 17 16) n, (List.range n).map (fun i => BitVec.ofNat 32 (tokElem t i)), 0⟩

/-- A LAUNCH of the token's graph and source stands ahead of it in its queue (R413). -/
def Die.dataHeld (x : Die) (t : DataTok) : Bool :=
  x.insts.any (fun i => i.state = .waiting && i.prio = t.prio && i.graph.toNat = tokGraph t.token && i.src = t.src && i.part = t.part &&
    decide (i.order < t.order))

/-- The first DATA token of a queue that can be performed; a full port lets the tokens of other ports pass (R406, R413). -/
def Dev.pickData (d : Dev) (x : Die) : List DataTok → List (ClusterId × PortIx) → Option (DataTok × Option (ClusterId × PortIx))
  | [], _ => none
  | t :: rest, full =>
    if x.dataHeld t then none
    else match d.dataTarget t with
      | none => some (t, none)
      | some (id, c, p) =>
        let room := (vget (d.cl c).fab.ports p).roomFor (dataTokPacket t.token 0) &&
          (match d.portRegion c p with | some r => (d.region c r).ctxs.isEmpty || d.runsOn id c r | none => false)
        if full.contains (c, p) || !room then d.pickData x rest ((c, p) :: full) else some (t, some (c, p))

/-- DATA (R406): the next packet goes to its port. -/
def Dev.dataStep (d : Dev) (die : DieId) : Dev :=
  let x := d.die die
  match [3, 2, 1, 0].findSome? (fun q => d.pickData x (x.datas.filter (fun t => t.prio.toNat = q)) []) with
  | none => d
  | some (t, where_) =>
    let d := d.modDie die (fun x => { x with datas := x.datas.filter (fun u => u.order != t.order) })
    match where_ with
    | none => d.failToken die t.part t.token 7
    | some (c, p) => d.receive c p (dataTokPacket t.token (vget (d.cl c).fab.ports p).ver)
def execData (die : DieId) (s : State) : Out := .next { s with dev := s.dev.dataStep die }

/-! Windows and GLAUNCH -/

/-- INGRESS_TOKEN_WRITE (R401). -/
def Dev.tokenWrite (d : Dev) (p : PartId) (w : WindowIx) (off : Nat) (data : List Byte) (poison : Bool) : Dev :=
  let win := vget (d.part p).db.windows w
  let set := fun (f : Window → Window) => d.modDb p (fun b => { b with windows := vset b.windows w (f win) })
  if 64 ≤ off then d
  else if !win.en || (d.part p).state != .ready || off != 0 || data.length != 64 || poison then
    set (fun x => { x with bad := BitVec.ofNat 16 (Nat.min 255 (x.bad.toNat + 1)) })
  else if 8 ≤ win.fifo.length then set (fun x => { x with drop := BitVec.ofNat 16 (Nat.min 255 (x.drop.toNat + 1)) })
  else set (fun x => { x with fifo := x.fifo ++ [words8 data], acc := x.acc + 1 })
def execIngressTokenWrite (n : PartId) (w : WindowIx) (off : Nat) (data : List Byte) (poisoned : Bool) (s : State) : Out :=
  if s.dev.functionUp (PartId.func n) then .next { s with dev := s.dev.tokenWrite n w off data poisoned } else .next s

/-- The windows of a die's dispatcher that hold a token, from the place of its rotation on (R402). -/
def Dev.windowsOf (d : Dev) (e : DieId) : List (PartId × WindowIx) :=
  let all := (List.finRange 8).flatMap (fun p => ((List.finRange 64).filter (fun w =>
    let x := vget (d.part p).db.windows w
    x.die = e && !x.fifo.isEmpty)).map (fun w => (p, w)))
  let before := fun (x : PartId × WindowIx) => decide (x.1.val * 64 + x.2.val < (d.die e).winNext)
  all.filter (fun x => !before x) ++ all.filter before
/-- The token at the head of a window can be taken: a LAUNCH or DATA token waits for room in its queue (R413). -/
def Dev.mayTake (d : Dev) (x : PartId × WindowIx) : Bool :=
  let win := vget (d.part x.1).db.windows x.2
  match win.fifo with
  | [] => false
  | t :: _ =>
    let k := tokKind t
    !((k = 1 || k = 4) && bit win.kmask.toNat (k - 1) && decide (64 ≤ (d.die win.die).queueLen (Nat.min (tokPrio t) win.pmax.toNat)))
/-- TOKEN_RELEASE (R402, R413): the dispatcher takes the token at the head of a window, the first in its rotation whose token can be taken. -/
def Dev.tokenRelease (d : Dev) (p : PartId) (w : WindowIx) : Dev :=
  let win := vget (d.part p).db.windows w
  match win.fifo with
  | [] => d
  | t :: rest =>
    let die := d.die win.die
    let h : HandTok := ⟨t, p, .window p w, win.pmax, win.kmask, false⟩
    let k := tokKind t
    if die.hand.isSome || (d.windowsOf win.die).find? d.mayTake != some (p, w) then d
    else
      let d := d.modDb p (fun b => { b with windows := vset b.windows w { win with fifo := rest } })
      let d := d.modDie win.die (fun x => { x with winNext := p.val * 64 + w.val + 1 })
      if k = 1 || k = 2 || k = 3 then d.modDie win.die (fun x => { x with hand := some h }) else d.enterData win.die h
def execTokenRelease (n : PartId) (w : WindowIx) (s : State) : Out := .next { s with dev := s.dev.tokenRelease n w }

/-- The token at the hand of a die's dispatcher, if it is of a kind, is taken. -/
def Dev.takeHand (d : Dev) (die : DieId) (kind : Nat) (f : Dev → HandTok → Dev) : Dev :=
  match (d.die die).hand with
  | some h => if tokKind h.token = kind then f (d.modDie die (fun x => { x with hand := none })) h else d
  | none => d
/-- LAUNCH (R410), EDIT (R411) and PREEMPT (R420) from a window. -/
def execLaunch (die : DieId) (s : State) : Out := .next { s with dev := s.dev.takeHand die 1 (fun d h => (d.bindLaunch die h).2) }
def execEdit (die : DieId) (s : State) : Out := .next { s with dev := s.dev.takeHand die 3 (fun d h => d.performEdit die h) }
def execPreempt (die : DieId) (s : State) : Out := .next { s with dev := s.dev.takeHand die 2 (fun d h => d.performPreempt die h) }

/-- A token from a strand (R413): what GLAUNCH answers. -/
def Dev.submit (d : Dev) (die : DieId) (h : HandTok) : Word × Dev :=
  let k := tokKind h.token
  if (k = 1 || k = 4) && 64 ≤ (d.die die).queueLen (tokPrio h.token) then (0xFFFFFFFFFFFFFFFF, d)
  else if k = 1 then
    let (id, d) := d.bindLaunch die h
    (BitVec.ofNat 64 id, d)
  else if k = 2 then (0, d.performPreempt die h)
  else if k = 3 then (0, d.performEdit die h)
  else (0, d.enterData die h)

/-- GLAUNCH (09 R315). -/
def execGlaunch (g a : GReg) (s : State) : Out :=
  s.asStrand fun c k x => do
    let ga ← regM c k a
    imageAddrM x ga
    liftAcc ga (releaseBy c k 3)
    let bs ← imageM x ga 64
    let d ← get
    match d.partOf c with
    | none => trapM .protection ga
    | some p => do
      let (v, d) := d.submit (dieOf c) ⟨words8 bs, p, .strand c k, 3, 15, !x.id.sup⟩
      set d
      setRegM c k g v
      return none

end Sys2Proof.Machine
end

