-- ==== Sys2Proof/Machine/Sched.lean ====
section
/-! DEFINITION. Placement, configuration, the wake and the retirement of instances (13 R415 to R418), and the region scheduler
(13 R421 to R424). -/

namespace Sys2Proof.Machine

/-- n bytes at a virtual address of an identity, in granules of 64 (13 R416): none where a translation fails. -/
def Dev.readVa (d : Dev) (die : DieId) (p : PartId) (id : Ident) : Nat → Nat → Nat → Option (List Byte × Bool) × Dev
  | 0, _, _ => (some ([], false), d)
  | fuel + 1, va, n =>
    if n = 0 then (some ([], false), d)
    else
      let k := Nat.min n (64 - va % 64)
      match d.tokTrans die p id .read va with
      | (none, d) => (none, d)
      | (some (pa, c, e), d) =>
        let ((bs, po), d) := d.homeRead p pa k c e false
        match d.readVa die p id fuel (va + k) (n - k) with
        | (some (bs', po'), d) => (some (bs ++ bs', po || po'), d)
        | (none, d) => (none, d)

/-- Bytes of a fabric load from where it was read. -/
def Dev.readSrc (d : Dev) (p : PartId) (s : LoadSrc) (n : Nat) : Option (List Byte × Bool) × Dev :=
  if s.global then d.readVa (dieOf s.c) p s.id (n / 64 + 2) s.addr n
  else (some ((List.range n).map (fun i => memRead d.mem (d.scratchKeyOf s.c (s.addr + i))),
    (List.range n).any (fun i => smem d.poison (d.scratchKeyOf s.c (s.addr + i) / 64))), d)

/-- A fabric load, read and parsed (07 R244): a cause of R419 where it cannot be had. -/
def Dev.loadAt (d : Dev) (p : PartId) (s : LoadSrc) : Except Nat FabLoad × Dev :=
  match d.readSrc p s 64 with
  | (none, d) => (.error 4, d)
  | (some (h, po), d) =>
    if po || !headerOk h then (.error 6, d)
    else match d.readSrc p s (headerLength h) with
      | (none, d) => (.error 4, d)
      | (some (img, po), d) =>
        match parseLoad img with
        | .ok l => (if po then .error 6 else .ok l, d)
        | .error _ => (.error 6, d)

/-! Placement (R415) -/

/-- The clusters of a placement. -/
def placed (base ncl : Nat) : List ClusterId := (List.range ncl).filterMap (fun i => clusterNo (base + i))

/-- A strand that the dispatcher may wake (05 R166, 09 R309). -/
def Strand.wakeable (st : Strand) : Bool :=
  match st.state with
  | .idle => !st.dbl
  | .wait .wfi _ => st.priv && !st.ie
  | _ => false
/-- Strands of a cluster that may be woken, lowest first. -/
def Dev.wakeables (d : Dev) (c : ClusterId) : List StrandIx := (List.finRange 4).filter (fun k => (d.strand c k).wakeable)

/-- Every configured region of a cluster holds a load as its active planes. -/
def Cluster.holdsLoad (cl : Cluster) (id : W32) (pver : BitVec 8) : Bool :=
  let rs := cl.fab.regions.toList.filter (·.configured)
  !rs.isEmpty && rs.all (fun r => r.loadId = id && r.ver = pver && r.token.isNone)
/-- The regions that a load configures, on their clusters. -/
def Dev.loadTargets (d : Dev) (l : FabLoad) (cs : List ClusterId) : List (ClusterId × RegionIx) :=
  cs.zipIdx.flatMap (fun k => (loadRegions (d.cl k.1) (l.of k.2)).map (fun g => (k.1, rIx g)))
/-- The place of the image of an instance. -/
def Instance.loadSrc (i : Instance) : LoadSrc := ⟨true, pw i.vrec 1, i.base, geIdent i.gentry, i.base.val⟩
/-- The image of an instance, as a die's dispatcher finds it when it places (log 71). -/
def Dev.image (d : Dev) (die : DieId) (i : Instance) : Option FabLoad :=
  match (d.loadAt i.part { i.loadSrc with c := ⟨18 * die.val, by omega⟩ }).1 with
  | .ok l => some l
  | .error _ => none

/-- A context that a region holds, or will hold when the load of an instance already placed is made: cluster, region and base priority. -/
abbrev CtxAt := ClusterId × RegionIx × Nat
/-- The contexts of the regions of a partition, those of instances that are placed and not yet loaded among them (R415). -/
def Dev.ctxsOf (d : Dev) (p : PartId) : List CtxAt :=
  (d.clustersOf p).flatMap (fun c => (List.finRange 4).flatMap (fun r => (d.region c r).ctxs.map (fun t => (c, r, t.base)))) ++
  ((d.dies.toList.flatMap (·.insts)).filter (fun j => j.part = p && j.state = .placed)).flatMap (fun j =>
    match d.image (dieOf j.base) j with
    | some l => (d.loadTargets l (placed j.base.val (vrNcl j.vrec))).map (fun t => (t.1, t.2, j.prio.toNat))
    | none => [])
/-- The contexts of one region. -/
def ctxsAt (l : List CtxAt) (c : ClusterId) (r : RegionIx) : List CtxAt := l.filter (fun t => t.1 = c && t.2.1 = r)
/-- Criterion 1: no region of a cluster holds a context. -/
def unplaced (l : List CtxAt) (c : ClusterId) : Bool := l.all (fun t => t.1 != c)
/-- Criterion 2: every region of a cluster has room for a context of a priority. -/
def shareable (l : List CtxAt) (prio : Nat) (c : ClusterId) : Bool :=
  (List.finRange 4).all (fun r => decide ((ctxsAt l c r).length < 4) && (ctxsAt l c r).all (fun t => decide (t.2.2 ≤ prio)))
/-- Slots that the waiting contexts of a partition need when contexts join the regions that a load configures (R415, R421). -/
def slotsNeeded (l : List CtxAt) (cs : List ClusterId) (targets : List (ClusterId × RegionIx)) : Nat :=
  cs.foldl (fun n c => (List.finRange 4).foldl (fun n r => n + ((ctxsAt l c r).length - 1)) n) 0 +
    (targets.filter (fun t => !(ctxsAt l t.1 t.2).isEmpty)).length

/-- The base cluster for an instance, by the criteria of R415 in order. -/
def Dev.baseFor (d : Dev) (die : DieId) (i : Instance) : Option ClusterId :=
  let ncl := vrNcl i.vrec
  let others := (d.dies.toList.flatMap (·.insts)).filter (fun j => j.state = .placed || j.state = .loaded)
  let held := d.ctxsOf i.part
  let image := d.image die i
  let ok := (List.finRange 72).filter (fun c =>
    let cs := placed c.val ncl
    decide (c.val + ncl ≤ 72) && cs.all (fun k => d.partOf k = some i.part) &&
      decide ((others.filter (fun j => j.base = c)).length < (d.wakeables c).length))
  let free := ok.filter (fun c => (placed c.val ncl).all (unplaced held))
  let shared := ok.filter (fun c =>
    let cs := placed c.val ncl
    cs.all (shareable held i.prio.toNat) &&
      decide (slotsNeeded held (d.clustersOf i.part) (match image with | some l => d.loadTargets l cs | none => []) ≤ (d.part i.part).db.ctxCnt.toNat))
  let pver := match image with | some l => l.pver | none => 0
  let key := fun (c : ClusterId) =>
    let same := ((placed c.val ncl).filter (fun k => (d.cl k).holdsLoad (BitVec.ofNat 32 (vrLoadId i.vrec)) pver)).length
    ((72 - same) * 4 + ((dieOf c).val + 4 - die.val) % 4) * 72 + c.val
  (if free.isEmpty then shared else free).foldl (fun b c => match b with
    | none => some c
    | some x => if key c < key x then some c else some x) none

/-- LAUNCHes ready on a die at a priority, oldest first. -/
def Dev.readyAt (d : Dev) (die : DieId) (prio : Nat) : List Instance :=
  ((d.die die).insts.filter (fun i => i.state = .waiting && i.readySince.isSome && i.prio.toNat = prio)).mergeSort (fun a b => decide (a.order ≤ b.order))
/-- The next placement from a priority down (R415). -/
def Dev.choosePlacement (d : Dev) (die : DieId) : List Nat → Option (Instance × ClusterId)
  | [] => none
  | q :: rest =>
    match d.readyAt die q with
    | [] => d.choosePlacement die rest
    | o :: l =>
      match (if o.blocked then [o] else o :: l).findSome? (fun i => (d.baseFor die i).map (fun c => (i, c))) with
      | some r => some r
      | none => if o.blocked then none else d.choosePlacement die rest
/-- PLACEMENT. -/
def Dev.placement (d : Dev) (die : DieId) : Dev :=
  match d.choosePlacement die [3, 2, 1, 0] with
  | some (i, c) => d.modInst die i.id (fun i => { i with state := .placed, base := c })
  | none => d
def execPlacement (die : DieId) (s : State) : Out := .next { s with dev := s.dev.placement die }

/-- READY_WAIT_LIMIT (R415). -/
def Dev.readyLimit (d : Dev) (die : DieId) (id : Nat) : Dev :=
  match d.inst die id with
  | some i =>
    match i.readySince, (d.readyAt die i.prio.toNat).head? with
    | some t, some o => if o.id = id && decide (2 ^ 20 ≤ d.now - t) then d.modInst die id (fun i => { i with blocked := true }) else d
    | _, _ => d
  | none => d
def execReadyWaitLimit (die : DieId) (inst : Nat) (s : State) : Out := .next { s with dev := s.dev.readyLimit die inst }

/-! Configuration (R416) -/

/-- A placed instance fails: its placement is free again. -/
def Dev.failPlaced (d : Dev) (die : DieId) (i : Instance) (cause : Nat) : Dev := (d.failInst die i cause).markReady

/-- The records that the loader writes at once: those of clusters that do not hold the load, but for the regions on which another
context runs. -/
def Dev.loadNow (d : Dev) (l : FabLoad) (cs : List ClusterId) : FabLoad :=
  { l with recs := cs.zipIdx.flatMap (fun k =>
      let cl := d.cl k.1
      let rs := l.of k.2
      if cl.holdsLoad l.loadId l.pver then []
      else
        let busy := (loadRegions cl rs).filter (fun g => !(cl.region g).ctxs.isEmpty)
        rs.filter (fun q => !busy.any (fun g => (regionRecs cl rs g).contains q))) }

/-- A context joins a region (R421): the first runs, a later one waits. -/
def Dev.joinRegion (d : Dev) (c : ClusterId) (r : RegionIx) (i : Instance) (l : FabLoad) : Dev :=
  let x := d.region c r
  let t : RegCtx :=
    { inst := i.id
      loadId := l.loadId
      pver := l.pver
      src := some i.loadSrc
      base := i.prio.toNat
      boost := 0
      waited := 0
      waitFrom := d.now
      slot := none
      quiet := true
      pre := false
      running := x.ctxs.isEmpty
      stoppedBySup := false
      round := 0 }
  let d := d.modRegion c r (fun x => { x with ctxs := x.ctxs ++ [t] })
  if x.ctxs.isEmpty then d.newQuantum c r else d

/-- CONFIGURATION_LOAD. -/
def Dev.configLoad (d : Dev) (die : DieId) (id : Nat) : Dev :=
  match d.inst die id with
  | none => d
  | some i =>
    if i.state != .placed then d
    else
      let cs := placed i.base.val (vrNcl i.vrec)
      match d.loadAt i.part i.loadSrc with
      | (.error e, d) => d.failPlaced die i e
      | (.ok l, d) =>
        let moves := cs.zipIdx.any (fun k =>
          loadLayout (d.cl k.1) (l.of k.2) != (d.cl k.1).layout.toNat && (d.cl k.1).fab.regions.toList.any (fun r => !r.ctxs.isEmpty))
        if l.loadId.toNat != vrLoadId i.vrec || l.ncl != vrNcl i.vrec || moves then d.failPlaced die i 6
        else match loadChecksM i.base l i.base.val cs true d with
          | (.error _, d) => d.failPlaced die i 6
          | (.ok _, d) =>
            let now := d.loadNow l cs
            let d := (d.applyLoad i.base.val now cs [] none).setSrc now cs (some i.loadSrc)
            let ts := d.loadTargets l cs
            let d := ts.foldl (fun d t => d.joinRegion t.1 t.2 i l) d
            let d := d.joinStreams i.base.val (l.recs.filter (fun q => match clusterNo (i.base.val + q.cl) with
              | some k => ((d.cl k).fab.regions.toList.all (fun r => r.token.isNone)) && ts.all (fun t => t.1 != k || d.runsOn id t.1 t.2)
              | none => false))
            let d := d.modInst die id (fun i => { i with state := .loaded })
            if i.pre then d.preemptInst { i with state := .loaded } else d
def execConfigurationLoad (die : DieId) (inst : Nat) (s : State) : Out := .next { s with dev := s.dev.configLoad die inst }

/-- g1 of a control strand: ARGS in generic form (R417, 01 R22). -/
def argsWord (ap : Apertures) (a : Nat) : Word :=
  let y := ap.lo 3 + a
  if a = 0 then 0 else if decide (y ≤ ap.hi 3) && ap.window y = 3 then BitVec.ofNat 64 y else 0xFFFFFFFFFFFFFFFF

/-- The strand that controls an instance, as it is woken (R417). -/
def Strand.wake (st : Strand) (i : Instance) (ap : Apertures) : Strand :=
  let id := geIdent i.gentry
  let regs : List Word := [0, argsWord ap (pw i.token 1), BitVec.ofNat 64 i.id, BitVec.ofNat 64 i.base.val, vgetD i.token 0 0, i.version.setWidth 64]
  { st with
    pc := BitVec.ofNat 64 (ap.lo 3 + pw i.vrec 2)
    g := Vector.ofFn (fun r => regs.getD r.val 0)
    f := Vector.replicate 16 0
    dbl := false
    pie := false
    ppriv := false
    ie := true
    priv := false
    asid := id.asid
    ptRoot := id.root
    ptEn := id.en
    state := .run
    atVector := false
    ahead := []
    instance_ := some i.id }

/-- CONTROL_STRAND_WAKE: once the loads are complete. -/
def Dev.controlWake (d : Dev) (die : DieId) (id : Nat) : Dev :=
  match d.inst die id with
  | none => d
  | some i =>
    let waits := (placed i.base.val (vrNcl i.vrec)).any (fun c => (d.cl c).fab.regions.toList.any (fun r => r.token.isSome))
    if i.state != .loaded || waits then d
    else match d.wakeables i.base with
      | [] => d
      | k :: _ =>
        -- an acquire that synchronises with the token's arrival and the writes that met its dependences
        let d := (d.modStrand i.base k (fun st => st.wake i (d.cl i.base).ap)).acquire i.base k
        let d := d.modInst die id (fun i => { i with state := .running, strand := k })
        if i.pre then d.report ⟨.preempt id, i.base, k, .preempt, 0, BitVec.ofNat 64 id⟩ else d
def execControlStrandWake (die : DieId) (inst : Nat) (s : State) : Out := .next { s with dev := s.dev.controlWake die inst }

/-! Retirement (R418) -/

/-- A cluster holds no work of an instance. -/
def Cluster.doneWith (cl : Cluster) (id : Nat) : Bool :=
  cl.fab.regions.toList.all (fun r =>
    r.kernels.toList.all (fun k => k.inst != some id || k.st = .loaded || k.st = .retired) &&
    r.ctxs.all (fun t => t.inst != id || (if t.running then r.st != .stopped else t.quiet))) &&
  cl.eng.toList.all (fun q => q.cmds.all (fun k => k.sender.inst != some id)) &&
  (List.range 64).all (fun i => (cl.cell i).cmds.isEmpty || !(cl.region (cellRegion cl.layout.toNat i)).ctxs.any (fun t => t.inst = id && t.running))

/-- The contexts of an instance leave a region. -/
def Region.dropCtx (x : Region) (id : Nat) : Region := { x with ctxs := x.ctxs.filter (fun t => t.inst != id) }
/-- The contexts and slots of an instance are freed. -/
def Dev.freeContexts (d : Dev) (p : PartId) (id : Nat) : Dev :=
  (d.ctxRegions p id).foldl (fun d cr =>
    let slots := ((d.region cr.1 cr.2).ctxs.filter (fun t => t.inst = id)).filterMap (·.slot)
    (d.modDb p (fun b => { b with ctxUsed := b.ctxUsed.filter (fun n => !slots.contains n) })).modRegion cr.1 cr.2 (fun x => x.dropCtx id)) d

/-- INSTANCE_RETIRE. -/
def Dev.retireInst (d : Dev) (die : DieId) (id : Nat) : Dev :=
  match d.inst die id with
  | none => d
  | some i =>
    let st := d.strand i.base i.strand
    let atWfi := match st.state with | .wait .wfi _ => !st.priv | _ => false
    if i.state != .running || !atWfi || st.instance_ != some id then d
    else
      let d := d.drain i.base
      if (d.cl i.base).reqs.any (fun r => r.who = .strand i.strand) || (d.cl i.base).signals.any (fun s => s.k = i.strand) || !(d.clustersOf i.part).all (fun c => (d.cl c).doneWith id) then d
      else
        let (ok, d) := d.writeDone die i.part (geIdent i.gentry) (pw i.token 6) (pw i.token 7)
        let d := if ok then d else d.logFail i.part id i.graph.toNat 4
        let d := d.modStrand i.base i.strand (fun st => { st with state := .idle, instance_ := none })
        ((d.freeContexts i.part id).dropInst die id).markReady
def execInstanceRetire (die : DieId) (inst : Nat) (s : State) : Out := .next { s with dev := s.dev.retireInst die inst }

/-! The region scheduler (R421 to R424) -/

/-- The effective priority of a context: with PIN a waiting one stays at its base (R422, R423). -/
def Region.effOf (x : Region) (t : RegCtx) : Nat := if t.running || x.pin then t.base else Nat.min 3 (t.base + t.boost)
/-- The context that runs. -/
def Region.runner (x : Region) : Option RegCtx := x.ctxs.find? (·.running)
/-- The waiting context that runs next: highest effective priority, then the longest wait (R423). -/
def Region.nextCtx (x : Region) : Option RegCtx :=
  (x.ctxs.filter (fun t => !t.running)).foldl (fun b t => match b with
    | none => some t
    | some y => if decide (x.effOf y < x.effOf t) || (x.effOf y = x.effOf t && decide (t.waitFrom < y.waitFrom)) then some t else some y) none

/-- The scheduler asks for the stop of the running context. -/
def Dev.askRotate (d : Dev) (c : ClusterId) (r : RegionIx) : Dev := (d.requestStop c r false).modRegion c r (fun x => { x with rotate := true })

/-- QUANTUM_END (R423). -/
def Dev.quantumEnd (d : Dev) (c : ClusterId) (r : RegionIx) : Dev :=
  let x := d.region c r
  match x.runner with
  | none => d
  | some t =>
    if x.quantumLen = 0 || decide (d.now < x.quantumFrom + x.quantumLen.toNat * 1024) || x.rotate then d
    else
      let d := d.modRegion c r (fun x => { x with ctxs := x.ctxs.map (fun u =>
        if !u.running && decide (u.waitFrom ≤ x.quantumFrom) then { u with waited := u.waited + 1 } else u) })
      let y := x.nextCtx
      let equal := match y with | some u => x.effOf u = x.effOf t | none => false
      if equal && !x.pin && !t.stoppedBySup then d.askRotate c r else d.newQuantum c r
def execQuantumEnd (c : ClusterId) (r : RegionIx) (s : State) : Out := .next { s with dev := s.dev.quantumEnd c r }

/-- AGING (R423): context i of a region has waited 8 whole quanta. -/
def Dev.aging (d : Dev) (c : ClusterId) (r : RegionIx) (i : Nat) : Dev :=
  d.modRegion c r (fun x => { x with ctxs := x.ctxs.zipIdx.map (fun t =>
    if t.2 = i && !t.1.running && 8 ≤ t.1.waited && !x.pin then
      { t.1 with waited := t.1.waited - 8, boost := Nat.min (3 - t.1.base) (t.1.boost + 1) } else t.1) })
def execAging (c : ClusterId) (r : RegionIx) (i : Fin 4) (s : State) : Out := .next { s with dev := s.dev.aging c r i.val }

/-- A free context slot of a partition, in class 0 (R421). -/
def Dev.freeSlot (d : Dev) (p : PartId) : Option Nat :=
  let b := (d.part p).db
  (List.range b.ctxCnt.toNat).find? (fun n => !b.ctxUsed.contains n && d.class0 p (b.ctxBase.toNat * 2 ^ 24 + n * 2 ^ 24) (2 ^ 24))
/-- The address of a context slot. -/
def Dev.slotAt (d : Dev) (p : PartId) (n : Nat) : Nat := ((d.part p).db.ctxBase.toNat + n) * 2 ^ 24

/-- The region's running context is saved into a slot (R423); none where no slot is free. -/
def Dev.saveContext (d : Dev) (p : PartId) (c : ClusterId) (r : RegionIx) : Option Dev :=
  match (d.region c r).runner with
  | none => some d
  | some _ =>
    (d.freeSlot p).map fun n =>
      let x := d.region c r
      let img := d.weirImage c r
      let quiet := x.kernels.toList.all (fun k => k.cfg.isNone || k.recorded = .loaded || k.recorded = .retired) &&
        (x.tiedCmds.isEmpty)
      let d := d.physWriteN p (img.length / 64 + 2) (d.slotAt p n) img
      let d := d.modDb p (fun b => { b with ctxUsed := sins b.ctxUsed n })
      d.modRegion c r (fun x => { x with ctxs := x.ctxs.map (fun t => if t.running then
        { t with running := false, slot := some n, quiet := quiet, loadId := x.loadId, pver := x.ver, src := x.src, boost := 0, waited := 0,
                 waitFrom := d.now, round := x.round } else t) })

/-- The planes of a context's load are written on its region (R423). -/
def Dev.loadContext (d : Dev) (p : PartId) (c : ClusterId) (r : RegionIx) (t : RegCtx) : Bool × Dev :=
  match t.src with
  | none => (false, d)
  | some s =>
    match d.loadAt p s with
    | (.error _, d) => (false, d)
    | (.ok l, d) =>
      let cl := d.cl c
      let rs := regionRecs cl (l.of (c.val - s.base)) r.val
      let ok := match cl.checkLoad l (l.of (c.val - s.base)) (d.partOf (pairCluster c) = some p) with | .ok _ => true | .error _ => false
      if rs.isEmpty || c.val < s.base || l.loadId != t.loadId || l.pver != t.pver || !ok then (false, d)
      else
        let d := d.modCl c (fun cl => ((cl.installPlanes r false rs).installRegion r l.loadId l.pver rs).modReg r (fun x =>
          { x with token := none, recs := [], left := 0, st := .idle, weir := .none, stop := false, commit := none, preempted := false,
                   tied := [], tiedCmds := [], rim := [], fill := [], flights := [], src := t.src }))
        (true, d.joinStreams s.base rs)

/-- The weir image of a waiting context, read from its slot, which is then free; none where it cannot be read. -/
def Dev.takeSlot (d : Dev) (p : PartId) (t : RegCtx) : Option (Option (List Byte)) × Dev :=
  match t.slot with
  | none => (some none, d)
  | some n =>
    let a := d.slotAt p n
    let ((h, _), d) := d.physReadN p 2 a 64
    let len := leNat ((h.drop 8).take 8)
    let free := fun (d : Dev) => d.modDb p (fun b => { b with ctxUsed := sdel b.ctxUsed n })
    if !weirHeaderOk h then (none, free d)
    else
      let ((img, po), d) := d.physReadN p (len / 64 + 2) a len
      (if po then none else some (some img), free d)

/-- A context is restored (R423): its load where the region holds another one, or where it has not run yet, then its image. -/
def Dev.restoreContext (d : Dev) (p : PartId) (c : ClusterId) (r : RegionIx) (t : RegCtx) (img : Option (List Byte)) : Bool × Dev :=
  let x := d.region c r
  let d := d.modRegion c r (fun x => { x with kernels := x.kernels.map (fun k => { k with st := .loaded, was := .loaded }), st := .idle })
  let (ok, d) := if img.isNone || x.loadId != t.loadId || x.ver != t.pver then d.loadContext p c r t else (true, d)
  match img with
  | none => (ok, d)
  | some img =>
    if !ok then (false, d)
    else match restoreM c r img (some t.inst) d with
      | (.ok _, d) => (true, d)
      | (.error _, d) => (false, d)

/-- A waiting context takes the region; one that cannot be restored is dropped, with cause 6 (log 52). -/
def Dev.takeRegion (d : Dev) (p : PartId) (c : ClusterId) (r : RegionIx) (t : RegCtx) (img : Option (Option (List Byte))) : Dev :=
  let (ok, d) := match img with
    | some b => d.restoreContext p c r t b
    | none => (false, d)
  let d := (d.newQuantum c r).modRegion c r (fun x => { x with
    rotate := false
    ctxs := if ok then x.ctxs.map (fun u => if u.inst = t.inst then { u with running := true, slot := none, boost := 0, waited := 0 } else u)
      else x.ctxs.filter (fun u => u.inst != t.inst) })
  match (d.instances p).find? (fun i => i.id = t.inst) with
  | some i => if !ok then d.logFail p i.id i.graph.toNat 6 else if t.pre then d.injectPreempt i c r else d
  | none => d

/-- A stop that a supervisor or a PREEMPT asked for keeps the running context (R420, R424); a region that has no kernel left holds none. -/
def Region.kept (x : Region) (t : RegCtx) : Bool := t.stoppedBySup && !(x.st = .idle && !x.live)
/-- The region stands after the stop that the scheduler asked for: stopped, or with its kernels ended. -/
def Region.stood (x : Region) : Bool := x.st = .stopped || (x.st = .idle && !x.live)
/-- The running context goes on, as the one that would be restored: nothing waits that stands as high (R423). -/
def Dev.goOn (d : Dev) (c : ClusterId) (r : RegionIx) : Dev :=
  let d := d.modRegion c r (fun x => { x with rotate := false })
  if (d.region c r).st = .stopped then
    match resumeHeldM c r d with
    | (.ok _, d) => d.newQuantum c r
    | (.error _, d) => d
  else d
/-- CONTEXT_SWITCH (R423): a stop is asked for when a waiting context stands higher, of a FAULTED region too; after the stop the running context is
saved and the highest restored, the longest waiting among equals. -/
def Dev.contextSwitch (d : Dev) (c : ClusterId) (r : RegionIx) : Dev :=
  let x := d.region c r
  match d.partOf c, x.nextCtx with
  | some p, some w =>
    match x.runner with
    | none =>
      if x.live then d
      else
        let (img, d) := d.takeSlot p w
        d.takeRegion p c r w img
    | some t =>
      if x.kept t then d.modRegion c r (fun x => { x with rotate := false })
      else if !x.rotate then (if x.effOf t < x.effOf w then d.askRotate c r else d)
      else if !x.stood then d
      else if x.effOf w < x.effOf t then d.goOn c r
      else
        let (img, e) := d.takeSlot p w
        match e.saveContext p c r with
        | some e => e.takeRegion p c r w img
        | none => d
  | _, _ => if !x.rotate || (x.st = .stopping && x.runner.isSome) then d else match x.runner with
    | some t => if x.kept t then d.modRegion c r (fun x => { x with rotate := false }) else d.goOn c r
    | none => d.modRegion c r (fun x => { x with rotate := false })
def execContextSwitch (c : ClusterId) (r : RegionIx) (s : State) : Out := .next { s with dev := s.dev.contextSwitch c r }

end Sys2Proof.Machine
end

