-- ==== Sys2Proof/Machine/Host.lean ====
section
/-! DEFINITION. The host and the platform: BAR4, AtomicOps and the notify window (17 R474 to R478), bring-up, THERMTRIP and PERST#
(17 R492, R493), measurements and keys (17 R488, R489). -/

namespace Sys2Proof.Machine

/-- The device says something to the host. -/
def Dev.say (d : Dev) (m : HostMsg) : Dev := { d with sent := d.sent ++ [m] }

/-- BAR4_WRITE (04 R163, 17 R475): a refused posted write is dropped and counted. -/
def Dev.bar4Write (d : Dev) (q : PartId) (off : Nat) (data : List Byte) : Dev :=
  match d.exported q none off (.write data) with
  | (.refused, d) => d.countPeerErr q
  | (_, d) => d
def execBar4Write (n : PartId) (off : BitVec 40) (data : List Byte) (s : State) : Out :=
  if s.dev.functionUp (PartId.func n) then .next { s with dev := s.dev.bar4Write n off.toNat data } else .next s

/-- BAR4_READ (17 R475, R476): data, Unsupported Request or Completer Abort. -/
def Dev.bar4Read (d : Dev) (q : PartId) (off n : Nat) : Dev :=
  match d.exported q none off (.read n) with
  | (.data bs, d) => d.say (.readData bs)
  | (.poisoned, d) => d.say .completerAbort
  | (_, d) => (d.countPeerErr q).say .unsupported
def execBar4Read (n : PartId) (off : BitVec 40) (len : Nat) (s : State) : Out :=
  if s.dev.functionUp (PartId.func n) then .next { s with dev := s.dev.bar4Read n off.toNat len } else .next s

/-- The access that an AtomicOp makes (17 R471). -/
def hostAccess (op : HostAtomic) (n : Nat) : PeerAccess :=
  match op with
  | .fetchAdd v => .atomic .add n v
  | .swap v => .atomic .swap n v
  | .cas e v => .cas n e v
/-- ATOMICOP (17 R476): the old value goes back. -/
def Dev.atomicOp (d : Dev) (q : PartId) (off n : Nat) (op : HostAtomic) : Dev :=
  match d.exported q none off (hostAccess op n) with
  | (.data bs, d) => d.say (.atomicOld (leWord bs))
  | (.poisoned, d) => d.say .completerAbort
  | (_, d) => (d.countPeerErr q).say .unsupported
def execAtomicop (n : PartId) (off : BitVec 40) (w : Bool) (op : HostAtomic) (s : State) : Out :=
  if s.dev.functionUp (PartId.func n) then .next { s with dev := s.dev.atomicOp n off.toNat (if w then 8 else 4) op } else .next s

/-- A refused notify write is recorded, and vector 1 sent (17 R477, R479). -/
def Dev.ntfErr (d : Dev) (q : PartId) (full : Bool) (off : Nat) : Dev :=
  (d.modPf q (fun f => { f with
    ntfFull := f.ntfFull || full
    ntfBad := f.ntfBad || !full
    ntfOff := BitVec.ofNat 40 off })).msix q 1
/-- NOTIFY_WRITE (17 R477): a PUT on the presence word that the first eight bytes name. A write to the reserved range of BAR2 is
dropped and counted (R478). -/
def Dev.notifyWrite (d : Dev) (q : PartId) (off : Nat) (data : List Byte) : Dev :=
  let word := leNat (data.take 8)
  if data.length != 16 || off % 16 != 0 then d.ntfErr q false word
  else if 2 ^ 40 ≤ word then d.ntfErr q false word
  else match d.exported q none word (.put (leWord (data.drop 8))) with
    | (.done, d) => d
    | (.full, d) => d.ntfErr q true word
    | (_, d) => d.ntfErr q false word
def execNotifyWrite (n : PartId) (off : Nat) (data : List Byte) (s : State) : Out :=
  if s.dev.functionUp (PartId.func n) && decide (0x40000 ≤ off) && decide (off < 0x41000) then
    .next { s with dev := s.dev.notifyWrite n off data }
  else if s.dev.functionUp (PartId.func n) && decide (0x41000 ≤ off) && decide (off < 0x80000) then
    .next { s with dev := s.dev.countPeerErr n }
  else .next s

/-- PERST (17 R492, R493): the device is reset and bring-up starts; what the arrays and the host's memory hold stays (log 54), presence bits
apart, which are 0 after reset (02 R69), and so does TRAPVEC, to which reset gives no value (00 R7, 09 R297). -/
def Dev.perst (d : Dev) : Dev :=
  { Dev.reset with
    clusters := Vector.ofFn (fun c => { Cluster.reset with
      strands := Vector.ofFn (fun k => { vget Cluster.reset.strands k with trapVec := (d.strand c k).trapVec }) })
    mem := d.mem
    poison := d.poison
    enc := d.enc
    dramErr := d.dramErr
    sent := d.sent
    free := d.free }
def execPerst (s : State) : Out := .next { dev := s.dev.perst, turns := [], curC := 0, curK := 0 }

/-- Bring-up phases that must be over before phase ph + 1 ends (17 R492). -/
def phaseNeeds (ph : Nat) : List Nat :=
  match ph with
  | 0 => []
  | 1 => [0]
  | 2 => [0]
  | 3 => [1, 2]
  | _ => [3]
/-- Training of the Ralva ports begins when phases 1 to 3 are over (17 R483, R492). -/
def Dev.trainLinks (d : Dev) : Dev :=
  if d.phases.getLsbD 1 && d.phases.getLsbD 2 then { d with links := d.links.map (fun (l : Link) => { l with state := 1 }) } else d
/-- BRING_UP_PHASE_DONE (17 R488, R492): with phase 5 every partition that no held SETUP has set up since phase 2 is OFF, its map entries none, and
every strand outside those set up is IDLE (log 53). -/
def Dev.phaseDone (d : Dev) (ph : Nat) : Dev :=
  let needed := (phaseNeeds ph).all (fun i => d.phases.getLsbD i)
  if d.phases.getLsbD ph || !needed || (!d.running && ph != 2) then d
  else
    let d := { d with phases := d.phases ||| BitVec.ofNat 5 (2 ^ ph) }
    match ph with
    | 0 =>
      let e := Config.failedImage d.free
      let d := { d with free := d.free + 1 }
      if decide (1 ≤ e.toNat) && decide (e.toNat ≤ 5) then { d with bootErr := e, running := false } else d
    | 1 => d.releasePctl.trainLinks
    | 2 => d.trainLinks
    | 3 => { d with
        links := Vector.ofFn (fun p =>
          let l := vget d.links p
          if Config.portTrains p.val d.free then { l with lanes := 8, state := 2 } else { l with state := 0 })
        free := d.free + 1 }
    | _ =>
      let d := ((List.finRange 8).filter (fun p => (d.part p).state = .off)).foldl Dev.freeMaps d
      { d with clusters := Vector.ofFn (fun c =>
        let cl := vget d.clusters c
        if (d.partOf c).isSome then cl else { cl with strands := cl.strands.map (fun (st : Strand) => { st with state := .idle }) }) }
def execBringUpPhaseDone (ph : Fin 5) (s : State) : Out := .next { s with dev := s.dev.phaseDone ph.val }

/-- THERMTRIP (17 R493). -/
def execThermtrip (s : State) : Out := .next { s with dev := { s.dev with stopped := true } }

/-- SETKEY (17 R489). -/
def Dev.setKey (d : Dev) (n : PartId) (session : Nat) (key : BitVec 512) : Dev :=
  let x := d.part n
  if x.state = .ready && x.kpol = 1 && x.key.isNone && x.reported.contains session then
    (d.modPart n (fun x => { x with key := some key })).say (.keyAccepted n)
  else d.say (.keyError n)
def execSetkey (n : PartId) (session : Nat) (key : BitVec 512) (s : State) : Out :=
  if s.dev.functionUp (PartId.func n) then .next { s with dev := s.dev.setKey n session key } else .next s

/-- The measurement blocks that a function reports (17 R488). -/
def Dev.blocksOf (d : Dev) (f : FuncIx) : List (Nat × BitVec 384) :=
  [1, 2, 3, 4, 5].map (fun i => (i, Config.imageMeasurement i)) ++
    (match FuncIx.part f with | none => List.finRange 8 | some p => [p]).map (fun (p : PartId) => (16 + p.val, (d.part p).measured))
/-- MEASUREMENT_REPORT (17 R488): the blocks of a function, signed; a partition function's session has then reported index 16 + n. -/
def Dev.measurements (d : Dev) (f : FuncIx) (session : Nat) : Dev :=
  let l := d.blocksOf f
  let d := (l.foldl (fun d b => d.say (.measurement b.1 b.2)) d).say (.signature (Config.identitySignature l))
  match FuncIx.part f with
  | none => d
  | some p => d.modPart p (fun x =>
      { x with reported := if x.reported.contains session then x.reported else x.reported ++ [session] })
def execMeasurementReport (f : FuncIx) (session : Nat) (s : State) : Out :=
  if s.dev.functionUp f then .next { s with dev := s.dev.measurements f session } else .next s

end Sys2Proof.Machine
end

