-- ==== Sys2Proof/Machine/Dispatch.lean ====
section
/-! DEFINITION. One arm per step: each a single direct call of its meaning. -/

namespace Sys2Proof.Machine

/-- The effect of a step. -/
def exec (i : Instr) (s : State) : Host.Outcome State Fault Refusal :=
  match i with
  | .add d a b => Sys2Proof.Machine.execAdd d a b s
  | .sub d a b => Sys2Proof.Machine.execSub d a b s
  | .and d a b => Sys2Proof.Machine.execAnd d a b s
  | .or d a b => Sys2Proof.Machine.execOr d a b s
  | .xor d a b => Sys2Proof.Machine.execXor d a b s
  | .sll d a b => Sys2Proof.Machine.execSll d a b s
  | .srl d a b => Sys2Proof.Machine.execSrl d a b s
  | .sra d a b => Sys2Proof.Machine.execSra d a b s
  | .slt d a b => Sys2Proof.Machine.execSlt d a b s
  | .sltu d a b => Sys2Proof.Machine.execSltu d a b s
  | .mul d a b => Sys2Proof.Machine.execMul d a b s
  | .mulh d a b => Sys2Proof.Machine.execMulh d a b s
  | .mulhu d a b => Sys2Proof.Machine.execMulhu d a b s
  | .div d a b => Sys2Proof.Machine.execDiv d a b s
  | .divu d a b => Sys2Proof.Machine.execDivu d a b s
  | .rem d a b => Sys2Proof.Machine.execRem d a b s
  | .remu d a b => Sys2Proof.Machine.execRemu d a b s
  | .min d a b => Sys2Proof.Machine.execMin d a b s
  | .max d a b => Sys2Proof.Machine.execMax d a b s
  | .minu d a b => Sys2Proof.Machine.execMinu d a b s
  | .maxu d a b => Sys2Proof.Machine.execMaxu d a b s
  | .clz d a => Sys2Proof.Machine.execClz d a s
  | .ctz d a => Sys2Proof.Machine.execCtz d a s
  | .popc d a => Sys2Proof.Machine.execPopc d a s
  | .addi d a im => Sys2Proof.Machine.execAddi d a im s
  | .andi d a im => Sys2Proof.Machine.execAndi d a im s
  | .ori d a im => Sys2Proof.Machine.execOri d a im s
  | .xori d a im => Sys2Proof.Machine.execXori d a im s
  | .slti d a im => Sys2Proof.Machine.execSlti d a im s
  | .sltiu d a im => Sys2Proof.Machine.execSltiu d a im s
  | .slli d a sh => Sys2Proof.Machine.execSlli d a sh s
  | .srli d a sh => Sys2Proof.Machine.execSrli d a sh s
  | .srai d a sh => Sys2Proof.Machine.execSrai d a sh s
  | .lih d a im => Sys2Proof.Machine.execLih d a im s
  | .ldb d a im => Sys2Proof.Machine.execLdb d a im s
  | .ldh d a im => Sys2Proof.Machine.execLdh d a im s
  | .ldw d a im => Sys2Proof.Machine.execLdw d a im s
  | .ldd d a im => Sys2Proof.Machine.execLdd d a im s
  | .ldbu d a im => Sys2Proof.Machine.execLdbu d a im s
  | .ldhu d a im => Sys2Proof.Machine.execLdhu d a im s
  | .ldwu d a im => Sys2Proof.Machine.execLdwu d a im s
  | .stb base b o => Sys2Proof.Machine.execStb base b o s
  | .sth base b o => Sys2Proof.Machine.execSth base b o s
  | .stw base b o => Sys2Proof.Machine.execStw base b o s
  | .std base b o => Sys2Proof.Machine.execStd base b o s
  | .lda d a sc w => Sys2Proof.Machine.execLda d a sc w s
  | .stl a b sc w => Sys2Proof.Machine.execStl a b sc w s
  | .amoAdd d a b sc o w => Sys2Proof.Machine.execAmoAdd d a b sc o w s
  | .amoAnd d a b sc o w => Sys2Proof.Machine.execAmoAnd d a b sc o w s
  | .amoOr d a b sc o w => Sys2Proof.Machine.execAmoOr d a b sc o w s
  | .amoXor d a b sc o w => Sys2Proof.Machine.execAmoXor d a b sc o w s
  | .amoMin d a b sc o w => Sys2Proof.Machine.execAmoMin d a b sc o w s
  | .amoMax d a b sc o w => Sys2Proof.Machine.execAmoMax d a b sc o w s
  | .amoMinu d a b sc o w => Sys2Proof.Machine.execAmoMinu d a b sc o w s
  | .amoMaxu d a b sc o w => Sys2Proof.Machine.execAmoMaxu d a b sc o w s
  | .amoSwap d a b sc o w => Sys2Proof.Machine.execAmoSwap d a b sc o w s
  | .cas d a b sc o w => Sys2Proof.Machine.execCas d a b sc o w s
  | .put a b sc => Sys2Proof.Machine.execPut a b sc s
  | .take d a sc => Sys2Proof.Machine.execTake d a sc s
  | .rdf d a sc => Sys2Proof.Machine.execRdf d a sc s
  | .clrp a => Sys2Proof.Machine.execClrp a s
  | .prb d a => Sys2Proof.Machine.execPrb d a s
  | .fence sc o => Sys2Proof.Machine.execFence sc o s
  | .monarm a => Sys2Proof.Machine.execMonarm a s
  | .monwait => Sys2Proof.Machine.execMonwait s
  | .beq a b o => Sys2Proof.Machine.execBeq a b o s
  | .bne a b o => Sys2Proof.Machine.execBne a b o s
  | .blt a b o => Sys2Proof.Machine.execBlt a b o s
  | .bge a b o => Sys2Proof.Machine.execBge a b o s
  | .bltu a b o => Sys2Proof.Machine.execBltu a b o s
  | .bgeu a b o => Sys2Proof.Machine.execBgeu a b o s
  | .jal o => Sys2Proof.Machine.execJal o s
  | .jalr d a im => Sys2Proof.Machine.execJalr d a im s
  | .srd d n r => Sys2Proof.Machine.execSrd d n r s
  | .swr a n r => Sys2Proof.Machine.execSwr a n r s
  | .trap n => Sys2Proof.Machine.execTrap n s
  | .brk n => Sys2Proof.Machine.execBrk n s
  | .rte => Sys2Proof.Machine.execRte s
  | .wfi => Sys2Proof.Machine.execWfi s
  | .snap => Sys2Proof.Machine.execSnap s
  | .acvtTo d a id => Sys2Proof.Machine.execAcvtTo d a id s
  | .acvtFrom d a id => Sys2Proof.Machine.execAcvtFrom d a id s
  | .atst d a => Sys2Proof.Machine.execAtst d a s
  | .fload d a b sync sw => Sys2Proof.Machine.execFload d a b sync sw s
  | .krun a b => Sys2Proof.Machine.execKrun a b s
  | .kstop a wait => Sys2Proof.Machine.execKstop a wait s
  | .ksave d a b => Sys2Proof.Machine.execKsave d a b s
  | .krest a b => Sys2Proof.Machine.execKrest a b s
  | .kstat d a => Sys2Proof.Machine.execKstat d a s
  | .glaunch d a => Sys2Proof.Machine.execGlaunch d a s
  | .enq d a q => Sys2Proof.Machine.execEnq d a q s
  | .enqs d a q => Sys2Proof.Machine.execEnqs d a q s
  | .qstat d q => Sys2Proof.Machine.execQstat d q s
  | .binit a b sc => Sys2Proof.Machine.execBinit a b sc s
  | .barr d a sc => Sys2Proof.Machine.execBarr d a sc s
  | .bexp a b sc => Sys2Proof.Machine.execBexp a b sc s
  | .bwait d a b sc => Sys2Proof.Machine.execBwait d a b sc s
  | .sigst a b put sc => Sys2Proof.Machine.execSigst a b put sc s
  | .msgsend d a b sc => Sys2Proof.Machine.execMsgsend d a b sc s
  | .msgrecv d sc => Sys2Proof.Machine.execMsgrecv d sc s
  | .fadd d a b m => Sys2Proof.Machine.execFadd d a b m s
  | .fsub d a b m => Sys2Proof.Machine.execFsub d a b m s
  | .fmul d a b m => Sys2Proof.Machine.execFmul d a b m s
  | .ffma d a b m => Sys2Proof.Machine.execFfma d a b m s
  | .fdiv d a b m => Sys2Proof.Machine.execFdiv d a b m s
  | .fsqrt d a m => Sys2Proof.Machine.execFsqrt d a m s
  | .fcvt d a x m => Sys2Proof.Machine.execFcvt d a x m s
  | .fcmp d a b c sig => Sys2Proof.Machine.execFcmp d a b c sig s
  | .fmvgf d a => Sys2Proof.Machine.execFmvgf d a s
  | .fmvfg d a => Sys2Proof.Machine.execFmvfg d a s
  | .li64 d h im => Sys2Proof.Machine.execLi64 d h im s
  | .asyncTrapEntry c k => Sys2Proof.Machine.execAsyncTrapEntry c k s
  | .monitorWake c k => Sys2Proof.Machine.execMonitorWake c k s
  | .replyPlacement c tag data => Sys2Proof.Machine.execReplyPlacement c tag data s
  | .homeRequest c im ecc => Sys2Proof.Machine.execHomeRequest c im ecc s
  | .pageWalk c u row va kind => Sys2Proof.Machine.execPageWalk c u row va kind s
  | .presenceReissue c tag => Sys2Proof.Machine.execPresenceReissue c tag s
  | .deferTimeout c tag => Sys2Proof.Machine.execDeferTimeout c tag s
  | .mnChunkWrite c n off chunk poisoned => Sys2Proof.Machine.execMnChunkWrite c n off chunk poisoned s
  | .refresh stack pc bank held => Sys2Proof.Machine.execRefresh stack pc bank held s
  | .regionCycle c r => Sys2Proof.Machine.execRegionCycle c r s
  | .regionResume c r => Sys2Proof.Machine.execRegionResume c r s
  | .regionStop c r => Sys2Proof.Machine.execRegionStop c r s
  | .drainWrite c r im => Sys2Proof.Machine.execDrainWrite c r im s
  | .drainComplete c r => Sys2Proof.Machine.execDrainComplete c r s
  | .agRunAheadIssue c g b => Sys2Proof.Machine.execAgRunAheadIssue c g b s
  | .streamPacketArrival c p => Sys2Proof.Machine.execStreamPacketArrival c p s
  | .mma c n => Sys2Proof.Machine.execMma c n s
  | .mmas c n => Sys2Proof.Machine.execMmas c n s
  | .mzero c n => Sys2Proof.Machine.execMzero c n s
  | .mlda c n => Sys2Proof.Machine.execMlda c n s
  | .mscale c n => Sys2Proof.Machine.execMscale c n s
  | .mswap c n => Sys2Proof.Machine.execMswap c n s
  | .mgang c n => Sys2Proof.Machine.execMgang c n s
  | .matrixInstanceComplete c n => Sys2Proof.Machine.execMatrixInstanceComplete c n s
  | .copy c q => Sys2Proof.Machine.execCopy c q s
  | .copy2d c q => Sys2Proof.Machine.execCopy2d c q s
  | .copy3d c q => Sys2Proof.Machine.execCopy3d c q s
  | .gather c q => Sys2Proof.Machine.execGather c q s
  | .scatter c q => Sys2Proof.Machine.execScatter c q s
  | .fill c q => Sys2Proof.Machine.execFill c q s
  | .mcast c q => Sys2Proof.Machine.execMcast c q s
  | .reduce c q => Sys2Proof.Machine.execReduce c q s
  | .stamp c q => Sys2Proof.Machine.execStamp c q s
  | .signal c q => Sys2Proof.Machine.execSignal c q s
  | .prefetch c q => Sys2Proof.Machine.execPrefetch c q s
  | .llsclean c q => Sys2Proof.Machine.execLlsclean c q s
  | .llsinv c q => Sys2Proof.Machine.execLlsinv c q s
  | .llsflush c q => Sys2Proof.Machine.execLlsflush c q s
  | .bankcfg c q => Sys2Proof.Machine.execBankcfg c q s
  | .rowcopy c q => Sys2Proof.Machine.execRowcopy c q s
  | .rowfill c q => Sys2Proof.Machine.execRowfill c q s
  | .rowand c q => Sys2Proof.Machine.execRowand c q s
  | .rowor c q => Sys2Proof.Machine.execRowor c q s
  | .rowxor c q => Sys2Proof.Machine.execRowxor c q s
  | .rownot c q => Sys2Proof.Machine.execRownot c q s
  | .rowmaj c q => Sys2Proof.Machine.execRowmaj c q s
  | .update c m => Sys2Proof.Machine.execUpdate c m s
  | .uflush c m => Sys2Proof.Machine.execUflush c m s
  | .stepset c => Sys2Proof.Machine.execStepset c s
  | .sigcmp c => Sys2Proof.Machine.execSigcmp c s
  | .shdupd c => Sys2Proof.Machine.execShdupd c s
  | .steprd c => Sys2Proof.Machine.execSteprd c s
  | .sector c q seq j => Sys2Proof.Machine.execSector c q seq j s
  | .frame c q seq => Sys2Proof.Machine.execFrame c q seq s
  | .sigcmpGroup c seq => Sys2Proof.Machine.execSigcmpGroup c seq s
  | .tokenEntry c m => Sys2Proof.Machine.execTokenEntry c m s
  | .groupIssue c m g => Sys2Proof.Machine.execGroupIssue c m g s
  | .completionPublish c q seq => Sys2Proof.Machine.execCompletionPublish c q seq s
  | .messageArrival c sender k w1 w2 w3 => Sys2Proof.Machine.execMessageArrival c sender k w1 w2 w3 s
  | .msgsendRetry c k => Sys2Proof.Machine.execMsgsendRetry c k s
  | .fqctl n v => Sys2Proof.Machine.execFqctl n v s
  | .fqtail n v => Sys2Proof.Machine.execFqtail n v s
  | .fqclose n v => Sys2Proof.Machine.execFqclose n v s
  | .fqretry n v => Sys2Proof.Machine.execFqretry n v s
  | .tlbinvVa n asid vpn => Sys2Proof.Machine.execTlbinvVa n asid vpn s
  | .tlbinvAsid n asid => Sys2Proof.Machine.execTlbinvAsid n asid s
  | .tlbinvAll n => Sys2Proof.Machine.execTlbinvAll n s
  | .invalidationComplete n => Sys2Proof.Machine.execInvalidationComplete n s
  | .accsync n v => Sys2Proof.Machine.execAccsync n v s
  | .accsyncComplete n => Sys2Proof.Machine.execAccsyncComplete n s
  | .chretire n v => Sys2Proof.Machine.execChretire n v s
  | .retirementComplete n => Sys2Proof.Machine.execRetirementComplete n s
  | .hold c q v => Sys2Proof.Machine.execHold c q v s
  | .holdRelease c q v => Sys2Proof.Machine.execHoldRelease c q v s
  | .held c q => Sys2Proof.Machine.execHeld c q s
  | .engxferSave c q v => Sys2Proof.Machine.execEngxferSave c q v s
  | .engxferRestore c q v => Sys2Proof.Machine.execEngxferRestore c q v s
  | .engxferDone c q => Sys2Proof.Machine.execEngxferDone c q s
  | .setup n v => Sys2Proof.Machine.execSetup n v s
  | .setupDone n => Sys2Proof.Machine.execSetupDone n s
  | .reset n v => Sys2Proof.Machine.execReset n v s
  | .release n v => Sys2Proof.Machine.execRelease n v s
  | .pwdkick n v => Sys2Proof.Machine.execPwdkick n v s
  | .watchdogFirstStage n => Sys2Proof.Machine.execWatchdogFirstStage n s
  | .watchdogSecondStage n => Sys2Proof.Machine.execWatchdogSecondStage n s
  | .hostirq n v => Sys2Proof.Machine.execHostirq n v s
  | .trig n v => Sys2Proof.Machine.execTrig n v s
  | .counterTrigger c => Sys2Proof.Machine.execCounterTrigger c s
  | .snapin => Sys2Proof.Machine.execSnapin s
  | .snapLatch => Sys2Proof.Machine.execSnapLatch s
  | .registerWrite f off v => Sys2Proof.Machine.execRegisterWrite f off v s
  | .memerrRead n => Sys2Proof.Machine.execMemerrRead n s
  | .peererrRead n => Sys2Proof.Machine.execPeererrRead n s
  | .disperrRead n => Sys2Proof.Machine.execDisperrRead n s
  | .ingstatRead n w => Sys2Proof.Machine.execIngstatRead n w s
  | .linkstatRead p => Sys2Proof.Machine.execLinkstatRead p s
  | .ingressTokenWrite n w off data poisoned => Sys2Proof.Machine.execIngressTokenWrite n w off data poisoned s
  | .tokenRelease n w => Sys2Proof.Machine.execTokenRelease n w s
  | .launch die => Sys2Proof.Machine.execLaunch die s
  | .edit die => Sys2Proof.Machine.execEdit die s
  | .preempt die => Sys2Proof.Machine.execPreempt die s
  | .data die => Sys2Proof.Machine.execData die s
  | .dependenceRead die inst => Sys2Proof.Machine.execDependenceRead die inst s
  | .dependencePoll die => Sys2Proof.Machine.execDependencePoll die s
  | .readyWaitLimit die inst => Sys2Proof.Machine.execReadyWaitLimit die inst s
  | .placement die => Sys2Proof.Machine.execPlacement die s
  | .configurationLoad die inst => Sys2Proof.Machine.execConfigurationLoad die inst s
  | .controlStrandWake die inst => Sys2Proof.Machine.execControlStrandWake die inst s
  | .instanceRetire die inst => Sys2Proof.Machine.execInstanceRetire die inst s
  | .quantumEnd c r => Sys2Proof.Machine.execQuantumEnd c r s
  | .aging c r im => Sys2Proof.Machine.execAging c r im s
  | .contextSwitch c r => Sys2Proof.Machine.execContextSwitch c r s
  | .bar4Write n off data => Sys2Proof.Machine.execBar4Write n off data s
  | .bar4Read n off len => Sys2Proof.Machine.execBar4Read n off len s
  | .atomicop n off w op => Sys2Proof.Machine.execAtomicop n off w op s
  | .notifyWrite n off data => Sys2Proof.Machine.execNotifyWrite n off data s
  | .flr n => Sys2Proof.Machine.execFlr n s
  | .d3hotEntry n => Sys2Proof.Machine.execD3hotEntry n s
  | .perst => Sys2Proof.Machine.execPerst s
  | .bringUpPhaseDone ph => Sys2Proof.Machine.execBringUpPhaseDone ph s
  | .thermtrip => Sys2Proof.Machine.execThermtrip s
  | .flitReceive p crcOk src seq => Sys2Proof.Machine.execFlitReceive p crcOk src seq s
  | .incomingPeerAccess src n off acc => Sys2Proof.Machine.execIncomingPeerAccess src n off acc s
  | .linkDown p => Sys2Proof.Machine.execLinkDown p s
  | .pathTimeout c tag => Sys2Proof.Machine.execPathTimeout c tag s
  | .setkey n session key => Sys2Proof.Machine.execSetkey n session key s
  | .measurementReport f session => Sys2Proof.Machine.execMeasurementReport f session s
  | .partitionResetComplete n => Sys2Proof.Machine.execPartitionResetComplete n s
  | .linkDegraded p => Sys2Proof.Machine.execLinkDegraded p s
  | .illegalInstruction w => Sys2Proof.Machine.execIllegalInstruction w s
  | .fetchFault => Sys2Proof.Machine.execFetchFault s

end Sys2Proof.Machine
end

