-- ==== Sys2Proof/Machine/Schedule.lean ====
section
/-! DEFINITION. One whole cycle of turns (log 2): every step that an agent of the device may take in the cycle, the cores last, then the
tick. A turn whose conditions do not hold changes nothing. -/

namespace Sys2Proof.Machine

/-- The step that starts a command of a queue. -/
def startStep (c : ClusterId) (q : QueueIx) (k : CmdKind) : Option Instr :=
  if h : q.val < 4 then
    let e : CeIx := ⟨q.val, h⟩
    match k with
    | .copy => some (.copy c e)
    | .copy2d => some (.copy2d c e)
    | .copy3d => some (.copy3d c e)
    | .gather => some (.gather c e)
    | .scatter => some (.scatter c e)
    | .fill => some (.fill c e)
    | .mcast => some (.mcast c e)
    | .reduce => some (.reduce c e)
    | .stamp => some (.stamp c e)
    | .signal => some (.signal c e)
    | .prefetch => some (.prefetch c e)
    | .llsclean => some (.llsclean c e)
    | .llsinv => some (.llsinv c e)
    | .llsflush => some (.llsflush c e)
    | .bankcfg => some (.bankcfg c e)
    | .rowcopy => some (.rowcopy c e)
    | .rowfill => some (.rowfill c e)
    | .rowand => some (.rowand c e)
    | .rowor => some (.rowor c e)
    | .rowxor => some (.rowxor c e)
    | .rownot => some (.rownot c e)
    | .rowmaj => some (.rowmaj c e)
    | _ => none
  else if h : q.val < 6 then
    let m : MgIx := ⟨q.val - 4, by omega⟩
    match k with
    | .update => some (.update c m)
    | .uflush => some (.uflush c m)
    | _ => none
  else
    match k with
    | .stepset => some (.stepset c)
    | .sigcmp => some (.sigcmp c)
    | .shdupd => some (.shdupd c)
    | .steprd => some (.steprd c)
    | _ => none

/-- The work of a started command: a copy's lowest sector, one after the other (11 R357). -/
def workSteps (c : ClusterId) (q : QueueIx) (k : Cmd) : List Instr :=
  match k.kind with
  | some .sigcmp => [.sigcmpGroup c k.key]
  | some .update => []
  | some .shdupd => [.frame c q k.key]
  | some kd => if kd.isRow then [.frame c q k.key] else [.sector c q k.key 0]
  | none => []

/-- The commands of a queue that work in this cycle: a copy engine starts one sector of one ACTIVE command in each turn of 16 cycles,
in rotation (11 R344: 256 bytes a cycle); row frames, and the other queues, go on in every cycle. -/
def Dev.working (d : Dev) (c : ClusterId) (q : QueueIx) : List Cmd :=
  let act := (d.queue c q).cmds.filter (fun k => k.state = .active)
  let row := fun (k : Cmd) => match k.kind with
    | some kd => kd.isRow
    | none => false
  if decide (q.val < 4) then
    let copies := act.filter (fun k => !row k)
    act.filter row ++ (if d.now % 16 = 0 then (copies[d.now / 16 % copies.length]?).toList else [])
  else act

/-- The steps of one queue. -/
def Dev.queueSteps (d : Dev) (c : ClusterId) (q : QueueIx) : List Instr :=
  let x := d.queue c q
  let merge : List Instr := match ([0, 1] : List MgIx).find? (fun m => mgQueue m = q) with
    | some m =>
      [.tokenEntry c m] ++ ((List.range x.groups.length).reverse.filter (fun i => match x.groups[i]? with
        | some g => decide (g.opened + 255 ≤ d.now) || x.hold || x.entering.isNone
        | none => false)).map (fun i => .groupIssue c m i)
    | none => []
  (match x.oldest with
    | some k => (match k.kind with | some kd => (startStep c q kd).toList | none => [])
    | none => []) ++
  (d.working c q).flatMap (workSteps c q) ++ merge ++
  x.cmds.map (fun k => .completionPublish c q k.key) ++
  (if x.hold && !x.held then [.held c q] else []) ++ (if x.xfer.busy then [.engxferDone c q] else [])

/-- The step of a matrix node whose oldest instance has this operation. -/
def nodeStep (c : ClusterId) (n : NodeIx) (mop : Nat) : List Instr :=
  match mop with
  | 1 => [.mma c n]
  | 2 => [.mmas c n]
  | 3 => [.mzero c n]
  | 4 => [.mlda c n]
  | 8 => [.mscale c n]
  | 9 => [.mswap c n]
  | 10 => [.mgang c n]
  | _ => []

/-- The steps of one region. -/
def Dev.regionSteps (d : Dev) (c : ClusterId) (r : RegionIx) : List Instr :=
  let x := d.region c r
  let gens : List Instr := if x.busy then (d.agensOf c r).flatMap (fun g => (List.finRange 4).filterMap (fun b =>
    if (vget (d.agen c g).blocks b).isSome then some (.agRunAheadIssue c g b) else none)) else []
  let cyc : List Instr :=
    if x.st = .running || x.st = .stopping then [.regionCycle c r] else if x.st = .frozen then [.regionResume c r] else []
  let drain : List Instr := match x.drain with
    | some h => (List.range h.grans.length).reverse.map (fun i => .drainWrite c r i) ++ [.drainComplete c r]
    | none => []
  let ctx : List Instr :=
    if x.ctxs.isEmpty then []
    else [.quantumEnd c r] ++ ((List.finRange 4).filter (fun i => decide (i.val < x.ctxs.length))).map (fun i => .aging c r i) ++
      [.contextSwitch c r]
  gens ++ cyc ++ gens ++ (if x.st = .stopping then [.regionStop c r] else []) ++ drain ++ ctx

/-- The steps that strands' waits take. -/
def Dev.strandTurns (d : Dev) (c : ClusterId) (k : StrandIx) : List Turn :=
  match (d.strand c k).state with
  | .wait (.retry _) _ => [.retry c k]
  | .wait (.sync _ _ _) _ => [.retry c k]
  | .wait (.msgsend _ _ _ _ _) _ => [.event (.msgsendRetry c k)]
  | .wait .monwait _ => [.event (.monitorWake c k)]
  | .wait .wfi _ => [.event (.monitorWake c k)]
  | _ => []

/-- The turns of one cluster. -/
def Dev.clusterTurns (d : Dev) (c : ClusterId) : List Turn :=
  let cl := d.cl c
  let ev := fun (l : List Instr) => l.map Turn.event
  ev (cl.buffer.map (fun _ => .homeRequest c 0 .clean)) ++
  ev ((List.finRange 4).flatMap (d.regionSteps c)) ++
  ev ((List.finRange 12).flatMap (fun n => match (d.node c n).queue with
    | h :: _ => nodeStep c n (mxMop h.entry) ++ [.matrixInstanceComplete c n]
    | [] => [])) ++
  ev ((List.finRange 7).flatMap (d.queueSteps c)) ++
  ev ((List.finRange 24).flatMap (fun n => (vget cl.memNodes n).wait.map (fun h => .mnChunkWrite c n h.off h.data h.poison))) ++
  ev ((List.finRange 16).filterMap (fun p => match (vget cl.fab.ports p).peer with
    | some (sc, sp) => if (vget (d.cl sc).fab.ports sp).ready.isEmpty then none else some (.streamPacketArrival c p)
    | none => none)) ++
  ev (cl.reqs.flatMap (fun r => match r.kind with
    | .presence _ _ _ _ => [.presenceReissue c r.tag, .deferTimeout c r.tag]
    | _ => [])) ++
  (List.finRange 4).flatMap (d.strandTurns c) ++
  (if cl.snapCmen then [.event (.counterTrigger c)] else []) ++
  (if (List.finRange 4).any (fun k => (d.strand c k).state != .idle) then [.core c] else [])

/-- The steps of one partition. -/
def Dev.partSteps (d : Dev) (p : PartId) : List Instr :=
  let x := d.part p
  (if x.tr.invals.isEmpty then [] else [.invalidationComplete p]) ++ (if x.tr.accSync then [.accsyncComplete p] else []) ++
  (if x.mb.retiring.isSome then [.retirementComplete p] else []) ++ (if x.state = .setting then [.setupDone p] else []) ++
  (if x.state = .resetting then [.partitionResetComplete p] else []) ++
  (if x.db.wdEn then [.watchdogFirstStage p, .watchdogSecondStage p] else [])

/-- The steps of one die's dispatcher: its windows in rotation (13 R402), and its queues. -/
def Dev.dieSteps (d : Dev) (e : DieId) : List Instr :=
  let x := d.die e
  (if x.hand.isSome then [.launch e, .edit e, .preempt e] else []) ++
  (d.windowsOf e).flatMap (fun w => [.tokenRelease w.1 w.2, .launch e, .edit e, .preempt e]) ++ x.datas.map (fun _ => .data e) ++
  x.insts.flatMap (fun i => match i.state with
    | .waiting => (if i.readySince.isSome then [] else [.dependenceRead e i.id]) ++ (if i.readySince.isSome then [.readyWaitLimit e i.id] else [])
    | .placed => [.configurationLoad e i.id]
    | .loaded => [.controlStrandWake e i.id]
    | .running => [.instanceRetire e i.id]) ++
  (if d.now % 65536 = 0 && !x.insts.isEmpty then [.dependencePoll e] else []) ++
  (if x.insts.any (fun i => i.state = .waiting && i.readySince.isSome) then [.placement e] else [])

/-- Turns of the outside world that are no instruction: a host store to its own memory, a TLB entry leaving, an eviction, an error of DRAM or
of the LLS, words fetched ahead, and the host's accesses to BAR0 and BAR2 of every size (Turn). -/
def Dev.outside (d : Dev) : Turn → Dev
  | .hostStore a b => { d with mem := memWrite d.mem (hostKey a.toNat) b }
  | .tlbDrop die wc n =>
    d.modDie die (fun x => if wc then { x with walk := x.walk.eraseIdx n } else { x with tlb := x.tlb.eraseIdx n })
  | .evict n => match d.lls[n]? with
    | some w => d.evict w
    | none => d
  | .dramError a u => { d with dramErr := tset d.dramErr a (u || (tget d.dramErr a).getD false) }
  | .llsError n i => match d.lls[n]? with
    | some w => d.lineError w i
    | none => d
  | .fetchAhead c k n => d.fetchAhead c k n
  | .bar0Read f off n => d.hostRead f off n
  | .bar0Write f off data => if data.length = 8 then d.hostWrite f off (leWord data) else d.hostRefuse f
  | .bar2Read p _ n => d.bar2Read p n
  | _ => d

/-- The turns of one cycle. -/
def Dev.cycleTurns (d : Dev) : List Turn :=
  ((List.finRange 8).flatMap d.partSteps ++ (List.finRange 4).flatMap d.dieSteps).map Turn.event ++
  (List.finRange 72).flatMap d.clusterTurns ++ (if d.latch.isSome then [.event .snapLatch] else []) ++ [.tick]

/-- Released node buffers are empty from the next cycle on (02 R62). -/
def Dev.settleNodes (d : Dev) (c : ClusterId) : Dev :=
  if (d.cl c).memNodes.all (fun m => m.freeing = 0) then d
  else d.modCl c (fun cl => { cl with memNodes := cl.memNodes.map MemNode.settle })
/-- A cycle passes: command ports hand their committed packets on (08 R286), and waiting signal operations that can be performed are (09 R319). -/
def Dev.tick (d : Dev) : Dev :=
  let d := (List.finRange 72).foldl Dev.settleNodes ((List.finRange 72).foldl Dev.passAllCmds d)
  { (List.finRange 72).foldl (fun d c => if (d.cl c).signals.isEmpty then d else d.flushSignals c) d with now := d.now + 1, remoteNow := [] }

/-! Map fences -/

/-- An access from outside the device that is a row of the table, which the schedule does not lay again (log 102). -/
def outsideAccess : Instr → Bool
  | .replyPlacement _ _ _ | .pageWalk _ _ _ _ _ | .messageArrival _ _ _ _ _ _ | .fqctl _ _ | .fqtail _ _ | .fqclose _ _ | .fqretry _ _
  | .tlbinvVa _ _ _ | .tlbinvAsid _ _ | .tlbinvAll _ | .accsync _ _ | .chretire _ _ | .hold _ _ _ | .holdRelease _ _ _ | .engxferSave _ _ _
  | .engxferRestore _ _ _ | .setup _ _ | .reset _ _ | .release _ _ | .pwdkick _ _ | .hostirq _ _ | .trig _ _ | .registerWrite _ _ _
  | .memerrRead _ | .peererrRead _ | .disperrRead _ | .ingstatRead _ _ | .ingressTokenWrite _ _ _ _ _ | .bar4Write _ _ _ | .bar4Read _ _ _
  | .flr _ | .atomicop _ _ _ _ | .notifyWrite _ _ _ | .incomingPeerAccess _ _ _ _ | .pathTimeout _ _ => true
  | _ => false

/-- An access from outside the device: a row of the table, or an access to BAR0 or BAR2 of any size. -/
def Turn.outside : Turn → Bool
  | .event i => outsideAccess i
  | .bar0Read _ _ _ | .bar0Write _ _ _ | .bar2Read _ _ _ => true
  | _ => false
/-- An access from outside waits behind those that a map fence holds (03 R115; log 102). -/
def State.behind (s : State) (t : Turn) : Bool := t.outside && !s.dev.held.isEmpty
/-- Hold an access from outside. -/
def State.hold (s : State) (t : Turn) : State := { s with dev := { s.dev with held := s.dev.held ++ [t] } }

/-- A turn whose request a map fence holds has not happened (03 R114, R115; log 102): a strand waits with its instruction under the aperture set
of its issue, an access from outside is held, and any other agent attempts its step again when its turn is laid again. -/
def State.withdraw (s : State) (t : Turn) : State :=
  let s := { s with dev := { s.dev with fenceMet := false } }
  match t with
  | .core c =>
    match s.dev.pick c with
    | some k => { s with dev := (s.dev.modCl c (fun cl => { cl with last := k })).modStrand c k (fun st =>
        { st with state := st.state.waiting (.retry (s.dev.strandAp c k)) }) }
    | none => s
  | t => if t.outside then s.hold t else s

/-- What stays of a turn made at a state: all, or nothing where a map fence holds one of its requests. -/
def State.keep (s : State) (t : Turn) (o : Out) : Out :=
  match o with
  | .next s' => .next (if s'.dev.fenceMet then s.withdraw t else s')
  | x => x

/-- A strand that waits attempts its instruction again, or its FLOAD with SYNC ends. -/
def Dev.retries (d : Dev) (c : ClusterId) (k : StrandIx) : Bool :=
  match (d.strand c k).state with
  | .wait (.retry _) _ => true
  | _ => false

end Sys2Proof.Machine
end

