-- ==== Sys2Proof/Machine/Step.lean ====
section
/-! DEFINITION. One step of the machine: the next turn of its schedule (log 2). -/

namespace Sys2Proof.Machine

/-- The strand that runs fetches, decodes and executes (05 R166, 07 R230). -/
def State.issue (s : State) : Out :=
  match fetchPair s.curC s.curK s.dev with
  | (.error _, _) => exec .fetchFault s
  | (.ok (w, w2), d) =>
    let s := { s with dev := d.modStrand s.curC s.curK (fun st => { st with atVector := false }) }
    match decode w w2 with
    | .ok i => exec i s
    | .error _ => exec (.illegalInstruction (BitVec.ofNat 32 w)) s

/-- One turn. -/
def State.turn (s : State) (t : Turn) : Out :=
  match t with
  | .core c =>
    match s.dev.pick c with
    | none => .next s
    | some k =>
      let s := { s with dev := s.dev.modCl c (fun cl => { cl with last := k }), curC := c, curK := k }
      if (s.dev.strand c k).ie && s.dev.takesAsync c k && (s.dev.pending c k).isSome then
        exec (.asyncTrapEntry c k) s
      else s.issue
  | .retry c k =>
    if s.dev.retries c k then { s with curC := c, curK := k }.issue else .next { s with dev := s.dev.syncDone c k }
  | .event i => exec i s
  | .tick => .next { s with dev := s.dev.tick }
  | t => .next { s with dev := s.dev.outside t }

/-- A turn with the increments of its reads. -/
def State.countedTurn (s : State) (t : Turn) : Out :=
  match s.turn t with
  | .next u => .next u.counted
  | x => x

/-- One step: the next turn; with no turn left, a whole cycle of turns is laid out, held accesses first. With every clock stopped only PERST acts
(17 R493). -/
def step (s : State) : Host.Outcome State Fault Refusal :=
  match s.turns with
  | [] =>
    if s.dev.stopped then .fault .clocksStopped
    else .next { s with turns := s.dev.held ++ s.dev.cycleTurns, dev := { s.dev with held := [] } }
  | t :: rest =>
    if s.dev.stopped && t != .event .perst then .fault .clocksStopped
    else if s.behind t then .next ({ s with turns := rest }.hold t)
    else { s with turns := rest }.keep t ({ s with turns := rest }.countedTurn t)

/-- The state with an instruction stored where the next step fetches (log 14): at LOCAL offset 0 of cluster 0, whose strand 0
runs there with a LOCAL window at 0x0100_0000, the cluster and its bank 0 owned by partition 0. -/
def State.withFetchWord (s : State) (nbits w : Nat) : State :=
  let d := s.dev
  let bytes := leBytes 8 (w % 2 ^ nbits)
  let cl := d.cl 0
  let cl := { cl with
    last := 3,
    ap := { base := cl.ap.base.set 0 1, limit := cl.ap.limit.set 0 1 },
    banks := cl.banks.set 0 ⟨0, false, 0, 0, 0⟩,
    strands := cl.strands.set 0 { cl.strands[0] with pc := 0x01000000, state := .run, atVector := false, ahead := [] } }
  { s with
    dev := { (d.setCl 0 cl) with
      mem := memWriteN d.mem (scratchKey 0 0 0 0) bytes,
      cmapClusters := d.cmapClusters.set 0 0,
      poison := sdel d.poison (scratchKey 0 0 0 0 / 64),
      stopped := false,
      reports := [] },
    turns := [.core 0] }

end Sys2Proof.Machine
end

