-- ==== Sys2Proof/Safety.lean ====
section
/-! DEFINITION. What counts as a safe run, and the terms in which claims about one step are made: what an instruction changes
of the strand that runs it, and what it leaves alone. -/

namespace Sys2Proof

/-- The canonical form of memory, which every step keeps. -/
def Machine.State.memoryOk (s : Machine.State) : Prop := Machine.Memory.wf s.dev.mem = true

/-- A run of k steps reaches a state (no fault, no refusal). -/
def Machine.State.runsTo (k : Nat) (s t : Machine.State) : Prop := core.run k s = .next t

/-- A run is safe for k steps. -/
def Machine.State.safeFor (k : Nat) (s : Machine.State) : Prop := ∃ t, Machine.State.runsTo k s t ∧ t.memoryOk

namespace Machine

/-- exec of the instruction in the state answers a next state, and P holds of it. -/
def Answers (i : Instr) (s : State) (P : State → Prop) : Prop := ∃ t, exec i s = .next t ∧ P t

/-- Every byte of memory reads as before. -/
def SameMemory (d e : Dev) : Prop := ∀ a, memRead e.mem a = memRead d.mem a

/-- Nothing of the machine outside the strand that runs differs: the other strands, the rest of every cluster, the rest of the
device, every byte of memory, the schedule. -/
def OthersSame (s t : State) : Prop :=
  t.turns = s.turns ∧ t.curC = s.curC ∧ t.curK = s.curK ∧
  (∀ c k, (c, k) ≠ (s.curC, s.curK) → t.dev.strand c k = s.dev.strand c k) ∧
  (∀ c, { t.dev.cl c with strands := (s.dev.cl c).strands } = s.dev.cl c) ∧
  { t.dev with clusters := s.dev.clusters } = s.dev ∧
  SameMemory s.dev t.dev

/-- Outside the strand that runs nothing differs but bytes of memory, their poison, presence bits, monitors, and which bytes other
clusters have written in the cycle (log 103). -/
def StorageOnly (s t : State) : Prop :=
  t.turns = s.turns ∧ t.curC = s.curC ∧ t.curK = s.curK ∧
  (∀ c k, (c, k) ≠ (s.curC, s.curK) → t.dev.strand c k = s.dev.strand c k) ∧
  (∀ c, { t.dev.cl c with strands := (s.dev.cl c).strands } = s.dev.cl c) ∧
  { t.dev with clusters := s.dev.clusters, mem := s.dev.mem, poison := s.dev.poison, full := s.dev.full,
               monitors := s.dev.monitors, remoteNow := s.dev.remoteNow } = s.dev

/-- Every byte of memory outside [a, a + n) reads as before. -/
def SameMemoryOutside (a n : Nat) (d e : Dev) : Prop := ∀ q, (q < a ∨ a + n ≤ q) → memRead e.mem q = memRead d.mem q

/-- The strand has completed its instruction, goes on at p and has v in register d (a write to g0 is discarded); no other
register, no flag and no trap register of it changes. -/
def StrandSets (d : GReg) (v p : Word) (s t : State) : Prop :=
  t.me.pc = p ∧ t.me.state = s.me.state.resume ∧
  t.g d = (if d = 0 then 0 else v) ∧ (∀ r, r ≠ d → t.g r = s.g r) ∧
  { t.me with g := s.me.g, pc := s.me.pc, state := s.me.state } = s.me

/-- The strand has completed its instruction and goes on at p; no register, flag or trap register of it changes. -/
def StrandAt (p : Word) (s t : State) : Prop :=
  t.me.pc = p ∧ t.me.state = s.me.state.resume ∧ (∀ r, t.g r = s.g r) ∧
  { t.me with pc := s.me.pc, state := s.me.state } = s.me

/-- The instruction is complete: it writes v to register d, execution goes on at p, and nothing else in the machine changes. -/
def WritesGTo (d : GReg) (v p : Word) (s t : State) : Prop := StrandSets d v p s t ∧ OthersSame s t

/-- The same for an instruction of n bytes that goes on to the next. -/
def WritesG (d : GReg) (v n : Word) (s t : State) : Prop := WritesGTo d v (s.me.pc + n) s t

/-- The instruction is complete and writes nothing: the program counter becomes p. -/
def GoesTo (p : Word) (s t : State) : Prop := StrandAt p s t ∧ OthersSame s t

/-- Every earlier access of a cluster's agents is performed (04 R129): nothing in the outbound buffer, no write to another device
unacknowledged. -/
def Quiet (d : Dev) (c : ClusterId) : Prop := (d.cl c).buffer = [] ∧ ∀ r ∈ (d.cl c).reqs, r.kind ≠ .store

/-- Trap entry as 09 R298 describes it, with TRAPPC = p; no general or f register and nothing outside the strand changes. -/
def Traps (cause : Cause) (sub : BitVec 8) (val p : Word) (s t : State) : Prop :=
  t.me.trapCause = cause.code ∧ t.me.trapSub = sub ∧ t.me.trapVal = val ∧ t.me.trapPc = p ∧
  t.me.ppriv = s.me.priv ∧ t.me.pie = s.me.ie ∧ t.me.priv = true ∧ t.me.ie = false ∧
  t.me.pc = BitVec.ofNat 64 (4 * s.me.trapVec.toNat) ∧ t.me.state = .trap ∧ t.me.atVector = true ∧
  (∀ r, t.g r = s.g r) ∧ t.me.f = s.me.f ∧ t.me.trapVec = s.me.trapVec ∧ t.me.tscratch = s.me.tscratch ∧
  t.me.asid = s.me.asid ∧ t.me.ptRoot = s.me.ptRoot ∧ t.me.ptEn = s.me.ptEn ∧ t.me.slfsr = s.me.slfsr ∧
  t.me.roundLen = s.me.roundLen ∧ t.me.dbl = s.me.dbl ∧ OthersSame s t

/-- The strand waits, its instruction not complete; no register changes. -/
def Waits (w : WaitFor) (s t : State) : Prop :=
  t.me = { s.me with state := s.me.state.waiting w } ∧ OthersSame s t

/-- The state with the device that an access of the strand left: its walks, its cached lines and its counters (01 R30, R45; 03
R91). -/
def State.after (s : State) (d : Dev) : State := { s with dev := d }

/-- The state after the bookkeeping of an acquire by the strand that runs (04 R130): no register and no byte of memory changes. -/
def State.acquired (s : State) : State := s.after (s.dev.acquire s.curC s.curK)

/-- No signal operation of the strand still waits (09 R319). -/
def NoSignals (d : Dev) (c : ClusterId) (k : StrandIx) : Prop := ∀ x ∈ (d.cl c).signals, x.k ≠ k

/-- Every earlier access of a strand is performed at a scope, as a release there needs (04 R129): its signal operations, what its last
release fence has put before its next write, and from DIE outward what its cluster's agents have written. -/
def Released (d : Dev) (c : ClusterId) (k : StrandIx) (scope : Nat) : Prop :=
  NoSignals d c k ∧ d.behindFence c k = false ∧ (2 ≤ scope → Quiet d c)

/-- The state as an attempt leaves it that is made again later: none of its reads has been counted (01 R45). -/
def State.uncounted (s : State) : State := s.after { s.dev with counts := [] }

/-- The instruction is not complete: the strand waits to attempt it again, under the apertures of its issue (01 R16). -/
def Retries (s t : State) : Prop := Waits (.retry (s.dev.strandAp s.curC s.curK)) s.uncounted t

/-- Nothing in the machine differs but one queue of a cluster. -/
def OnlyQueue (c : ClusterId) (q : QueueIx) (s t : State) : Prop := t = s.after (s.dev.modQ c q (fun _ => t.dev.queue c q))

/-- Nothing in the machine differs but one region of a cluster. -/
def OnlyRegion (c : ClusterId) (r : RegionIx) (s t : State) : Prop := t = s.after (s.dev.modRegion c r (fun _ => t.dev.region c r))

/-- Nothing in the machine differs but one partition's registers and state. -/
def OnlyPart (n : PartId) (s t : State) : Prop := t = s.after (s.dev.modPart n (fun _ => t.dev.part n))

/-- Nothing in the machine differs but one cluster. -/
def OnlyCluster (c : ClusterId) (s t : State) : Prop := t = s.after (s.dev.setCl c (t.dev.cl c))

/-- The context of the accesses of the strand that runs. -/
def State.ctx (s : State) : Ctx := s.dev.strandCtx s.curC s.curK

end Machine
end Sys2Proof
end

