-- ==== Sys2Proof/Certificates/Slice0/Obligations.lean ====
section
/-! DEFINITION. The statements for the provers. A statement of the form "Answers i s P" says that the instruction completes: exec answers a
next state, of which P holds. Where a clause rests on a choice of the model, its log entry is named. -/

open Sys2Proof Sys2Proof.Machine

/-! ### Integer instructions -/

/-- 09 R301: ADD, SUB, AND, OR, XOR, SLL, SRL, SRA, SLT and SLTU complete in every state: g[d] takes the value of the table
(wrapping modulo 2^64, shifts by y[5:0]), the program counter moves on by 4, and nothing else changes. -/
def Claim.OprArithmeticAndShifts : Prop :=
  ∀ (s : State) (d a b : GReg),
    let x := s.g a
    let y := s.g b
    Answers (.add d a b) s (WritesG d (BitVec.ofNat 64 (x.toNat + y.toNat)) 4 s) ∧
    Answers (.sub d a b) s (WritesG d (BitVec.ofInt 64 ((x.toNat : Int) - y.toNat)) 4 s) ∧
    Answers (.and d a b) s (WritesG d (BitVec.ofNat 64 (x.toNat &&& y.toNat)) 4 s) ∧
    Answers (.or d a b) s (WritesG d (BitVec.ofNat 64 (x.toNat ||| y.toNat)) 4 s) ∧
    Answers (.xor d a b) s (WritesG d (BitVec.ofNat 64 (x.toNat ^^^ y.toNat)) 4 s) ∧
    Answers (.sll d a b) s (WritesG d (BitVec.ofNat 64 (x.toNat * 2 ^ (y.toNat % 64))) 4 s) ∧
    Answers (.srl d a b) s (WritesG d (BitVec.ofNat 64 (x.toNat / 2 ^ (y.toNat % 64))) 4 s) ∧
    Answers (.sra d a b) s (WritesG d (BitVec.ofInt 64 (x.toInt / 2 ^ (y.toNat % 64))) 4 s) ∧
    Answers (.slt d a b) s (WritesG d (if x.toInt < y.toInt then 1 else 0) 4 s) ∧
    Answers (.sltu d a b) s (WritesG d (if x.toNat < y.toNat then 1 else 0) 4 s)

/-- 09 R301: MUL, MULH and MULHU write the two halves of the exact product; DIV and DIVU round toward zero, a zero divisor giving
all ones, and DIV of -2^63 by -1 gives -2^63; REM and REMU give x - y × quotient, a zero divisor giving x. -/
def Claim.OprMultiplyDivide : Prop :=
  ∀ (s : State) (d a b : GReg),
    let x := s.g a
    let y := s.g b
    Answers (.mul d a b) s (WritesG d (BitVec.ofInt 64 (x.toInt * y.toInt)) 4 s) ∧
    Answers (.mulh d a b) s (WritesG d (BitVec.ofInt 64 (x.toInt * y.toInt / 2 ^ 64)) 4 s) ∧
    Answers (.mulhu d a b) s (WritesG d (BitVec.ofNat 64 (x.toNat * y.toNat / 2 ^ 64)) 4 s) ∧
    Answers (.div d a b) s (WritesG d
      (if y = 0 then 0xFFFFFFFFFFFFFFFF
       else if x.toInt = -2 ^ 63 ∧ y.toInt = -1 then 0x8000000000000000 else BitVec.ofInt 64 (x.toInt.tdiv y.toInt)) 4 s) ∧
    Answers (.divu d a b) s (WritesG d (if y = 0 then 0xFFFFFFFFFFFFFFFF else BitVec.ofNat 64 (x.toNat / y.toNat)) 4 s) ∧
    Answers (.rem d a b) s (WritesG d
      (if y = 0 then x
       else if x.toInt = -2 ^ 63 ∧ y.toInt = -1 then 0 else BitVec.ofInt 64 (x.toInt - y.toInt * x.toInt.tdiv y.toInt)) 4 s) ∧
    Answers (.remu d a b) s (WritesG d (if y = 0 then x else BitVec.ofInt 64 ((x.toNat : Int) - y.toNat * (x.toNat / y.toNat))) 4 s)

/-- 09 R301: MIN, MAX, MINU and MAXU; CLZ, CTZ and POPC. CLZ and CTZ of 0 give 64; the number that CTZ gives is the exponent of the
largest power of two that divides x. -/
def Claim.OprMinMaxCount : Prop :=
  ∀ (s : State) (d a b : GReg),
    let x := s.g a
    let y := s.g b
    Answers (.min d a b) s (WritesG d (BitVec.ofInt 64 (Min.min x.toInt y.toInt)) 4 s) ∧
    Answers (.max d a b) s (WritesG d (BitVec.ofInt 64 (Max.max x.toInt y.toInt)) 4 s) ∧
    Answers (.minu d a b) s (WritesG d (BitVec.ofNat 64 (Min.min x.toNat y.toNat)) 4 s) ∧
    Answers (.maxu d a b) s (WritesG d (BitVec.ofNat 64 (Max.max x.toNat y.toNat)) 4 s) ∧
    Answers (.clz d a) s (fun t => ∃ n : Nat, WritesG d (BitVec.ofNat 64 n) 4 s t ∧ n ≤ 64 ∧ x.toNat < 2 ^ (64 - n) ∧
      (n < 64 → 2 ^ (63 - n) ≤ x.toNat)) ∧
    Answers (.ctz d a) s (fun t => ∃ n : Nat, WritesG d (BitVec.ofNat 64 n) 4 s t ∧ n ≤ 64 ∧ x.toNat % 2 ^ n = 0 ∧
      (n < 64 → x.toNat / 2 ^ n % 2 = 1)) ∧
    Answers (.popc d a) s (WritesG d (BitVec.ofNat 64 ((List.range 64).filter (fun i => x.getLsbD i)).length) 4 s)

/-- The results of the register forms of the integer instructions: the three statements above. -/
def Obligations.OprResults : Prop := Claim.OprArithmeticAndShifts ∧ Claim.OprMultiplyDivide ∧ Claim.OprMinMaxCount

/-- 07 R231, 09 R301: the immediate forms. ADDI, SLTI and SLTIU sign-extend imm16; ANDI, ORI and XORI zero-extend it; LIH adds it
sign-extended times 2^16; the shifts take imm16[5:0]. -/
def Claim.ImmediateForms : Prop :=
  ∀ (s : State) (d a : GReg) (i : BitVec 16) (sh : BitVec 6),
    let x := s.g a
    Answers (.addi d a i) s (WritesG d (BitVec.ofInt 64 (x.toInt + i.toInt)) 4 s) ∧
    Answers (.andi d a i) s (WritesG d (BitVec.ofNat 64 (x.toNat &&& i.toNat)) 4 s) ∧
    Answers (.ori d a i) s (WritesG d (BitVec.ofNat 64 (x.toNat ||| i.toNat)) 4 s) ∧
    Answers (.xori d a i) s (WritesG d (BitVec.ofNat 64 (x.toNat ^^^ i.toNat)) 4 s) ∧
    Answers (.slti d a i) s (WritesG d (if x.toInt < i.toInt then 1 else 0) 4 s) ∧
    Answers (.sltiu d a i) s (WritesG d (if x.toNat < (i.signExtend 64).toNat then 1 else 0) 4 s) ∧
    Answers (.slli d a sh) s (WritesG d (BitVec.ofNat 64 (x.toNat * 2 ^ sh.toNat)) 4 s) ∧
    Answers (.srli d a sh) s (WritesG d (BitVec.ofNat 64 (x.toNat / 2 ^ sh.toNat)) 4 s) ∧
    Answers (.srai d a sh) s (WritesG d (BitVec.ofInt 64 (x.toInt / 2 ^ sh.toNat)) 4 s) ∧
    Answers (.lih d a i) s (WritesG d (BitVec.ofInt 64 (x.toInt + i.toInt * 2 ^ 16)) 4 s)

/-- 07 R236, 09 R302: LI64 with H = 0 writes SExt(imm32, 64); with H = 1 it writes imm32 to g[d][63:32] and leaves g[d][31:0]
unchanged. The pair advances the program counter by 8. -/
def Claim.Li64Halves : Prop :=
  ∀ (s : State) (d : GReg) (i : BitVec 32),
    Answers (.li64 d false i) s (WritesG d (BitVec.ofInt 64 i.toInt) 8 s) ∧
    Answers (.li64 d true i) s (fun t => WritesG d (t.g d) 8 s t ∧
      (d ≠ 0 → (t.g d).toNat / 2 ^ 32 = i.toNat ∧ (t.g d).toNat % 2 ^ 32 = (s.g d).toNat % 2 ^ 32))

/-- The results of the immediate forms, and of LI64: the two statements above. -/
def Obligations.ImmediateForms : Prop := Claim.ImmediateForms ∧ Claim.Li64Halves

/-! ### Branches, jumps and traps -/

/-- 09 R308, 07 R231: the six branches compare g[a] with g[b] and go to their own address + 4 × SExt(off16) when the condition
holds, else to the next word; nothing but the program counter changes. -/
def Claim.Branches : Prop :=
  ∀ (s : State) (a b : GReg) (o : BitVec 16),
    let x := s.g a
    let y := s.g b
    let p := fun (cond : Prop) [Decidable cond] => if cond then s.me.pc + BitVec.ofInt 64 (4 * o.toInt) else s.me.pc + 4
    Answers (.beq a b o) s (GoesTo (p (x.toNat = y.toNat)) s) ∧
    Answers (.bne a b o) s (GoesTo (p (x.toNat ≠ y.toNat)) s) ∧
    Answers (.blt a b o) s (GoesTo (p (x.toInt < y.toInt)) s) ∧
    Answers (.bge a b o) s (GoesTo (p (y.toInt ≤ x.toInt)) s) ∧
    Answers (.bltu a b o) s (GoesTo (p (x.toNat < y.toNat)) s) ∧
    Answers (.bgeu a b o) s (GoesTo (p (y.toNat ≤ x.toNat)) s)

/-- 09 R308: JAL writes its own address + 4 to g31 and jumps to its own address + 4 × SExt(off26). JALR takes its target from the
value of g[a] before g[d] is written, and then writes its own address + 4 to g[d]; a target that is no multiple of 4 traps with
MISALIGNED at the JALR, TRAPVAL holding the target and g[d] unchanged. 0x5C40_FFFE is bne g2, g0, .-8. -/
def Claim.Jumps : Prop :=
  ∀ (s : State) (d a : GReg) (i : BitVec 16) (o : BitVec 26),
    let target := s.g a + BitVec.ofInt 64 i.toInt
    Answers (.jal o) s (WritesGTo 31 (s.me.pc + 4) (s.me.pc + BitVec.ofInt 64 (4 * o.toInt)) s) ∧
    (target.toNat % 4 = 0 → Answers (.jalr d a i) s (WritesGTo d (s.me.pc + 4) target s)) ∧
    (target.toNat % 4 ≠ 0 → Answers (.jalr d a i) s (Traps .misaligned 0 target s.me.pc s)) ∧
    decode 0x5C40FFFE 0 = .ok (.bne 2 0 (BitVec.ofInt 16 (-2)))

/-- Where branches and jumps go: the two statements above. -/
def Obligations.BranchesAndJumps : Prop := Claim.Branches ∧ Claim.Jumps

/-- 09 R300: TRAP and BRK, whose words have n in [7:0], 2 or 3 in [10:8] and zeros in their d, a and b fields, trap with SYSCALL (0x10) and
BREAK (0x11), TRAPVAL = n (and TRAPPC the next instruction). -/
def Obligations.SoftwareTraps : Prop :=
  ∀ (s : State) (n : BitVec 8),
    (∀ w < 2 ^ 32, decode w 0 = .ok (.trap n) ↔ w = 0x78000200 + n.toNat) ∧
    (∀ w < 2 ^ 32, decode w 0 = .ok (.brk n) ↔ w = 0x78000300 + n.toNat) ∧
    Answers (.trap n) s (fun t => Traps .syscall 0 (BitVec.ofNat 64 n.toNat) (s.me.pc + 4) s t ∧ t.me.trapCause = 0x10) ∧
    Answers (.brk n) s (fun t => Traps .break_ 0 (BitVec.ofNat 64 n.toNat) (s.me.pc + 4) s t ∧ t.me.trapCause = 0x11)

/-- 09 R298, R293: RTE at supervisor privilege returns to TRAPPC, PRIV taking PPRIV and IE taking PIE, and changes no register and
nothing outside the strand; at user privilege it traps with PROTECTION, TRAPVAL its word. -/
def Claim.ReturnFromTrap : Prop :=
  ∀ (s : State),
    (s.me.priv = true → Answers .rte s (fun t =>
      t.me.pc = s.me.trapPc ∧ t.me.priv = s.me.ppriv ∧ t.me.ie = s.me.pie ∧ t.me.state = .run ∧
      { t.me with pc := s.me.pc, priv := s.me.priv, ie := s.me.ie, state := s.me.state } = s.me ∧ OthersSame s t)) ∧
    (s.me.priv = false → Answers .rte s (Traps .protection 0 0x78000400 s.me.pc s))

/-- 09 R298: a handler entered by a synchronous trap and left by RTE comes back to the trapped instruction with the privilege and
the interrupt enable that the strand had, every register as it was. -/
def Claim.TrapThenReturn : Prop :=
  ∀ (s : State) (w : W32), Answers (.illegalInstruction w) s (fun t =>
    Traps .illegal 0 (BitVec.ofNat 64 w.toNat) s.me.pc s t ∧
    Answers .rte t (fun u => u.me.pc = s.me.pc ∧ u.me.priv = s.me.priv ∧ u.me.ie = s.me.ie ∧ (∀ r, u.g r = s.g r) ∧
      u.me.f = s.me.f ∧ OthersSame s u))

/-- RTE, and a trap followed by it: the two statements above. -/
def Obligations.ReturnFromTrap : Prop := Claim.ReturnFromTrap ∧ Claim.TrapThenReturn

/-- 09 R296: SRD of an assigned register that the privilege admits writes it to g[d] and changes nothing else, but for POISONCNT,
whose count a read clears.
Choices of the model: log 26. -/
def Claim.SystemRegisterRead : Prop :=
  ∀ (s : State) (d : GReg) (r : BitVec 8) (x : SysReg), sysRegOf r.toNat = some x → (s.me.priv = true ∨ x.user = true) →
    (x ≠ .poisoncnt → Answers (.srd d 0 r) s (WritesG d (s.dev.sysRead s.curC s.curK x) 4 s)) ∧
    (x = .poisoncnt → Answers (.srd d 0 r) s (fun t => (t.dev.cl s.curC).poisonCount = 0 ∧
      WritesG d (s.dev.sysRead s.curC s.curK x) 4 (s.after (s.dev.modCl s.curC (fun cl => { cl with poisonCount := 0 }))) t))

/-- 09 R296, 14 R425: SRD and SWR of an unassigned number trap with ILLEGAL, TRAPVAL the instruction's word; of a supervisor
register at user privilege with PROTECTION, TRAPVAL the register's number. -/
def Claim.SystemRegisterTraps : Prop :=
  ∀ (s : State) (d : GReg) (n : BitVec 5) (r : BitVec 8),
    let num := 256 * n.toNat + r.toNat
    (sysRegOf num = none →
      Answers (.srd d n r) s (Traps .illegal 0 (BitVec.ofNat 64 (0x78000000 + d.val * 2 ^ 21 + n.toNat * 2 ^ 11 + r.toNat)) s.me.pc s) ∧
      Answers (.swr d n r) s (Traps .illegal 0 (BitVec.ofNat 64 (0x78000100 + d.val * 2 ^ 16 + n.toNat * 2 ^ 11 + r.toNat)) s.me.pc s)) ∧
    (∀ x, sysRegOf num = some x → s.me.priv = false → x.user = false →
      Answers (.srd d n r) s (Traps .protection 0 (BitVec.ofNat 64 num) s.me.pc s) ∧
      Answers (.swr d n r) s (Traps .protection 0 (BitVec.ofNat 64 num) s.me.pc s))

/-- 09 R296 with the layouts of 09 R293, R295, R297, R318, R320; 01 R15, R25; 04 R143; 06 R202, R206, R207, R217; 13 R422; 17 R490:
what SWR leaves in each register, as its fields then read. No general or f register, no other strand and no byte of memory
changes, PRIV stays, and the program counter moves on by 4. -/
def Claim.SystemRegisterWrite : Prop :=
  ∀ (s : State) (a : GReg) (r : BitVec 8) (x : SysReg), sysRegOf r.toNat = some x → (s.me.priv = true ∨ x.user = true) →
    let v := (s.g a).toNat
    let old := s.dev.cl s.curC
    Answers (.swr a 0 r) s (fun t =>
      let rd := (t.dev.sysRead s.curC s.curK x).toNat
      t.me.pc = s.me.pc + 4 ∧ (∀ q, t.g q = s.g q) ∧ t.me.f = s.me.f ∧ t.me.priv = s.me.priv ∧
      (∀ c k, (c, k) ≠ (s.curC, s.curK) → t.dev.strand c k = s.dev.strand c k) ∧
      (∀ c, c ≠ s.curC → t.dev.cl c = s.dev.cl c) ∧ { t.dev with clusters := s.dev.clusters } = s.dev ∧
      SameMemory s.dev t.dev ∧
      (match x with
        | .status => t.me.pie = (s.g a).getLsbD 4 ∧ t.me.ppriv = (s.g a).getLsbD 3 ∧ t.me.ie = (s.g a).getLsbD 1 ∧
            t.me.dbl = (s.me.dbl && !(s.g a).getLsbD 5)
        | .trappc | .trapval | .tscratch => rd = v
        | .trapvec => rd = v / 4 * 4
        | .trapcause | .asid => rd = v % 2 ^ 16
        | .strandid | .cycle => rd = (s.dev.sysRead s.curC s.curK x).toNat
        | .ptroot => rd = v / 2 ^ 12 % 2 ^ 40 * 2 ^ 12 + v % 2
        | .fpmode => ∀ i < 8, rd / 256 ^ i % 256 = fldB (bit (v / 256 ^ i) 3) 3 +
            (if v / 256 ^ i % 8 < 6 then v / 256 ^ i % 8 else old.fpMode.toNat / 256 ^ i % 8)
        | .fpflags => (t.dev.cl s.curC).fpFlags = old.fpFlags &&& ~~~(s.g a)
        | .fptrapen => ∀ i < 8, rd / 256 ^ i % 256 = v / 256 ^ i % 32
        | .slfsr => rd = if v % 2 ^ 32 = 0 then s.me.slfsr.toNat else v % 2 ^ 32
        | .roundlen => rd = v % 2 ^ 17
        | .quantum => rd = v % 2 ^ 20
        | .prio => ∀ k : RegionIx, (vget (t.dev.cl s.curC).fab.regions k).pin = (s.g a).getLsbD (8 * k.val + 4)
        | .deferwd => rd = v % 2 ^ 32
        | .poisoncnt => rd = v / 2 ^ 63 * 2 ^ 63 + old.poisonCount.toNat
        | .spillbase => rd = if old.spillUsed = 0 then v / 64 % 2 ^ 46 * 64 else old.spillBase.toNat * 64
        | .spillsize => (t.dev.cl s.curC).spillEntries.toNat = (if old.spillUsed = 0 then v % 2 ^ 20 else old.spillEntries.toNat) ∧
            (t.dev.cl s.curC).spillTrapEn = (if old.spillUsed = 0 then (s.g a).getLsbD 63 else old.spillTrapEn)
        | .snapctl => rd = v / 2 ^ 62 * 2 ^ 62 + v % 2 ^ 48
        | .apbase _ => rd = v / 2 ^ 24 * 2 ^ 24
        | .aplimit _ => rd = v / 2 ^ 24 * 2 ^ 24 + 0xFFFFFF))

/-- SRD, SRD and SWR that trap, and SWR: the three statements above. -/
def Obligations.SystemRegisterAccess : Prop := Claim.SystemRegisterRead ∧ Claim.SystemRegisterTraps ∧ Claim.SystemRegisterWrite

/-! ### Memory instructions -/

/-- 09 R303, R304: a load of an aligned word whose address decodes to scratchpad (LOCAL or CLUSTER), in a bank that admits the
strand and in an atom that is not poisoned, no signal operation of the strand waiting on the word, writes the n bytes there, least
significant first, to g[d], sign-extended by LDB, LDH and LDW and zero-extended by the others, and changes nothing else in the machine, but
that LDA acquires. -/
def Obligations.ScratchpadLoads : Prop :=
  ∀ (s : State) (d a : GReg) (i : BitVec 16) (sc : BitVec 3) (h : ClusterId) (o : Nat),
    let at_ := s.g a + BitVec.ofInt 64 i.toInt
    ∀ f ∈ [(Instr.ldb d a i, at_, 1, true, s), (.ldbu d a i, at_, 1, false, s), (.ldh d a i, at_, 2, true, s), (.ldhu d a i, at_, 2, false, s),
      (.ldw d a i, at_, 4, true, s), (.ldwu d a i, at_, 4, false, s), (.ldd d a i, at_, 8, false, s),
      (.lda d a sc false, s.g a, 4, false, s.acquired), (.lda d a sc true, s.g a, 8, false, s.acquired)],
    let ga := f.2.1
    let n := f.2.2.1
    ga.toNat % n = 0 → resolve s.ctx ga .read s.dev = (.ok (.scratch h o), s.dev) → s.dev.signalWaits s.ctx (.scratch h o) = false →
    s.dev.bankCheck (s.dev.partOf h) h o = none → smem s.dev.poison (s.dev.scratchKeyOf h o / 64) = false →
    let v := leNat (memReadN s.dev.mem (s.dev.scratchKeyOf h o) n)
    Answers f.1 s (WritesG d (if f.2.2.2.1 then BitVec.ofInt 64 (BitVec.ofNat (8 * n) v).toInt else BitVec.ofNat 64 v) 4 f.2.2.2.2)

/-- 09 R303, R304, 01 R30: a load whose address is translated (GLOBAL, ROW) writes the bytes that the home and the cluster's buffered
writes hold; what it leaves is the device after its walk and its read.
Choices of the model: log 10, 29. -/
def Obligations.TranslatedLoads : Prop :=
  ∀ (s : State) (d a : GReg) (i : BitVec 16) (sc : BitVec 3) (p : PartId) (pa cache : Nat) (enc : Bool) (d1 d2 : Dev) (bs : List Byte),
    let at_ := s.g a + BitVec.ofInt 64 i.toInt
    ∀ f ∈ [(Instr.ldb d a i, at_, 1, true, false), (.ldbu d a i, at_, 1, false, false), (.ldh d a i, at_, 2, true, false),
      (.ldhu d a i, at_, 2, false, false), (.ldw d a i, at_, 4, true, false), (.ldwu d a i, at_, 4, false, false), (.ldd d a i, at_, 8, false, false),
      (.lda d a sc false, s.g a, 4, false, true), (.lda d a sc true, s.g a, 8, false, true)],
    let ga := f.2.1
    let n := f.2.2.1
    ga.toNat % n = 0 → resolve s.ctx ga .read s.dev = (.ok (.phys p pa cache enc), d1) →
    readT s.ctx ga (.phys p pa cache enc) n false d1 = (.ok (bs, false), d2) →
    let v := leNat bs % 2 ^ (8 * n)
    Answers f.1 s (WritesG d (if f.2.2.2.1 then BitVec.ofInt 64 (BitVec.ofNat (8 * n) v).toInt else BitVec.ofNat 64 v) 4
      (if f.2.2.2.2 then (s.after d2).acquired else s.after d2))

/-- 04 R121, R123: translating an address, and then reading what it names here (memory, scratchpad), leaves every cluster as it was, all four
strands and the outbound buffer in it. -/
def Obligations.AccessesLeaveClusters : Prop :=
  ∀ (x : Ctx) (ga : Word) (kind : AccKind) (n : Nat) (d : Dev) (t : Target),
    (resolve x ga kind d).2.clusters = d.clusters ∧
    ((∀ m off, t ≠ .peer m off) → (readT x ga t n false d).2.clusters = d.clusters)

/-- What the releases of an instruction leave before its own write (04 R129): STL releases at its SCOPE, a plain store does not. -/
def releasesBefore (f : Instr) (c : ClusterId) (k : StrandIx) (d e : Dev) : Prop :=
  match f with
  | .stl _ _ sc _ => releaseBy c k sc.toNat d = (.ok (), e)
  | _ => e = d

/-- 09 R303, R304: a store of an aligned word whose address decodes to scratchpad, in a bank that admits the strand, stores bytes
[8n-1:0] of the register there, least significant first, and no byte of memory outside those n changes (but for the earlier writes
that the release of STL performs first). A byte of the own cluster that another cluster or the outside has written in the cycle keeps that
value (02 R64; log 103); a store to another cluster marks its bytes so. -/
def Obligations.ScratchpadStores : Prop :=
  ∀ (s : State) (a b : GReg) (i : BitVec 16) (sc : BitVec 3) (h : ClusterId) (o : Nat) (d1 : Dev),
    let at_ := s.g a + BitVec.ofInt 64 i.toInt
    ∀ f ∈ [(Instr.stb a b i, at_, 1), (.sth a b i, at_, 2), (.stw a b i, at_, 4), (.std a b i, at_, 8),
      (.stl a b sc false, s.g a, 4), (.stl a b sc true, s.g a, 8)],
    let ga := f.2.1
    let n := f.2.2
    ga.toNat % n = 0 → resolve s.ctx ga .write s.dev = (.ok (.scratch h o), s.dev) →
    s.dev.bankCheck (s.dev.partOf h) h o = none → releasesBefore f.1 s.curC s.curK s.dev d1 → d1.behindFence s.curC s.curK = false →
    d1.signalWaits s.ctx (.scratch h o) = false →
    d1.bankCheck (d1.partOf h) h o = none → Memory.wf d1.mem = true →
    let key := d1.scratchKeyOf h o
    Answers f.1 s (fun t => StrandAt (s.me.pc + 4) (s.after d1) t ∧ StorageOnly (s.after d1) t ∧ t.dev.full = d1.full ∧
      (∀ j < n, memRead t.dev.mem (key + j) =
        if h = s.curC ∧ key + j ∈ d1.remoteNow then memRead d1.mem (key + j) else BitVec.ofNat 8 ((s.g b).toNat / 256 ^ j)) ∧
      t.dev.remoteNow = d1.remoteNow ++ (if h = s.curC then [] else (List.range n).map (fun j => key + j)) ∧ SameMemoryOutside key n d1 t.dev)

/-- 04 R123: a store whose address is translated enters the cluster's outbound buffer, after the writes already in it: its bytes at
the physical address, in the order of R4. No byte of memory changes until it leaves. -/
def Obligations.TranslatedStores : Prop :=
  ∀ (s : State) (a b : GReg) (i : BitVec 16) (sc : BitVec 3) (p : PartId) (pa cache : Nat) (enc : Bool) (d1 d2 : Dev),
    let at_ := s.g a + BitVec.ofInt 64 i.toInt
    ∀ f ∈ [(Instr.stb a b i, at_, 1), (.sth a b i, at_, 2), (.stw a b i, at_, 4), (.std a b i, at_, 8),
      (.stl a b sc false, s.g a, 4), (.stl a b sc true, s.g a, 8)],
    let ga := f.2.1
    let n := f.2.2
    ga.toNat % n = 0 → resolve s.ctx ga .write s.dev = (.ok (.phys p pa cache enc), d1) → releasesBefore f.1 s.curC s.curK d1 d2 →
    d2.behindFence s.curC s.curK = false → d2.signalWaits s.ctx (.phys p pa cache enc) = false →
    Answers f.1 s (fun t => t.me.pc = (s.after d2).me.pc + 4 ∧ (∀ r, t.g r = (s.after d2).g r) ∧ SameMemory d2 t.dev ∧
      (∃ w : Pending, w.dest = .phys p (BitVec.ofNat 2 cache) enc ∧ w.poison = false ∧ w.who = .strand s.curK ∧ w.addr = ga ∧
        w.va = s.ctx.countVa ga ∧ w.tag = (d2.cl s.curC).nextTag ∧
        w.cells.map (fun e => (e.1 - pa, e.2)) = (List.range n).zip (leBytes n (s.g b).toNat) ∧ (∀ e ∈ w.cells, pa ≤ e.1) ∧
        (t.dev.cl s.curC).buffer = (d2.cl s.curC).buffer ++ [w]) ∧
      (∀ c, c ≠ s.curC → t.dev.cl c = d2.cl c) ∧ { t.dev with clusters := d2.clusters } = d2)

/-- 04 R124, R129, R131, R135: a release at STRAND or CLUSTER scope needs nothing to leave the cluster; at DIE or DEVICE scope every buffered
write of the cluster is performed; at DOMAIN or SYSTEM scope it waits besides while a write to another device is unacknowledged: one of the
cluster for a release of a unit, and for one of a strand one that is the strand's own or was made before its last acquire (R130). A
strand's release waits, with no effect, while a signal operation of the strand waits. A release fence of a strand waits for no write of another
agent: those made before the strand's last acquire come before its next write instead.
Choices of the model: log 13. -/
def Obligations.ReleaseDrainsBuffer : Prop :=
  ∀ (d : Dev) (c : ClusterId) (k : StrandIx) (sc : Nat),
    let e := d.drain c
    (sc < 2 → release c sc d = (.ok (), d)) ∧
    (2 ≤ sc → ((release c sc d).2.cl c).buffer = [] ∧ (release c sc d).2 = d.drain c) ∧
    (2 ≤ sc → sc < 4 → (release c sc d).1 = .ok ()) ∧
    (4 ≤ sc → ((release c sc d).1 = .ok () ↔ ∀ r ∈ (e.cl c).reqs, r.kind = .store → r.reply ≠ none)) ∧
    ((¬NoSignals d c k ∨ d.behindFence c k = true) → releaseBy c k sc d = (.error .wait, d)) ∧
    (NoSignals d c k → d.behindFence c k = false →
      (sc < 2 → releaseBy c k sc d = (.ok (), d)) ∧
      (2 ≤ sc → ((releaseBy c k sc d).2.cl c).buffer = [] ∧ (releaseBy c k sc d).2 = e) ∧
      (2 ≤ sc → sc < 4 → (releaseBy c k sc d).1 = .ok ()) ∧
      (4 ≤ sc → ((releaseBy c k sc d).1 = .ok () ↔ ∀ r ∈ (e.cl c).reqs, r.kind = .store → r.reply = none →
        r.who ≠ .strand k ∧ (e.strand c k).acqTag ≤ r.tag))) ∧
    (¬NoSignals d c k → fenceBy c k sc d = (.error .wait, d)) ∧
    (NoSignals d c k →
      (sc < 2 → fenceBy c k sc d = (.ok (), d)) ∧
      (2 ≤ sc → sc < 4 → fenceBy c k sc d = (.ok (), e)) ∧
      (4 ≤ sc → (∃ r ∈ (e.cl c).reqs, r.kind = .store ∧ r.reply = none ∧ r.who = .strand k) → fenceBy c k sc d = (.error .wait, e)) ∧
      (4 ≤ sc → (∀ r ∈ (e.cl c).reqs, r.kind = .store → r.reply = none → r.who ≠ .strand k) →
        fenceBy c k sc d = (.ok (), e.modStrand c k (fun st => { st with relTag := st.acqTag })))) ∧
    pastFence c k d = (if d.behindFence c k then .error .wait else .ok (), d) ∧
    (d.behindFence c k = true ↔ ∃ r ∈ (d.cl c).reqs, r.kind = .store ∧ r.reply = none ∧ r.tag < (d.strand c k).relTag)

/-- The checks that every access of a strand meets before it acts (01 R18, R32, 02 R66, R72), for an instruction whose address is
translated as `kind`: an address that no window holds, APERTURE; a space check, PROTECTION; a walk, the cause of 01 R32 with its code in
SUB; a scratchpad bank that is BUSY, BANK_MOVED, or of another owner, PROTECTION. -/
def trapsAsAccess (i : Instr) (s : State) (ga : Word) (kind : AccKind) (d1 : Dev) : Prop :=
  (resolve s.ctx ga kind s.dev = (.error .aperture, d1) → Answers i s (Traps .aperture 0 ga s.me.pc (s.after d1))) ∧
  (resolve s.ctx ga kind s.dev = (.error .protection, d1) → Answers i s (Traps .protection 0 ga s.me.pc (s.after d1))) ∧
  (∀ code l, resolve s.ctx ga kind s.dev = (.error (.walk code l), d1) → Answers i s
    (Traps (if code ≤ 3 then .pageFault else if code = 10 then .poison else .protection) (BitVec.ofNat 8 code) ga s.me.pc (s.after d1))) ∧
  (∀ h o, resolve s.ctx ga kind s.dev = (.ok (.scratch h o), d1) → d1.signalWaits s.ctx (.scratch h o) = false →
    ∀ e ∈ [(XFault.bankMoved, Cause.bankMoved), (.protection, .protection)], d1.bankCheck (d1.partOf h) h o = some e.1 →
    Answers i s (Traps e.2 0 ga s.me.pc (s.after d1)))

/-- 09 R303 to R306, 04 R138, 14 R425: the checks of a load, a store, an atomic or a presence operation, in their order, each trapping with the
instruction unperformed and TRAPVAL the generic address: an address that is no multiple of n, MISALIGNED; those of trapsAsAccess; for a load
or a store an MMIO address with n other than 8, MISALIGNED, and for an atomic any MMIO address, APERTURE; a load or an atomic in a memory-node
window, APERTURE, a store there MISALIGNED, or APERTURE where the node is not configured; a load or an atomic of a poisoned scratchpad line,
POISON; a presence operation outside LOCAL and CLUSTER, or in a node window, APERTURE. -/
def Claim.AccessTraps : Prop :=
  ∀ (s : State) (d a b : GReg) (i : BitVec 16) (sc : BitVec 3) (o2 : BitVec 2) (wd : Bool) (d1 : Dev),
    let g0 := s.g a + BitVec.ofInt 64 i.toInt
    let ga := s.g a
    (∀ f ∈ [(Instr.ldb d a i, g0, 1, AccKind.read), (.ldbu d a i, g0, 1, .read), (.ldh d a i, g0, 2, .read), (.ldhu d a i, g0, 2, .read),
      (.ldw d a i, g0, 4, .read), (.ldwu d a i, g0, 4, .read), (.ldd d a i, g0, 8, .read), (.lda d a sc false, ga, 4, .read),
      (.lda d a sc true, ga, 8, .read), (.stb a b i, g0, 1, .write), (.sth a b i, g0, 2, .write), (.stw a b i, g0, 4, .write),
      (.std a b i, g0, 8, .write), (.stl a b sc false, ga, 4, .write), (.stl a b sc true, ga, 8, .write)],
    let ga := f.2.1
    let n := f.2.2.1
    let kind := f.2.2.2
    (ga.toNat % n ≠ 0 → Answers f.1 s (Traps .misaligned 0 ga s.me.pc s)) ∧
    (ga.toNat % n = 0 →
      trapsAsAccess f.1 s ga kind d1 ∧
      (∀ off, resolve s.ctx ga kind s.dev = (.ok (.mmio off), d1) → n ≠ 8 →
        Answers f.1 s (Traps .misaligned 0 ga s.me.pc (s.after d1))) ∧
      (∀ h m off, resolve s.ctx ga kind s.dev = (.ok (.node h m off), d1) → kind = .read →
        Answers f.1 s (Traps .aperture 0 ga s.me.pc (s.after d1))) ∧
      (∀ h m off, resolve s.ctx ga kind s.dev = (.ok (.node h m off), d1) → kind = .write →
        Answers f.1 s (Traps (if (vgetD (d1.cl h).memNodes m MemNode.reset).nb = 0 then .aperture else .misaligned) 0 ga s.me.pc
          (s.after d1))) ∧
      (∀ h o, resolve s.ctx ga kind s.dev = (.ok (.scratch h o), d1) → kind = .read → d1.signalWaits s.ctx (.scratch h o) = false →
        d1.bankCheck (d1.partOf h) h o = none →
        smem d1.poison (d1.scratchKeyOf h o / 64) = true → Answers f.1 s (Traps .poison 0 ga s.me.pc (s.after d1))))) ∧
    (∀ f ∈ [Instr.amoAdd d a b sc o2 wd, .amoAnd d a b sc o2 wd, .amoOr d a b sc o2 wd, .amoXor d a b sc o2 wd, .amoMin d a b sc o2 wd,
      .amoMax d a b sc o2 wd, .amoMinu d a b sc o2 wd, .amoMaxu d a b sc o2 wd, .amoSwap d a b sc o2 wd, .cas d a b sc o2 wd],
    (ga.toNat % (if wd then 8 else 4) ≠ 0 → Answers f s (Traps .misaligned 0 ga s.me.pc s)) ∧
    (ga.toNat % (if wd then 8 else 4) = 0 →
      trapsAsAccess f s ga .write d1 ∧
      (∀ off, resolve s.ctx ga .write s.dev = (.ok (.mmio off), d1) → Answers f s (Traps .aperture 0 ga s.me.pc (s.after d1))) ∧
      (∀ h m off, resolve s.ctx ga .write s.dev = (.ok (.node h m off), d1) → Answers f s (Traps .aperture 0 ga s.me.pc (s.after d1))) ∧
      (∀ h o, resolve s.ctx ga .write s.dev = (.ok (.scratch h o), d1) → d1.signalWaits s.ctx (.scratch h o) = false →
        d1.bankCheck (d1.partOf h) h o = none →
        smem d1.poison (d1.scratchKeyOf h o / 64) = true → Answers f s (Traps .poison 0 ga s.me.pc (s.after d1))))) ∧
    (∀ f ∈ [Instr.put a b sc, .take d a sc, .rdf d a sc, .clrp a, .prb d a],
    (ga.toNat % 8 ≠ 0 → Answers f s (Traps .misaligned 0 ga s.me.pc s)) ∧
    (ga.toNat % 8 = 0 →
      ((∀ off, s.ctx.ap.decode ga.toNat ≠ some (1, off) ∧ s.ctx.ap.decode ga.toNat ≠ some (2, off)) →
        Answers f s (Traps .aperture 0 ga s.me.pc s)) ∧
      (∀ off, (s.ctx.ap.decode ga.toNat = some (1, off) ∨ s.ctx.ap.decode ga.toNat = some (2, off)) →
        trapsAsAccess f s ga .read d1 ∧
        (∀ h m o, resolve s.ctx ga .read s.dev = (.ok (.node h m o), d1) → Answers f s (Traps .aperture 0 ga s.me.pc (s.after d1))))))

/-- 01 R18, 09 R303, R299: an access to PEER that the target refuses completes: a load and an AMO write zero to their destination, a
store writes nothing; a report of PROTECTION with SUB 0xFF and TRAPVAL the address then stands for the strand.
Choices of the model: log 24, 25. -/
def Claim.RefusedPeerAccesses : Prop :=
  ∀ (s : State) (d a b : GReg) (i : BitVec 16) (d1 : Dev),
    let ga := s.g a + BitVec.ofInt 64 i.toInt
    let r : Report := ⟨.peer s.curC s.curK, s.curC, s.curK, .protection, 0xFF, ga⟩
    (ga.toNat % 8 = 0 → resolve s.ctx ga .read s.dev = (.error .refused, d1) →
      Answers (.ldd d a i) s (fun t => StrandSets d 0 (s.me.pc + 4) (s.after d1) t ∧ r ∈ t.dev.reports ∧ SameMemory d1 t.dev)) ∧
    (ga.toNat % 8 = 0 → resolve s.ctx ga .write s.dev = (.error .refused, d1) → d1.behindFence s.curC s.curK = false →
      Answers (.std a b i) s (fun t => StrandAt (s.me.pc + 4) (s.after d1) t ∧ r ∈ t.dev.reports ∧ SameMemory d1 t.dev)) ∧
    (i = 0 → ga.toNat % 8 = 0 → resolve s.ctx ga .write s.dev = (.error .refused, d1) →
      Answers (.amoAdd d a b 0 0 true) s (fun t => StrandSets d 0 (s.me.pc + 4) (s.after d1) t ∧ r ∈ t.dev.reports ∧ SameMemory d1 t.dev))

/-- 04 R137: an aligned access of eight bytes to a register that the strand may reach: a load writes what the register reads as, and
leaves what that read leaves, and LDA acquires besides; a store performs the write of the register, here of one that rings no interrupt. -/
def Claim.RegisterAccesses : Prop :=
  ∀ (s : State) (d a b : GReg) (i : BitVec 16) (off : Nat),
    let ga := s.g a + BitVec.ofInt 64 i.toInt
    ga.toNat % 8 = 0 →
    (resolve s.ctx ga .read s.dev = (.ok (.mmio off), s.dev) →
      Answers (.ldd d a i) s (fun t => ∃ v e, s.dev.regRead off = (v, e) ∧ StrandSets d v ((s.after e).me.pc + 4) (s.after e) t ∧
        t.turns = s.turns) ∧
      (i = 0 → ∀ sc, Answers (.lda d a sc true) s (fun t => ∃ v e, s.dev.regRead off = (v, e) ∧
        StrandSets d v ((s.after e).me.pc + 4) (s.after e).acquired t ∧ t.turns = s.turns))) ∧
    (resolve s.ctx ga .write s.dev = (.ok (.mmio off), s.dev) → off % 0x10000 ≠ 0x4028 → s.dev.behindFence s.curC s.curK = false →
      Answers (.std a b i) s (fun t => t = (s.after (s.dev.regWrite off (s.g b))).modMe (fun st => st.advance 4)))

/-- Accesses to other devices that are refused, and to registers: the two statements above. -/
def Obligations.PeerAndRegisterAccesses : Prop := Claim.RefusedPeerAccesses ∧ Claim.RegisterAccesses

/-! ### Atomics, presence words and barriers -/

/-- The value that an AMO stores (09 R305), in the arithmetic of the rule. -/
def amoRule (op : AmoOp) (n old v : Nat) : Nat :=
  let x := (BitVec.ofNat (8 * n) old).toInt
  let y := (BitVec.ofNat (8 * n) v).toInt
  match op with
  | .add => (old + v) % 2 ^ (8 * n)
  | .and => old &&& v
  | .or => old ||| v
  | .xor => old ^^^ v
  | .min => if x ≤ y then old else v
  | .max => if x ≤ y then v else old
  | .minu => if old ≤ v then old else v
  | .maxu => if old ≤ v then v else old
  | .swap => v

/-- 09 R305, 04 R136: AMO and CAS of an aligned scratchpad word act in one step: g[d] takes the old value sign-extended, the n bytes
take the result (CAS only where the old value equals g[d][8n-1:0]), and no byte outside them changes; in every scope and order. In the own
cluster it comes a cycle after a write from outside to those bytes (02 R64; log 103). -/
def Claim.ScratchpadAtomics : Prop :=
  ∀ (s : State) (d a b : GReg) (sc : BitVec 3) (o : BitVec 2) (w : Bool) (h : ClusterId) (off : Nat),
    let n := if w then 8 else 4
    let ga := s.g a
    let v := (s.g b).toNat % 2 ^ (8 * n)
    let key := s.dev.scratchKeyOf h off
    let old := leNat (memReadN s.dev.mem key n)
    let s0 := if o.toNat % 2 = 1 then s.acquired else s
    ga.toNat % n = 0 → resolve s.ctx ga .write s.dev = (.ok (.scratch h off), s.dev) → s.dev.signalWaits s.ctx (.scratch h off) = false →
    s.dev.bankCheck (s.dev.partOf h) h off = none → smem s.dev.poison (key / 64) = false →
    Memory.wf s.dev.mem = true → (2 ≤ o.toNat → Released s.dev s.curC s.curK sc.toNat) → s.dev.behindFence s.curC s.curK = false →
    (h = s.curC → s.dev.sawRemote key n = false) →
    let after := fun (new : Nat) (t : State) =>
      StrandSets d (BitVec.ofInt 64 (BitVec.ofNat (8 * n) old).toInt) (s.me.pc + 4) s0 t ∧ StorageOnly s0 t ∧ t.dev.full = s.dev.full ∧
      memReadN t.dev.mem key n = leBytes n new ∧ SameMemoryOutside key n s.dev t.dev
    (∀ f ∈ [(Instr.amoAdd d a b sc o w, AmoOp.add), (.amoAnd d a b sc o w, .and), (.amoOr d a b sc o w, .or),
        (.amoXor d a b sc o w, .xor), (.amoMin d a b sc o w, .min), (.amoMax d a b sc o w, .max), (.amoMinu d a b sc o w, .minu),
        (.amoMaxu d a b sc o w, .maxu), (.amoSwap d a b sc o w, .swap)],
      Answers f.1 s (after (amoRule f.2 n old v))) ∧
    Answers (.cas d a b sc o w) s (after (if old = (s.g d).toNat % 2 ^ (8 * n) then v else old))

/-- 09 R305, 04 R136: the same instructions at any home (a translated address among them), stage by stage: the checks and the walk, the
test for poison, the release before (none where a CAS fails), the read-modify-write at the home, and the acquire after. g[d] takes the old
value sign-extended.
Choices of the model: log 13. -/
def Claim.HomeAtomics : Prop :=
  ∀ (s : State) (d a b : GReg) (sc : BitVec 3) (o : BitVec 2) (w : Bool) (p : PartId) (pa cache : Nat) (enc : Bool)
    (d1 d2 d3 d4 : Dev) (bs : List Byte) (old : Nat) (po : Bool),
    let n := if w then 8 else 4
    let ga := s.g a
    let tgt : Target := .phys p pa cache enc
    let v := (s.g b).toNat % 2 ^ (8 * n)
    let e := (s.g d).toNat % 2 ^ (8 * n)
    ∀ f ∈ [(Instr.amoAdd d a b sc o w, fun x => some (amoFn .add n x v)), (.amoAnd d a b sc o w, fun x => some (amoFn .and n x v)),
        (.amoOr d a b sc o w, fun x => some (amoFn .or n x v)), (.amoXor d a b sc o w, fun x => some (amoFn .xor n x v)),
        (.amoMin d a b sc o w, fun x => some (amoFn .min n x v)), (.amoMax d a b sc o w, fun x => some (amoFn .max n x v)),
        (.amoMinu d a b sc o w, fun x => some (amoFn .minu n x v)), (.amoMaxu d a b sc o w, fun x => some (amoFn .maxu n x v)),
        (.amoSwap d a b sc o w, fun x => some (amoFn .swap n x v)), (.cas d a b sc o w, fun x => if x = e then some v else none)],
    ga.toNat % n = 0 → resolve s.ctx ga .write s.dev = (.ok tgt, d1) → readT s.ctx ga tgt n false d1 = (.ok (bs, false), d2) →
    (if 2 ≤ o.toNat ∧ (f.2 (leNat bs)).isSome then releaseBy s.curC s.curK sc.toNat d2 = (.ok (), d3)
      else d2.behindFence s.curC s.curK = false ∧ d3 = d2) →
    rmwT s.ctx tgt n f.2 false none d3 = (.ok (old, po), d4) →
    Answers f.1 s (WritesG d (BitVec.ofInt 64 (BitVec.ofNat (8 * n) old).toInt) 4 (if o.toNat % 2 = 1 then (s.after d4).acquired else s.after d4))

/-- Atomics in scratchpad and at a home: the two statements above. -/
def Obligations.Atomics : Prop := Claim.ScratchpadAtomics ∧ Claim.HomeAtomics

/-- 09 R306, 04 R138, R139: the five presence operations on an aligned scratchpad word in a bank that admits the strand. PUT of an empty
word that nothing waits for writes it and makes it full; one that RDFs and then a TAKE of strands wait for gives each of them the value, in
order, leaves the word empty and the entries after that TAKE waiting, and with no TAKE leaves it full; PUT of a full word traps with
PRESENCE_DOUBLE_PUT; TAKE and RDF of a full
word answer it and acquire, TAKE emptying it, and trap with POISON where its atom is poisoned; CLRP empties it with the data unchanged; PRB gives the bit. Of an empty word, TAKE and RDF leave
the strand waiting for it.
Choices of the model: log 17. -/
def Obligations.PresenceOperations : Prop :=
  ∀ (s : State) (d a b : GReg) (sc : BitVec 3) (h : ClusterId) (o : Nat),
    let ga := s.g a
    let key := s.dev.scratchKeyOf h o
    let full := smem s.dev.full (key / 8)
    let ws := (s.dev.cl h).waits.filter (fun w => w.word = key / 8)
    presenceTarget s.ctx ga s.dev = (.ok (h, o), s.dev) → Memory.wf s.dev.mem = true →
    (full = false → (h = s.curC → s.dev.sawRemote key 8 = false) → Released s.dev s.curC s.curK sc.toNat → (∀ w ∈ (s.dev.cl h).waits, w.word ≠ key / 8) → Answers (.put a b sc) s (fun t =>
      StrandAt (s.me.pc + 4) s t ∧ StorageOnly s t ∧ t.dev.full = sins s.dev.full (key / 8) ∧
      memReadN t.dev.mem key 8 = leBytes 8 (s.g b).toNat ∧ SameMemoryOutside key 8 s.dev t.dev)) ∧
    (∀ (served rest : List WaitEntry) (who : WaitEntry → StrandIx) (reg : WaitEntry → GReg) (ended : Bool),
      full = false → (h = s.curC → s.dev.sawRemote key 8 = false) → Released s.dev s.curC s.curK sc.toNat → smem s.dev.poison (key / 64) = false → ws = served ++ rest →
      (if ended then ∃ l w, served = l ++ [w] ∧ (∀ x ∈ l, x.take = false) ∧ w.take = true else rest = [] ∧ ∀ x ∈ served, x.take = false) →
      ((s.dev.cl h).waits.map (fun w => (w.reqCluster, w.tag))).Nodup →
      (served.map (fun w => (w.reqCluster, who w))).Nodup → (∀ w ∈ served, (w.reqCluster, who w) ≠ (s.curC, s.curK)) →
      (∀ w ∈ served, ∃ r, (s.dev.cl w.reqCluster).reqs.find? (fun r => r.tag = w.tag) = some r ∧ r.who = .strand (who w) ∧
        r.kind = .presence w.take h o (reg w)) →
      Answers (.put a b sc) s (fun t => t.me.pc = s.me.pc + 4 ∧ t.dev.full = (if ended then s.dev.full else sins s.dev.full (key / 8)) ∧
        memReadN t.dev.mem key 8 = leBytes 8 (s.g b).toNat ∧ SameMemoryOutside key 8 s.dev t.dev ∧
        (t.dev.cl h).waits.filter (fun w => w.word = key / 8) = rest ∧
        ∀ w ∈ served, (t.dev.strand w.reqCluster (who w)).getG (reg w) = (if reg w = 0 then 0 else s.g b) ∧
          (t.dev.strand w.reqCluster (who w)).pc = (s.dev.strand w.reqCluster (who w)).pc + 4 ∧
          ∀ r ∈ (t.dev.cl w.reqCluster).reqs, r.tag ≠ w.tag)) ∧
    (full = true → Released s.dev s.curC s.curK sc.toNat → Answers (.put a b sc) s (fun t =>
      Traps .presenceDoublePut 0 ga s.me.pc s t)) ∧
    (full = true → smem s.dev.poison (key / 64) = false → Answers (.take d a sc) s (fun t =>
      StrandSets d (leWord (memReadN s.dev.mem key 8)) (s.me.pc + 4) s.acquired t ∧ StorageOnly s.acquired t ∧
      t.dev.full = sdel s.dev.full (key / 8) ∧ SameMemory s.dev t.dev)) ∧
    (full = true → smem s.dev.poison (key / 64) = false → Answers (.rdf d a sc) s
      (WritesG d (leWord (memReadN s.dev.mem key 8)) 4 s.acquired)) ∧
    (full = true → smem s.dev.poison (key / 64) = true → ∀ i ∈ [Instr.take d a sc, .rdf d a sc], Answers i s (Traps .poison 0 ga s.me.pc s)) ∧
    (full = false → ∀ i ∈ [Instr.take d a sc, .rdf d a sc], Answers i s (fun t =>
      t.me.pc = s.me.pc ∧ (∀ r, t.g r = s.g r) ∧ (∃ tag, t.me.state = s.me.state.waiting (.presence tag) ∧
        ∃ r ∈ (t.dev.cl s.curC).reqs, r.tag = tag ∧ r.addr = ga ∧ r.first = s.dev.now) ∧ t.dev.full = s.dev.full ∧ SameMemory s.dev t.dev)) ∧
    Answers (.clrp a) s (fun t => StrandAt (s.me.pc + 4) s t ∧ StorageOnly s t ∧ SameMemory s.dev t.dev ∧
      t.dev.full = (if full then sdel s.dev.full (key / 8) else s.dev.full)) ∧
    Answers (.prb d a) s (WritesG d (if full then 1 else 0) 4 s)

/-- 04 R159, 09 R317: the barrier steps on a 16-byte object in scratchpad, whose word 0 holds PH, ARR and PEND and whose word 1 holds
EXP. BINIT sets it; BARR counts ARR down and, when ARR and PEND are then both zero, flips PH and reloads ARR from EXP, or answers
PH + 2 and does nothing when ARR is zero; BEXP adds to PEND and never flips; BWAIT answers word 0 when PH differs from g[b][0], and acquires, and
waits otherwise, to be attempted again under the apertures of its issue (01 R16). A step of a barrier of the own cluster comes a cycle after a
write from outside to it (02 R64; log 103).
Choices of the model: log 13, 17. -/
def Obligations.BarrierSteps : Prop :=
  ∀ (s : State) (d a b : GReg) (sc : BitVec 3) (key : Nat),
    let ga := s.g a
    let w0 := leNat (memReadN s.dev.mem key 8)
    let ph := w0 / 2 ^ 63 % 2
    let arr := w0 / 2 ^ 48 % 2 ^ 15
    let pend := w0 % 2 ^ 40
    let exp := leNat (memReadN s.dev.mem (key + 8) 8) % 2 ^ 15
    let word0 := fun (t : State) => leNat (memReadN t.dev.mem key 8)
    let settled := keyCluster key = s.curC.val → s.dev.sawRemote key 16 = false
    barrierTarget s.ctx ga s.dev = (.ok key, s.dev) → Memory.wf s.dev.mem = true →
    (Released s.dev s.curC s.curK sc.toNat → settled →
      Answers (.binit a b sc) s (fun t => StrandAt (s.me.pc + 4) s t ∧ StorageOnly s t ∧ SameMemoryOutside key 16 s.dev t.dev ∧
        word0 t = (s.g b).toNat % 2 ^ 15 * 2 ^ 48 ∧ leNat (memReadN t.dev.mem (key + 8) 8) = (s.g b).toNat % 2 ^ 15) ∧
      (arr = 0 → Answers (.barr d a sc) s (WritesG d (BitVec.ofNat 64 (ph + 2)) 4 s)) ∧
      (arr ≠ 0 → Answers (.barr d a sc) s (fun t => StrandSets d (BitVec.ofNat 64 ph) (s.me.pc + 4) s t ∧ StorageOnly s t ∧
        SameMemoryOutside key 8 s.dev t.dev ∧
        word0 t = (if arr = 1 ∧ pend = 0 then (1 - ph) * 2 ^ 63 + exp * 2 ^ 48 else ph * 2 ^ 63 + (arr - 1) * 2 ^ 48 + pend)))) ∧
    (s.dev.behindFence s.curC s.curK = false → settled → Answers (.bexp a b sc) s (fun t => StrandAt (s.me.pc + 4) s t ∧ StorageOnly s t ∧
      SameMemoryOutside key 8 s.dev t.dev ∧ word0 t = ph * 2 ^ 63 + arr * 2 ^ 48 + (pend + (s.g b).toNat) % 2 ^ 40)) ∧
    (ph ≠ (s.g b).toNat % 2 → Answers (.bwait d a b sc) s (WritesG d (BitVec.ofNat 64 w0) 4 s.acquired)) ∧
    (ph = (s.g b).toNat % 2 → Answers (.bwait d a b sc) s (Retries s))

/-- 09 R307, 04 R126, R131: FENCE with nothing of the cluster left to perform discards the words fetched ahead and, in the kinds that acquire,
acquires; in those that release at DOMAIN or SYSTEM it notes how far the strand's last acquire reached, for its next write; it changes nothing
else. MONARM arms the strand's monitor, in place of any earlier one, on the granule of a scratchpad address (untriggered), and of a
PEER address triggers it at once. MONWAIT returns at once, and
disarms, when no monitor is armed or it has triggered, and otherwise waits; WFI returns at once when an asynchronous cause is
pending, and otherwise waits (R309).
Choices of the model: log 17, 22. -/
def Obligations.FencesAndWaits : Prop :=
  ∀ (s : State) (a : GReg) (sc : BitVec 3) (o : BitVec 2) (h : ClusterId) (off : Nat),
    let mine := fun (m : Monitor) => decide (m.c = s.curC ∧ m.k = s.curK)
    let s0 := if o = 2 then s else s.acquired
    ((o ≠ 1 → NoSignals s.dev s.curC s.curK ∧ (2 ≤ sc.toNat → Quiet s.dev s.curC)) → Answers (.fence sc o) s (fun t =>
      t.me.ahead = [] ∧ t.me.pc = s.me.pc + 4 ∧ t.me.state = s.me.state.resume ∧ (∀ r, t.g r = s.g r) ∧
      t.me.relTag = (if o ≠ 1 ∧ 4 ≤ sc.toNat then s.me.acqTag else s.me.relTag) ∧
      { t.me with pc := s.me.pc, state := s.me.state, ahead := s.me.ahead, relTag := s.me.relTag } = s0.me ∧ OthersSame s0 t)) ∧
    (resolve s.ctx (s.g a) .read s.dev = (.ok (.scratch h off), s.dev) → s.dev.bankCheck (s.dev.partOf h) h off = none →
      (∀ p, s.ctx.ap.decode (s.g a).toNat ≠ some (5, p)) →
      Answers (.monarm a) s (fun t => StrandAt (s.me.pc + 4) s t ∧ StorageOnly s t ∧ SameMemory s.dev t.dev ∧
        t.dev.monitors.filter mine = [⟨s.curC, s.curK, s.dev.scratchKeyOf h off / 64, false⟩])) ∧
    (∀ m p, resolve s.ctx (s.g a) .read s.dev = (.ok (.peer m p), s.dev) → Answers (.monarm a) s (fun t => StrandAt (s.me.pc + 4) s t ∧
      StorageOnly s t ∧ SameMemory s.dev t.dev ∧ ∃ g, t.dev.monitors.filter mine = [⟨s.curC, s.curK, g, true⟩])) ∧
    ((∀ m ∈ s.dev.monitors, mine m = true → m.triggered = true) → Answers .monwait s (fun t => StrandAt (s.me.pc + 4) s t ∧
      StorageOnly s t ∧ SameMemory s.dev t.dev ∧ t.dev.monitors = s.dev.monitors.filter (fun m => !mine m))) ∧
    ((∃ m ∈ s.dev.monitors, mine m = true) → (∀ m ∈ s.dev.monitors, mine m = true → m.triggered = false) →
      s.dev.pending s.curC s.curK = none → Answers .monwait s (Waits .monwait s)) ∧
    ((s.dev.pending s.curC s.curK).isSome = true → Answers .wfi s (GoesTo (s.me.pc + 4) s)) ∧
    (s.dev.pending s.curC s.curK = none → Answers .wfi s (Waits .wfi s))

/-- 01 R21 to R24, R14: ATST gives the aperture id of the window that holds the address within its extent, or 0. ACVT.TO gives the
offset of an address that decodes in window id, ACVT.FROM the address of an offset of it, and both all ones where there is none;
ID 6 at user privilege traps with PROTECTION. -/
def Obligations.ApertureConversions : Prop :=
  ∀ (s : State) (d a : GReg) (id : BitVec 3),
    let ap := (s.dev.cl s.curC).ap
    let x := (s.g a).toNat
    let n := id.toNat
    n < 7 →
    Answers (.atst d a) s (WritesG d (BitVec.ofNat 64 ((ap.decode x).map (·.1) |>.getD 0)) 4 s) ∧
    ((s.me.priv = true ∨ n ≠ 6) →
      Answers (.acvtTo d a id) s (WritesG d
        (match ap.decode x with
          | some (m, off) => if m = n then BitVec.ofNat 64 off else BitVec.allOnes 64
          | none => BitVec.allOnes 64) 4 s) ∧
      Answers (.acvtFrom d a id) s (WritesG d
        (if n ≠ 0 ∧ x < apExtent n ∧ ap.decode (ap.lo n + x) = some (n, x) then BitVec.ofNat 64 (ap.lo n + x) else BitVec.allOnes 64)
        4 s)) ∧
    (s.me.priv = false → n = 6 →
      Answers (.acvtTo d a id) s (Traps .protection 0 (BitVec.ofNat 64 (0x7C000006 + d.val * 2 ^ 21 + a.val * 2 ^ 16)) s.me.pc s) ∧
      Answers (.acvtFrom d a id) s (Traps .protection 0 (BitVec.ofNat 64 (0x7C000106 + d.val * 2 ^ 21 + a.val * 2 ^ 16)) s.me.pc s))

/-! ### Floating point -/

/-- 09 R320, 06 R202, R205 to R207: an FP32 instruction of the strand whose flags meet none that FPTRAPEN enables writes its result (the
arithmetic of 06 R266, R209 and R199 in the mode of fn[2:0], DYN taking the strand's RND, FTZ the strand's) to f[d], or g[d] for FCVT
to an integer and FCMP, sets its flags in the strand's byte of FPFLAGS, and under SR steps SLFSR once; no other register changes.
Choices of the model: log 7. -/
def Claim.FloatResults : Prop :=
  ∀ (s : State) (d a b : FReg) (g : GReg) (m : BitVec 3) (c : BitVec 3) (sig : Bool) (x : BitVec 3), m.toNat < 7 →
    let mode := if m = 6 then s.fpMode % 8 else m.toNat
    let rnd : Rnd := ⟨mode, false, bit s.fpMode 3, lfsrStep s.me.slfsr⟩
    let va := s.fv a
    let vb := s.fv b
    let old := fpByte (s.dev.cl s.curC).fpFlags (4 + s.curK.val)
    let enabled := BitVec.ofNat 5 (fpByte (s.dev.cl s.curC).fpTrapEn (4 + s.curK.val))
    let frame := fun (fl : Flags) (sr : Bool) (t : State) =>
      t.me.pc = s.me.pc + 4 ∧ t.me.state = s.me.state.resume ∧ t.me.slfsr = (if sr then lfsrStep s.me.slfsr else s.me.slfsr) ∧
      { t.me with g := s.me.g, f := s.me.f, pc := s.me.pc, state := s.me.state, slfsr := s.me.slfsr } = s.me ∧
      fpByte (t.dev.cl s.curC).fpFlags (4 + s.curK.val) = (old ||| fl.toNat) % 256 ∧
      (∀ i < 8, i ≠ 4 + s.curK.val → fpByte (t.dev.cl s.curC).fpFlags i = fpByte (s.dev.cl s.curC).fpFlags i) ∧
      (∀ c k, (c, k) ≠ (s.curC, s.curK) → t.dev.strand c k = s.dev.strand c k) ∧ { t.dev with clusters := s.dev.clusters } = s.dev ∧
      SameMemory s.dev t.dev
    (∀ f ∈ [(Instr.fadd d a b m, fvAdd .f32 rnd va vb), (.fsub d a b m, fvAdd .f32 rnd va vb.neg), (.fmul d a b m, fvMul .f32 rnd va vb),
        (.ffma d a b m, fvFma .f32 rnd va vb (s.fv d)), (.fdiv d a b m, fvDiv .f32 rnd va vb), (.fsqrt d a m, fvSqrt .f32 rnd va),
        (.fcvt ⟨d.val, by omega⟩ g 2 m, intToFv .f32 rnd (s.g g).toInt),
        (.fcvt ⟨d.val, by omega⟩ g 3 m, intToFv .f32 rnd ((s.g g).setWidth 32).toInt)],
      enabled &&& f.2.2 = 0 → Answers f.1 s (fun t => frame f.2.2 (mode = 5) t ∧ t.me.getF d = BitVec.ofNat 32 f.2.1 ∧
        (∀ r, r ≠ d → t.me.getF r = s.me.getF r) ∧ ∀ r, t.g r = s.g r)) ∧
    (∀ f ∈ [(64, false, (0 : BitVec 3)), (64, true, 4), (32, false, 1), (32, true, 5)],
      let r := fvToInt f.1 mode rnd.draw f.2.1 va
      enabled &&& r.2 = 0 → Answers (.fcvt g ⟨a.val, by omega⟩ f.2.2 m) s (fun t => frame r.2 (mode = 5) t ∧
        t.g g = (if g = 0 then 0 else BitVec.ofInt 64 r.1) ∧ (∀ q, q ≠ g → t.g q = s.g q) ∧ t.me.f = s.me.f)) ∧
    (let nv : Flags := if sig = true ∧ (va = .nan ∨ vb = .nan) then 1 else 0;
      enabled &&& nv = 0 → Answers (.fcmp g a b c sig) s (fun t => frame nv false t ∧
        t.g g = (if g = 0 then 0 else if fcmpCond c.toNat (fvCmp va vb) then 1 else 0) ∧ (∀ q, q ≠ g → t.g q = s.g q) ∧ t.me.f = s.me.f)) ∧
    Answers (.fmvgf d g) s (fun t => t.me.pc = s.me.pc + 4 ∧ (t.me.getF d).toNat = (s.g g).toNat % 2 ^ 32 ∧
      (∀ r, r ≠ d → t.me.getF r = s.me.getF r) ∧ (∀ r, t.g r = s.g r) ∧ OthersSame s t) ∧
    Answers (.fmvfg g a) s (WritesG g (BitVec.ofNat 64 (s.me.getF a).toNat) 4 s)

/-- 06 R207, R206: an FP32 instruction, FCVT and FCMP among them, one of whose flags is enabled in the strand's byte of FPTRAPEN traps with
FP_TRAP, TRAPVAL the enabled flags that it raised, its destination unwritten; its flags are set all the same.
Choices of the model: log 15. -/
def Obligations.FloatTraps : Prop :=
  ∀ (s : State) (d a b : FReg) (g : GReg) (m : BitVec 3) (c : BitVec 3) (sig : Bool), m.toNat < 7 →
    let mode := if m = 6 then s.fpMode % 8 else m.toNat
    let rnd : Rnd := ⟨mode, false, bit s.fpMode 3, lfsrStep s.me.slfsr⟩
    let cl := s.dev.cl s.curC
    let i := 4 + s.curK.val
    let va := s.fv a
    let vb := s.fv b
    let nv : Flags := if sig = true ∧ (va = .nan ∨ vb = .nan) then 1 else 0
    ∀ f ∈ [(Instr.fadd d a b m, (fvAdd .f32 rnd va vb).2), (.fsub d a b m, (fvAdd .f32 rnd va vb.neg).2), (.fmul d a b m, (fvMul .f32 rnd va vb).2),
        (.ffma d a b m, (fvFma .f32 rnd va vb (s.fv d)).2), (.fdiv d a b m, (fvDiv .f32 rnd va vb).2), (.fsqrt d a m, (fvSqrt .f32 rnd va).2),
        (.fcvt ⟨d.val, by omega⟩ g 2 m, (intToFv .f32 rnd (s.g g).toInt).2),
        (.fcvt ⟨d.val, by omega⟩ g 3 m, (intToFv .f32 rnd ((s.g g).setWidth 32).toInt).2),
        (.fcvt g ⟨a.val, by omega⟩ 0 m, (fvToInt 64 mode rnd.draw false va).2), (.fcvt g ⟨a.val, by omega⟩ 4 m, (fvToInt 64 mode rnd.draw true va).2),
        (.fcvt g ⟨a.val, by omega⟩ 1 m, (fvToInt 32 mode rnd.draw false va).2), (.fcvt g ⟨a.val, by omega⟩ 5 m, (fvToInt 32 mode rnd.draw true va).2),
        (.fcmp g a b c sig, nv)],
      let hit := BitVec.ofNat 5 (fpByte cl.fpTrapEn i) &&& f.2
      hit ≠ 0 → Answers f.1 s (fun t =>
        Traps .fpTrap 0 (BitVec.ofNat 64 hit.toNat) s.me.pc
          (s.after (s.dev.modCl s.curC (fun x => { x with fpFlags := setFpByte x.fpFlags i (fpByte x.fpFlags i ||| f.2.toNat) }))) t ∧
        t.me.f = s.me.f ∧ fpByte (t.dev.cl s.curC).fpFlags i = (fpByte cl.fpFlags i ||| f.2.toNat) % 256)

/-- 06 R266, 09 R320: the special operands of FADD, FMUL, FFMA, FDIV and FSQRT with no trap enabled. A NaN gives the canonical NaN; the
sum of opposite infinities, zero times infinity, 0/0, infinity over infinity and the square root of a negative number give it with NV; a
finite non-zero value over a zero gives the infinity of the signs with DZ. -/
def Claim.FloatSpecialCases : Prop :=
  ∀ (s : State) (d a b : FReg) (m : BitVec 3), m.toNat < 7 → (s.dev.cl s.curC).fpTrapEn = 0 →
    let va := s.fv a
    let vb := s.fv b
    let old := fpByte (s.dev.cl s.curC).fpFlags (4 + s.curK.val)
    let gives := fun (i : Instr) (bits : W32) (fl : Nat) => Answers i s (fun t => t.me.getF d = bits ∧ t.me.pc = s.me.pc + 4 ∧
      fpByte (t.dev.cl s.curC).fpFlags (4 + s.curK.val) = old ||| fl)
    ((va = .nan ∨ vb = .nan) → ∀ i ∈ [Instr.fadd d a b m, .fsub d a b m, .fmul d a b m, .fdiv d a b m], gives i 0x7FC00000 0) ∧
    (∀ n, va = .inf n → vb = .inf (!n) → gives (.fadd d a b m) 0x7FC00000 1) ∧
    (∀ n k e, va = .inf n → vb = .num k 0 e → gives (.fmul d a b m) 0x7FC00000 1 ∧ gives (.ffma d a b m) 0x7FC00000 1) ∧
    (∀ n k e e', va = .num n 0 e → vb = .num k 0 e' → gives (.fdiv d a b m) 0x7FC00000 1) ∧
    (∀ n k, va = .inf n → vb = .inf k → gives (.fdiv d a b m) 0x7FC00000 1) ∧
    (∀ n k x e e', va = .num n (x + 1) e → vb = .num k 0 e' →
      gives (.fdiv d a b m) (if n = k then 0x7F800000 else 0xFF800000) 2) ∧
    (∀ x e, va = .num true (x + 1) e → gives (.fsqrt d a m) 0x7FC00000 1)

/-- The results of the floating-point instructions, and their special cases: the two statements above. -/
def Obligations.FloatResults : Prop := Claim.FloatResults ∧ Claim.FloatSpecialCases

/-! ### Fabric, engine and message instructions -/

/-- 09 R311: FLOAD of an image that passes every check acquires, writes it to its clusters and completes with g[d] = LOADID, zero-extended,
without SYNC or where no region of the load has a live kernel; with SYNC and such regions it writes their standby planes and waits for their
switches. It waits to be attempted again while another FLOAD still writes one of its clusters, or one issued before it waits for one of them.
Choices of the model: log 41, 47, 81. -/
def Obligations.FabricLoad : Prop :=
  ∀ (s : State) (d a b : GReg) (sync sw : Bool) (hd img : List Byte) (l : FabLoad) (cs : List ClusterId) (d1 d2 d3 d4 d5 : Dev),
    let ga := s.g a
    let c0 := (s.g b).toNat % 128
    let base := if c0 = 127 then s.curC.val else c0
    let mine := fun (e : LoadTurn) => e.of s.curC s.curK
    let src := (s.ctx.ap.decode ga.toNat).map (fun w => (⟨w.1 = 3, w.2, s.curC, s.ctx.id, base⟩ : LoadSrc))
    let e := ((d5.acquire s.curC s.curK).applyLoad base l cs [] (some (s.curC, s.curK))).setSrc l cs src
    let e0 := cs.zipIdx.foldl (fun d i => d.modCl i.1 (fun cl => cl.beginLoad l (l.of i.2))) (d5.acquire s.curC s.curK)
    let waits := e0.switching cs
    imageAddrM s.ctx ga s.dev = (.ok (), s.dev) →
    imageM s.ctx ga 64 (s.dev.enterLoad s.curC s.curK ((List.finRange 72).filter (fun h => decide (base ≤ h.val)))) = (.ok hd, d1) →
    headerOk hd = true →
    ((List.range (leNat ((hd.drop 6).take 2))).mapM (fun i => clusterM s.curC (if base + i = 127 then 126 else base + i) (s.g b))) d1
      = (.ok cs, d2) →
    ((d2.loading cs = true ∨ ∃ e ∈ d2.loadQ.takeWhile (fun e => !mine e), ∃ h ∈ e.cs, h ∈ cs) →
      (loadTurnM s.curC s.curK cs d2).1 = .error .again) ∧
    (d2.loading cs = false → (∀ e ∈ d2.loadQ.takeWhile (fun e => !mine e), ∀ h ∈ e.cs, h ∉ cs) → (loadTurnM s.curC s.curK cs d2).1 = .ok ()) ∧
    (loadTurnM s.curC s.curK cs d2 = (.error .again, d3) →
      Answers (.fload d a b sync sw) s (Waits (.retry s.ctx.ap) (s.after d3).uncounted)) ∧
    (loadTurnM s.curC s.curK cs d2 = (.ok (), d3) → imageM s.ctx ga (headerLength hd) d3 = (.ok img, d4) → parseLoad img = .ok l →
      loadChecksM s.curC l base cs sw d4 = (.ok (), d5) →
      ((sync = false ∨ waits = []) → Answers (.fload d a b sync sw) s (WritesG d (BitVec.ofNat 64 l.loadId.toNat) 4 (s.after e))) ∧
      (sync = true → waits ≠ [] → Answers (.fload d a b sync sw) s
        (Waits (.sync d ⟨l, base, src, (d5.acquire s.curC s.curK).undoOf waits⟩ waits) (s.after e0))))

/-- 09 R312, 05 R174, 01 R20: KRUN, by a strand that controls no instance, of a configured kernel that is LOADED or RETIRED, in a region
that is neither STOPPED nor FAULTED, with a ROUNDLEN that its record admits, a W and ROUNDLEN that the running wheel has, slots that no other
kernel that has not retired has (05 R169), and room for its rounds: the kernel is STARTING under the strand's identity with no iterations and no periods done, its trip count the low 32 bits
of g[b], and an idle region is RUNNING with that wheel at round 0.
Choices of the model: log 82. -/
def Obligations.KernelRun : Prop :=
  ∀ (s : State) (a b : GReg) (h : ClusterId) (r : RegionIx) (n : Fin 4) (cfg : KernCfg),
    let x := s.dev.region h r
    let kn := vget x.kernels n
    let len := s.me.roundLen.toNat
    selectorM s.curC (s.g a) s.dev = (.ok (h, r, n), s.dev) → s.me.instance_ = none → kn.cfg = some cfg →
    (kn.st = .loaded ∨ kn.st = .retired) → x.st ≠ .stopped → x.st ≠ .faulted → 1 ≤ len → len ≤ 65536 →
    (cfg.rlen = 0 ∨ cfg.rlen = len) → (x.st ≠ .idle → x.w = cfg.wm1 + 1 ∧ x.roundLen = len) → x.slotConflict n = false →
    (s.dev.cl h).krunFits r n (cfg.wm1 + 1) len = true → (2 ≤ cfg.scope → (s.dev.cl s.curC).buffer = []) →
    Answers (.krun a b) s (fun t =>
      let y := t.dev.region h r
      let k := vget y.kernels n
      StrandAt (s.me.pc + 4) s t ∧ SameMemory s.dev t.dev ∧
      k.st = .starting ∧ k.iters = 0 ∧ k.periods = 0 ∧ k.exit_ = false ∧ k.trips.toNat = (s.g b).toNat % 2 ^ 32 ∧
      k.id = s.me.ident ∧ k.c = s.curC ∧ k.k = s.curK ∧ k.cfg = some cfg ∧ (∀ m, m ≠ n → vget y.kernels m = vget x.kernels m) ∧
      (x.st = .idle → y.st = .running ∧ y.w = cfg.wm1 + 1 ∧ y.roundLen = len ∧ y.round = 0 ∧ y.period = 0) ∧
      (x.st ≠ .idle → y.st = x.st ∧ y.w = x.w ∧ y.round = x.round))

/-- 09 R313, R314, R293, R310; 04 R151; 05 R173, R174, R188; 13 R424: KSTOP, KSAVE, KREST and KSTAT of a region that a load has configured, by a
strand that controls no instance. KSTOP of a running region with a kernel to stop requests its stop, completing at once, or with WAIT only
once it is STOPPED; a FROZEN or FAULTED one is STOPPED at once; one with no kernel to stop is left as it is. KSAVE of a STOPPED region writes its
weir image, performed at DEVICE scope, and g[d] takes its length; to LOCAL scratchpad whose banks admit the strand it always completes.
KREST with g[b] = 0 resumes a STOPPED region that holds no tied entries, its kernels taking up the states recorded (a STARTING one stays so,
or begins at the weir: here where it does not); with an image that matches, it applies the image. KSTAT writes the round, the fault cause and the
two state codes, and acquires where it reports RETIRED; of its own context that waits a control strand reads STOPPED and the rounds it had
sealed. At user privilege KSTOP, KSAVE and KREST trap with PROTECTION, TRAPVAL the selector.
Choices of the model: log 91, 93, 94, 119. -/
def Obligations.StopSaveRestoreStatus : Prop :=
  ∀ (s : State) (d a b : GReg) (wait : Bool) (h : ClusterId) (r : RegionIx) (n : Fin 4) (d1 d2 d3 : Dev) (off : Nat) (u : RegCtx)
    (hd img : List Byte),
    let x := s.dev.region h r
    let sel := s.g a
    let kn := vget x.kernels n
    let inst := match x.ctxs.find? (·.running) with | some t => some t.inst | none => s.me.instance_
    selectorM s.curC sel s.dev = (.ok (h, r, n), s.dev) → x.configured = true →
    (s.me.priv = true → s.me.instance_ = none →
      (x.busy = false → x.st ≠ .faulted → x.st ≠ .stopping → x.st ≠ .stopped → Answers (.kstop a wait) s (fun t =>
        StrandAt (s.me.pc + 4) s t ∧ t.dev.region h r = x ∧ SameMemory s.dev t.dev)) ∧
      (x.busy = false → x.st = .stopped → Answers (.kstop a wait) s (fun t =>
        StrandAt (s.me.pc + 4) s t ∧ { t.dev.region h r with ctxs := x.ctxs } = x ∧ SameMemory s.dev t.dev)) ∧
      (x.busy = true → x.st = .running → s.dev.gangIds h r = [] →
        let stopping := fun (t : State) => (t.dev.region h r).st = .stopping ∧ (t.dev.region h r).stop = true ∧
          (t.dev.region h r).kernels = x.kernels ∧ SameMemory s.dev t.dev
        Answers (.kstop a false) s (fun t => StrandAt (s.me.pc + 4) s t ∧ stopping t) ∧
        Answers (.kstop a true) s (fun t => t.me = { s.me with state := s.me.state.waiting (.retry s.ctx.ap) } ∧ stopping t)) ∧
      ((x.busy = true ∧ x.st = .frozen ∨ x.st = .faulted) → s.dev.gangIds h r = [] → Answers (.kstop a wait) s (fun t =>
        t.me.pc = s.me.pc + 4 ∧ (∀ q, t.g q = s.g q) ∧ (t.dev.region h r).st = .stopped)) ∧
      (x.st = .stopped → imageAddrM s.ctx (s.g b) s.dev = (.ok (), s.dev) →
        uaM (writeBytes s.ctx (s.g b) (s.dev.weirImage h r) false) s.dev = (.ok (), d1) → release s.curC 3 d1 = (.ok (), d2) →
        Answers (.ksave d a b) s (WritesG d (BitVec.ofNat 64 (s.dev.weirImage h r).length) 4 (s.after d2))) ∧
      (x.st = .stopped → (s.g b).toNat % 64 = 0 → s.ctx.ap.decode (s.g b).toNat = some (1, off) →
        (∀ i < (s.dev.weirImage h r).length, s.ctx.ap.decode ((s.g b).toNat + i) = some (1, off + i)) →
        off + (s.dev.weirImage h r).length ≤ 0xC00000 → (∀ i < (s.dev.weirImage h r).length, s.dev.bankCheck (s.dev.partOf s.curC) s.curC (off + i) = none) →
        Released s.dev s.curC s.curK 3 → Answers (.ksave d a b) s (fun t => t.me.pc = s.me.pc + 4 ∧ t.dev.region h r = x ∧
          t.g d = (if d = 0 then 0 else BitVec.ofNat 64 (s.dev.weirImage h r).length) ∧ ∀ q, q ≠ d → t.g q = s.g q)) ∧
      (s.g b = 0 → x.st = .stopped → x.tied = [] → x.tiedCmds = [] →
        (∀ k ∈ x.kernels.toList, k.recorded ≠ .retiring) → (∃ k ∈ x.kernels.toList, k.cfg.isSome = true ∧ k.recorded ≠ .loaded ∧ k.recorded ≠ .retired) →
        (x.weir ≠ .none ∨ ∀ k ∈ x.kernels.toList, k.recorded ≠ .starting) →
        Answers (.krest a b) s (fun t => (t.dev.region h r).st = .running ∧
          (∀ m, (vget (t.dev.region h r).kernels m).st = (vget x.kernels m).recorded) ∧ t.me.pc = s.me.pc + 4 ∧ (∀ q, t.g q = s.g q) ∧
          SameMemory s.dev t.dev)) ∧
      (s.g b ≠ 0 → (x.st = .stopped ∨ x.st = .idle ∧ x.live = false) → imageAddrM s.ctx (s.g b) s.dev = (.ok (), s.dev) →
        imageM s.ctx (s.g b) 64 s.dev = (.ok hd, d1) → weirHeaderOk hd = true →
        imageM s.ctx (s.g b) (leNat ((hd.drop 8).take 8)) d1 = (.ok img, d2) →
        restoreM h r img inst (d2.acquire s.curC s.curK) = (.ok (), d3) →
        Answers (.krest a b) s (fun t => t = (s.after d3).modMe (fun st => st.advance 4)))) ∧
    (s.me.instance_ = none → kn.cfg.isSome = true → Answers (.kstat d a) s (WritesG d (BitVec.ofNat 64 (x.round % 2 ^ 32 * 2 ^ 32 +
      x.fcause * 2 ^ 8 + x.st.code * 2 ^ 4 + kn.st.code)) 4 (if kn.st = .retired then s.acquired else s))) ∧
    (s.me.instance_ = some u.inst → x.ctxs.find? (fun w => w.inst = u.inst) = some u → u.running = false →
      Answers (.kstat d a) s (WritesG d (BitVec.ofNat 64 (u.round % 2 ^ 32 * 2 ^ 32 + 4 * 2 ^ 4 + 5)) 4 s)) ∧
    (s.me.priv = false → ∀ i ∈ [Instr.kstop a wait, .ksave d a b, .krest a b], Answers i s (Traps .protection 0 sel s.me.pc s))

/-- 09 R310 to R315, R293; 13 R424: the traps of the fabric instructions. A cluster outside the strand's partition traps with PROTECTION, TRAPVAL the
selector; the others with CONFIG_INVALID and the reason of R310 in TRAPVAL: a region beyond LAYOUT 8; one that no load has configured 7;
KRUN of a kernel in the wrong state 3, with a ROUNDLEN out of range or not RLEN 5, with another wheel or slots that are taken 4, without the
capacity 5; KSAVE or KREST of a region in the wrong state 3; an image that does not match 6; a control strand's region that holds contexts none
of which is its own 3; FLOAD of an image that fails R244 1 with the record's offset, that changes LAYOUT under a live kernel 2, without SW over
one 3. An image address that is not 64-byte aligned traps with MISALIGNED, one outside GLOBAL and LOCAL with APERTURE.
Choices of the model: log 41, 111. -/
def Claim.FabricTraps : Prop :=
  ∀ (s : State) (d a b : GReg) (wait sync sw : Bool) (h : ClusterId) (r : RegionIx) (n : Fin 4) (cfg : KernCfg) (id off : Nat)
    (hd img : List Byte) (l : FabLoad) (cs : List ClusterId) (cause : Cause) (sub : BitVec 8) (v : Word) (d1 d2 d3 d4 d5 : Dev),
    let sel := s.g a
    let gb := s.g b
    let f := sel.toNat / 16 % 128
    let x := s.dev.region h r
    let kn := vget x.kernels n
    let len := s.me.roundLen.toNat
    let invalid := fun (m : Nat) => Traps .configInvalid 0 (BitVec.ofNat 64 m) s.me.pc s
    let outside := fun (e : Dev) (f : Nat) => ∀ c : ClusterId, c.val = f → c ≠ s.curC ∧ (e.partOf c ≠ e.partOf s.curC ∨ e.partOf s.curC = none)
    let all := [Instr.krun a b, .kstat d a] ++ (if s.me.priv then [.kstop a wait, .ksave d a b, .krest a b] else [])
    let imageAt := imageAddrM s.ctx gb s.dev = (.ok (), s.dev)
    let c0 := gb.toNat % 128
    let base := if c0 = 127 then s.curC.val else c0
    let fload := Instr.fload d a b sync sw
    (f ≠ 127 → outside s.dev f → ∀ i ∈ all, Answers i s (Traps .protection 0 sel s.me.pc s)) ∧
    (clusterM s.curC f sel s.dev = (.ok h, s.dev) → layoutRegions (s.dev.cl h).layout.toNat ≤ sel.toNat / 4 % 4 →
      ∀ i ∈ all, Answers i s (invalid 8)) ∧
    (selectorM s.curC sel s.dev = (.ok (h, r, n), s.dev) →
      (s.me.instance_ = none →
        (kn.cfg = none → Answers (.krun a b) s (invalid 7) ∧ Answers (.kstat d a) s (invalid 7)) ∧
        (kn.cfg = some cfg →
          let bad3 := ¬(kn.st = .loaded ∨ kn.st = .retired) ∨ x.st = .stopped ∨ x.st = .faulted
          let bad5 := len = 0 ∨ 65536 < len ∨ (cfg.rlen ≠ 0 ∧ cfg.rlen ≠ len)
          let bad4 := (x.st ≠ .idle ∧ (x.w ≠ cfg.wm1 + 1 ∨ x.roundLen ≠ len)) ∨ x.slotConflict n = true
          (bad3 → Answers (.krun a b) s (invalid 3)) ∧ (¬bad3 → bad5 → Answers (.krun a b) s (invalid 5)) ∧
          (¬bad3 → ¬bad5 → bad4 → Answers (.krun a b) s (invalid 4)) ∧
          (¬bad3 → ¬bad5 → ¬bad4 → (s.dev.cl h).krunFits r n (cfg.wm1 + 1) len = false → Answers (.krun a b) s (invalid 5))) ∧
        (s.me.priv = true →
          (x.configured = false → Answers (.kstop a wait) s (invalid 7) ∧ (imageAt → Answers (.ksave d a b) s (invalid 7)) ∧
            ((gb = 0 ∨ imageAt) → Answers (.krest a b) s (invalid 7))) ∧
          (x.configured = true → x.st ≠ .stopped → (imageAt → Answers (.ksave d a b) s (invalid 3)) ∧
            (gb = 0 → Answers (.krest a b) s (invalid 3)) ∧
            (gb ≠ 0 → imageAt → (x.st ≠ .idle ∨ x.live = true) → Answers (.krest a b) s (invalid 3))) ∧
          (x.configured = true → gb ≠ 0 → imageAt → (x.st = .stopped ∨ x.st = .idle ∧ x.live = false) →
            imageM s.ctx gb 64 s.dev = (.ok hd, d1) →
            (weirHeaderOk hd = false → Answers (.krest a b) s (Traps .configInvalid 0 6 s.me.pc (s.after d1))) ∧
            (weirHeaderOk hd = true → imageM s.ctx gb (leNat ((hd.drop 8).take 8)) d1 = (.ok img, d2) →
              (d2.acquire s.curC s.curK).parseWeir h r img = none →
              Answers (.krest a b) s (Traps .configInvalid 0 6 s.me.pc (s.after (d2.acquire s.curC s.curK))))))) ∧
      (s.me.instance_ = some id → x.ctxs ≠ [] → (∀ u ∈ x.ctxs, u.inst ≠ id) →
        (kn.cfg = some cfg → Answers (.krun a b) s (invalid 3)) ∧ Answers (.kstat d a) s (invalid 3) ∧
        (s.me.priv = true → x.configured = true → Answers (.kstop a wait) s (invalid 3) ∧ (imageAt → Answers (.ksave d a b) s (invalid 3)) ∧
          ((gb = 0 ∨ imageAt) → Answers (.krest a b) s (invalid 3)))) ∧
      (s.me.priv = true → ∀ i ∈ [Instr.ksave d a b, .krest a b],
        (gb.toNat % 64 ≠ 0 → Answers i s (Traps .misaligned 0 gb s.me.pc s)) ∧
        (gb ≠ 0 → gb.toNat % 64 = 0 → (∀ o, s.ctx.ap.decode gb.toNat ≠ some (1, o) ∧ s.ctx.ap.decode gb.toNat ≠ some (3, o)) →
          Answers i s (Traps .aperture 0 gb s.me.pc s)))) ∧
    (∀ i ∈ [Instr.glaunch d a, fload],
      (sel.toNat % 64 ≠ 0 → Answers i s (Traps .misaligned 0 sel s.me.pc s)) ∧
      (sel.toNat % 64 = 0 → (∀ o, s.ctx.ap.decode sel.toNat ≠ some (1, o) ∧ s.ctx.ap.decode sel.toNat ≠ some (3, o)) →
        Answers i s (Traps .aperture 0 sel s.me.pc s))) ∧
    (imageAddrM s.ctx sel s.dev = (.ok (), s.dev) →
      imageM s.ctx sel 64 (s.dev.enterLoad s.curC s.curK ((List.finRange 72).filter (fun k => decide (base ≤ k.val)))) = (.ok hd, d1) →
      (headerOk hd = false → Answers fload s (Traps .configInvalid 0 1 s.me.pc (s.after d1))) ∧
      (headerOk hd = true → (∃ i < leNat ((hd.drop 6).take 2), outside d1 (base + i)) → Answers fload s (Traps .protection 0 gb s.me.pc (s.after d1))) ∧
      (headerOk hd = true →
        ((List.range (leNat ((hd.drop 6).take 2))).mapM (fun i => clusterM s.curC (if base + i = 127 then 126 else base + i) gb)) d1 = (.ok cs, d2) →
        loadTurnM s.curC s.curK cs d2 = (.ok (), d3) → imageM s.ctx sel (headerLength hd) d3 = (.ok img, d4) →
        (parseLoad img = .error off → Answers fload s (Traps .configInvalid 0 (BitVec.ofNat 64 (off * 2 ^ 32 + 1)) s.me.pc (s.after d4))) ∧
        (parseLoad img = .ok l →
          (loadChecksM s.curC l base cs sw d4 = (.error (.trap cause sub v), d5) → Answers fload s (Traps cause sub v s.me.pc (s.after d5))) ∧
          ((∀ e ∈ cs.zipIdx, (d4.cl e.1).checkLoad l (l.of e.2)
              (decide (d4.partOf (pairCluster e.1) = d4.partOf e.1) && (d4.partOf e.1).isSome) = .ok ()) →
            streamsOk l (fun i => match clusterNo (base + i) with
              | some k => (d4.cl k).withLoad l (l.of i)
              | none => Cluster.reset) = .ok () →
            let changed := ∃ e ∈ cs.zipIdx, loadLayout (d4.cl e.1) (l.of e.2) ≠ (d4.cl e.1).layout.toNat ∧
              (d4.cl e.1).fab.regions.toList.any Region.live = true
            (changed → Answers fload s (Traps .configInvalid 0 2 s.me.pc (s.after d4))) ∧
            (¬changed → sw = false → (∃ e ∈ cs.zipIdx, ∃ g ∈ loadRegions (d4.cl e.1) (l.of e.2), ((d4.cl e.1).region g).live = true) →
              Answers fload s (Traps .configInvalid 0 3 s.me.pc (s.after d4)))))))

/-- The traps of memory accesses, and of the instructions that name a region, an image or a token: the two statements above. -/
def Obligations.AccessTraps : Prop := Claim.AccessTraps ∧ Claim.FabricTraps

/-- 09 R315, 13 R413: GLAUNCH reads the 64-byte token at g[a] after the strand's earlier accesses are performed at DEVICE scope, submits it
to the dispatcher of its die, and writes the answer to g[d]: the instance id of a LAUNCH that binds, 0 for one that fails at binding, for a DATA
that is taken and for another kind, all ones where the queue of its priority is full. -/
def Obligations.GraphLaunch : Prop :=
  ∀ (s : State) (d a : GReg) (d1 d2 d3 e1 e2 e3 e4 e5 : Dev) (bs : List Byte) (p : PartId) (v : Word) (ge vr : Vector Word 8) (w0 w1 : Option (Nat × Nat × Bool))
    (err : Nat),
    let tok : HandTok := ⟨words8 bs, p, .strand s.curC s.curK, 3, 15, !s.me.priv⟩
    let kind := tokKind tok.token
    let die := dieOf s.curC
    let full := 64 ≤ (d2.die die).queueLen (tokPrio tok.token)
    let version := if tokVersion tok.token = 0 then geLatest ge else tokVersion tok.token
    imageAddrM s.ctx (s.g a) s.dev = (.ok (), s.dev) → releaseBy s.curC s.curK 3 s.dev = (.ok (), d1) →
    imageM s.ctx (s.g a) 64 d1 = (.ok bs, d2) → d2.partOf s.curC = some p → d2.submit die tok = (v, d3) →
    Answers (.glaunch d a) s (WritesG d v 4 (s.after d3)) ∧
    ((kind = 1 ∨ kind = 4) → full → v = BitVec.allOnes 64 ∧ d3 = d2) ∧
    (kind ≠ 1 → kind ≠ 4 → v = 0) ∧ (kind = 4 → ¬full → v = 0) ∧
    (kind = 1 → ¬full →
      (d2.admitToken tok = (.error err, e1) → v = 0) ∧
      (d2.admitToken tok = (.ok ge, e1) →
        (e1.versionRec p ge version = (none, e2) → v = 0) ∧
        (e1.versionRec p ge version = (some vr, e2) →
          (e2.tokAddrsOk die p ge tok.token vr = (false, e3) → v = 0) ∧
          (e2.tokAddrsOk die p ge tok.token vr = (true, e3) → e3.depPlace die p (geIdent ge) (pw tok.token 2) = (w0, e4) →
            e4.depPlace die p (geIdent ge) (pw tok.token 4) = (w1, e5) →
            v = BitVec.ofNat 64 (die.val * 2 ^ 30 + (nextCount (e5.die die).bindCount).toNat)))))

/-- 09 R316, 11 R343: ENQ of the packet g[a] to g[a+3], or to g[a+7] with EXT, in a queue with room puts the command behind those in it
as QUEUED, under the strand's identity, and writes its sequence number to g[d]; with the queue full the strand waits; a packet that
would run past g31 traps with ILLEGAL. ENQS reads the packet from memory at a multiple of 32. QSTAT writes the next sequence number,
ERR and the free places, and clears ERR. -/
def Obligations.EngineQueueInstructions : Prop :=
  ∀ (s : State) (d a : GReg) (qn : BitVec 3) (q : QueueIx) (lo hi : List Word) (d1 d2 : Dev), qn.toNat = q.val →
    let x := s.dev.queue s.curC q
    let ext := (s.g a).getLsbD 48
    let places := if ext then 8 else 4
    let entered := fun (x : EngQueue) (w : Vector Word 8) (y : EngQueue) => ∃ k : Cmd,
      y = { x with cmds := x.cmds ++ [k], nextSeq := x.nextSeq + 1, placed := x.placed + 1 } ∧ k.w = w ∧ k.seq = x.nextSeq ∧ k.place = x.placed ∧ k.state = .queued ∧ k.id = s.me.ident ∧
      k.sender.c = s.curC ∧ k.sender.k = s.curK ∧ k.refused = !packetOk q w
    (a.val + places ≤ 32 → x.cmds.length < 16 → Answers (.enq d a qn) s (fun t => StrandSets d x.nextSeq (s.me.pc + 4) s t ∧
      SameMemory s.dev t.dev ∧
      entered x (Vector.ofFn (fun i => if h : a.val + i.val < 32 then (if i.val < places then s.g ⟨a.val + i.val, h⟩ else 0) else 0))
        (t.dev.queue s.curC q))) ∧
    (a.val + places ≤ 32 → 16 ≤ x.cmds.length → Answers (.enq d a qn) s (Retries s)) ∧
    (32 < a.val + places → Answers (.enq d a qn) s (fun t => t.me.trapCause = 0x01 ∧ Traps .illegal 0 t.me.trapVal s.me.pc s t)) ∧
    ((s.g a).toNat % 32 = 0 → read32 s.ctx s.curK (s.g a) s.dev = (.ok lo, d1) →
      (if (lo.getD 0 0).getLsbD 48 then read32 s.ctx s.curK (s.g a + 32) d1 = (.ok hi, d2) else hi = [] ∧ d2 = d1) →
      (d2.queue s.curC q).cmds.length < 16 → (d2.strand s.curC s.curK).ident = s.me.ident →
      Answers (.enqs d a qn) s (fun t => t.g d = (if d = 0 then 0 else (d2.queue s.curC q).nextSeq) ∧
        entered (d2.queue s.curC q) (Vector.ofFn (fun i => (lo ++ hi).getD i.val 0)) (t.dev.queue s.curC q) ∧ SameMemory d2 t.dev)) ∧
    ((s.g a).toNat % 32 ≠ 0 → Answers (.enqs d a qn) s (Traps .misaligned 0 (s.g a) s.me.pc s)) ∧
    (x.cmds.length ≤ 16 → Answers (.qstat d qn) s (fun t =>
      StrandSets d (BitVec.ofNat 64 (x.nextSeq.toNat % 2 ^ 48 * 2 ^ 16 + (if x.err then 256 else 0) + (16 - x.cmds.length))) (s.me.pc + 4) s t ∧
      t.dev.queue s.curC q = { x with err := false } ∧ SameMemory s.dev t.dev))

/-- 09 R319, 04 R161, R138: SIGST between two scratchpad words in banks that let the strand in, with no signal operation of the cluster
waiting and no byte of them written from outside in the cycle (log 103), stores g[b] at g[a], and no byte outside the two words changes: with
.ADD it adds g[b+1] to the word at g[a+1], modulo 2^64; with .PUT it puts g[b+1] in the word at g[a+1] if that is empty and nothing waits for it, and
makes it full, and if it is full writes nothing there and reports PRESENCE_DOUBLE_PUT to the strand, TRAPVAL the word's address. -/
def Obligations.SignalledStore : Prop :=
  ∀ (s : State) (a b : GReg) (sc : BitVec 3) (h h' : ClusterId) (o o' : Nat),
    let ga := s.g a
    let gs := s.g (gPlus a 1)
    let key := s.dev.scratchKeyOf h o
    let key' := s.dev.scratchKeyOf h' o'
    a.val < 31 → b.val < 31 → ga.toNat % 8 = 0 → gs.toNat % 8 = 0 →
    resolve s.ctx ga .write s.dev = (.ok (.scratch h o), s.dev) → resolve s.ctx gs .write s.dev = (.ok (.scratch h' o'), s.dev) →
    (s.dev.cl s.curC).signals = [] → s.dev.fenceMet = false → s.dev.behindFence s.curC s.curK = false → (∀ j < 8, key + j ∉ s.dev.remoteNow) →
    (∀ j < 8, key' + j ∉ s.dev.remoteNow) →
    s.dev.bankCheck (s.dev.partOf h) h o = none → s.dev.bankCheck (s.dev.partOf h') h' o' = none → Memory.wf s.dev.mem = true →
    (key' + 8 ≤ key ∨ key + 8 ≤ key') → Quiet s.dev s.curC →
    Answers (.sigst a b false sc) s (fun t => StrandAt (s.me.pc + 4) s t ∧ StorageOnly s t ∧ t.dev.full = s.dev.full ∧
      memReadN t.dev.mem key 8 = leBytes 8 (s.g b).toNat ∧
      leNat (memReadN t.dev.mem key' 8) = (leNat (memReadN s.dev.mem key' 8) + (s.g (gPlus b 1)).toNat) % 2 ^ 64 ∧
      ∀ q, (q < key ∨ key + 8 ≤ q) → (q < key' ∨ key' + 8 ≤ q) → memRead t.dev.mem q = memRead s.dev.mem q) ∧
    (smem s.dev.full (key' / 8) = false → (∀ w ∈ (s.dev.cl h').waits, w.word ≠ key' / 8) → Answers (.sigst a b true sc) s (fun t =>
      StrandAt (s.me.pc + 4) s t ∧ StorageOnly s t ∧ t.dev.full = sins s.dev.full (key' / 8) ∧
      memReadN t.dev.mem key 8 = leBytes 8 (s.g b).toNat ∧ memReadN t.dev.mem key' 8 = leBytes 8 (s.g (gPlus b 1)).toNat ∧
      ∀ q, (q < key ∨ key + 8 ≤ q) → (q < key' ∨ key' + 8 ≤ q) → memRead t.dev.mem q = memRead s.dev.mem q)) ∧
    (smem s.dev.full (key' / 8) = true → Answers (.sigst a b true sc) s (fun t =>
      StrandAt (s.me.pc + 4) s t ∧ t.dev.full = s.dev.full ∧ memReadN t.dev.mem key 8 = leBytes 8 (s.g b).toNat ∧ SameMemoryOutside key 8 s.dev t.dev ∧
      ⟨.sigst s.curC s.curK, s.curC, s.curK, .presenceDoublePut, 0, gs⟩ ∈ t.dev.reports))

/-- The words of a message (09 R319): the sender's identity, then three words of data. -/
def isMessage (sender : ClusterId) (k : StrandIx) (w1 w2 w3 : Word) (m : InMsg) : Prop :=
  (vget m.w 0).toNat = 2 ^ 63 + sender.val * 256 + k.val ∧ vget m.w 1 = w1 ∧ vget m.w 2 = w2 ∧ vget m.w 3 = w3 ∧ m.bad = none

/-- 09 R319, 11 R377, R379: MSGSEND to a cluster of the strand's partition whose queue has room, and nothing in its ring, puts the message
at the end of that queue and writes 0 to g[d]; a MESSAGE_ARRIVAL there does the same with its own words. MSGSEND to a queue that is full,
with no ring, waits 512 cycles for its next attempt; a retry that finds room completes with 0, and the sixteenth attempt that finds none
with 1. MSGRECV takes the oldest message into g[d] to g[d+3] and acquires, and waits while there is none.
Choices of the model: log 23. -/
def Obligations.Messages : Prop :=
  ∀ (s : State) (d a b : GReg) (sc : BitVec 3) (h : ClusterId) (p : PartId) (sender : ClusterId) (k : StrandIx) (w1 w2 w3 : Word)
    (m : InMsg) (rest : List InMsg) (tries next : Nat) (w : Vector Word 4) (handler : Bool),
    let there := s.dev.cl h
    let gone := fun (t : State) (v : Word) => (t.dev.strand sender k).getG d = (if d = 0 then 0 else v) ∧
      (t.dev.strand sender k).pc = (s.dev.strand sender k).pc + 4
    (there.spillUsed = 0 → there.inbox.length < 64 →
      Answers (.messageArrival h sender k w1 w2 w3) s (fun t => OnlyCluster h s t ∧ ∃ x, isMessage sender k w1 w2 w3 x ∧
        t.dev.cl h = { there with inbox := there.inbox ++ [x] }) ∧
      ((s.g a).toNat % 128 = h.val → s.dev.partOf s.curC = some p → s.dev.partOf h = some p → b.val < 30 → Released s.dev s.curC s.curK sc.toNat →
        Answers (.msgsend d a b sc) s (fun t => StrandSets d 0 (s.me.pc + 4) s t ∧ SameMemory s.dev t.dev ∧
          ∃ x, isMessage s.curC s.curK (s.g b) (s.g (gPlus b 1)) (s.g (gPlus b 2)) x ∧ (t.dev.cl h).inbox = there.inbox ++ [x])) ∧
      ((s.dev.strand sender k).state = .wait (.msgsend tries next d h w) handler → next ≤ s.dev.now →
        Answers (.msgsendRetry sender k) s (fun t => gone t 0 ∧ (t.dev.cl h).inbox = there.inbox ++ [⟨w, none⟩]))) ∧
    (there.spillUsed = 0 → there.inbox.length = 64 → there.spillEntries = 0 → there.spillTrapEn = false →
      ((s.g a).toNat % 128 = h.val → s.dev.partOf s.curC = some p → s.dev.partOf h = some p → b.val < 30 → Released s.dev s.curC s.curK sc.toNat →
        Answers (.msgsend d a b sc) s (fun t => t.me.pc = s.me.pc ∧ (t.dev.cl h).inbox = there.inbox ∧
          ∃ w, t.me.state = s.me.state.waiting (.msgsend 1 (s.dev.now + 512) d h w))) ∧
      ((s.dev.strand sender k).state = .wait (.msgsend tries next d h w) handler → next ≤ s.dev.now → 15 ≤ tries →
        Answers (.msgsendRetry sender k) s (fun t => gone t 1 ∧ (t.dev.cl h).inbox = there.inbox))) ∧
    ((s.dev.cl s.curC).inbox = m :: rest → (s.dev.cl s.curC).spillUsed = 0 → m.bad = none → d.val < 29 →
      Answers (.msgrecv d sc) s (fun t => (∀ i : Fin 4, t.g (gPlus d i.val) = (if d.val + i.val = 0 then 0 else vget m.w i)) ∧ (t.dev.cl s.curC).inbox = rest ∧
        t.me.pc = s.me.pc + 4 ∧ (∀ r : GReg, (r.val < d.val ∨ d.val + 3 < r.val) → t.g r = s.g r) ∧ SameMemory s.dev t.dev)) ∧
    ((s.dev.cl s.curC).inbox = [] → Answers (.msgrecv d sc) s (Retries s))

/-! ### The steps that end waits -/

/-- 03 R95, 01 R18, 04 R142, R143, 17 R483: the ends of a strand's outstanding request. REPLY_PLACEMENT of a load's n bytes writes them,
extended, to its register and completes it; a reply of no bytes refuses it: zero is written, and PROTECTION with SUB 0xFF is reported.
PATH_TIMEOUT without a path refuses likewise. PRESENCE_REISSUE, when its time has come, answers a request whose word is now full, in a bank
that admits the cluster and an atom that is not poisoned, and traps its strand where the bank is BUSY (02 R72); DEFER_TIMEOUT past the
limit cancels one and traps its strand with DEFER_TIMEOUT, TRAPVAL the address.
Choices of the model: log 25. -/
def Obligations.OutstandingRequests : Prop :=
  ∀ (s : State) (c : ClusterId) (k : StrandIx) (r : Req) (d : GReg) (n : Nat) (sg : Bool) (bs : List Byte) (take : Bool) (h : ClusterId)
    (o t0 : Nat),
    let st := s.dev.strand c k
    let done := fun (t : State) (v : Word) => (t.dev.strand c k).getG d = (if d = 0 then 0 else v) ∧
      (t.dev.strand c k).pc = st.pc + 4 ∧ (∀ q, q ≠ d → (t.dev.strand c k).getG q = st.getG q) ∧ ∀ x ∈ (t.dev.cl c).reqs, x.tag ≠ r.tag
    (s.dev.cl c).reqs.find? (fun x => x.tag = r.tag) = some r → r.who = .strand k →
    (r.kind = .load d n sg → r.act.isSome = true → r.reply = none → (n = 1 ∨ n = 2 ∨ n = 4 ∨ n = 8) → (s.dev.cl c).signals = [] →
      (bs.length = n → Answers (.replyPlacement c r.tag bs) s (fun t =>
        done t (if sg = true ∧ n < 8 then BitVec.ofInt 64 (BitVec.ofNat (8 * n) (leNat bs)).toInt else BitVec.ofNat 64 (leNat bs)) ∧
        SameMemory s.dev t.dev)) ∧
      Answers (.replyPlacement c r.tag []) s (fun t => done t 0 ∧ ⟨.peer c k, c, k, .protection, 0xFF, r.addr⟩ ∈ t.dev.reports) ∧
      (r.port = none → s.dev.freePort = none → Answers (.pathTimeout c r.tag) s (fun t => done t 0 ∧
        ⟨.peer c k, c, k, .protection, 0xFF, r.addr⟩ ∈ t.dev.reports))) ∧
    (r.kind = .presence take h o d →
      (r.reissue = some t0 → t0 ≤ s.dev.now → s.dev.bankCheck (s.dev.partOf c) h o = some .bankMoved → Answers (.presenceReissue c r.tag) s (fun t =>
        (t.dev.strand c k).trapCause = Cause.bankMoved.code ∧ (t.dev.strand c k).trapVal = r.addr ∧ (t.dev.strand c k).trapPc = st.pc ∧
        (∀ x ∈ (t.dev.cl c).reqs, x.tag ≠ r.tag) ∧ t.dev.full = s.dev.full ∧ SameMemory s.dev t.dev)) ∧
      (r.reissue = some t0 → t0 ≤ s.dev.now → s.dev.bankCheck (s.dev.partOf c) h o = none →
        smem s.dev.poison (s.dev.scratchKeyOf h o / 64) = false → smem s.dev.full (s.dev.scratchKeyOf h o / 8) = true →
        Answers (.presenceReissue c r.tag) s (fun t => done t (leWord (memReadN s.dev.mem (s.dev.scratchKeyOf h o) 8)) ∧
          t.dev.full = (if take then sdel s.dev.full (s.dev.scratchKeyOf h o / 8) else s.dev.full) ∧ SameMemory s.dev t.dev)) ∧
      (r.limit ≠ 0 → r.reply = none → r.first + r.limit ≤ s.dev.now → Answers (.deferTimeout c r.tag) s (fun t =>
        (t.dev.strand c k).trapCause = 0x07 ∧ (t.dev.strand c k).trapVal = r.addr ∧ (t.dev.strand c k).trapPc = st.pc ∧
        (t.dev.strand c k).priv = true ∧ (t.dev.strand c k).ie = false ∧ (∀ q, (t.dev.strand c k).getG q = st.getG q) ∧
        (∀ x ∈ (t.dev.cl c).reqs, x.tag ≠ r.tag) ∧ t.dev.full = s.dev.full ∧ SameMemory s.dev t.dev)))

/-- 09 R299, R307, R309; 14 R427: ASYNC_TRAP_ENTRY takes the first report pending for a strand with IE = 1: TRAPPC is the next instruction
of a WFI or MONWAIT that ends so, and else the instruction not yet executed, and the report is gone; an instruction that was to be attempted
again gives up the reads of other devices that it has made. MONITOR_WAKE ends a MONWAIT whose
monitor has triggered and disarms it, and ends a WFI while a cause is pending.
Choices of the model: log 17, 22. -/
def Obligations.AsynchronousEntry : Prop :=
  ∀ (s : State) (c : ClusterId) (k : StrandIx) (r : Report) (m : Monitor) (hd : Bool) (ap : Apertures),
    let st := s.dev.strand c k
    (st.ie = true → s.dev.pending c k = some r → (∀ g x, r.src ≠ .region g x) →
      let gone : Dev := { s.dev with reports := s.dev.reports.filter (fun x => !(x.src = r.src && x.c = c && x.k = k)) }
      (∀ p ∈ [(StrandState.run, (0 : Word), gone), (.trap, 0, gone), (.wait .wfi hd, 4, gone), (.wait (.retry ap) hd, 0, gone.dropReads c k)],
        st.state = p.1 → Answers (.asyncTrapEntry c k) s (fun t =>
          t = s.after (p.2.2.modStrand c k (fun _ => t.dev.strand c k)) ∧
          (t.dev.strand c k).trapCause = r.cause.code ∧ (t.dev.strand c k).trapSub = r.sub ∧ (t.dev.strand c k).trapVal = r.val ∧
          (t.dev.strand c k).trapPc = st.pc + p.2.1 ∧ (t.dev.strand c k).ppriv = st.priv ∧ (t.dev.strand c k).pie = true ∧
          (t.dev.strand c k).priv = true ∧ (t.dev.strand c k).ie = false ∧
          (t.dev.strand c k).pc = BitVec.ofNat 64 (4 * st.trapVec.toNat) ∧ (t.dev.strand c k).g = st.g ∧ (t.dev.strand c k).f = st.f))) ∧
    (st.state = .wait .monwait hd → s.dev.monitors.find? (fun x => x.c = c && x.k = k) = some m → m.triggered = true →
      Answers (.monitorWake c k) s (fun t => (t.dev.strand c k).pc = st.pc + 4 ∧ (t.dev.strand c k).g = st.g ∧
        (t.dev.strand c k).state = (if hd then .trap else .run) ∧ (∀ x ∈ t.dev.monitors, ¬(x.c = c ∧ x.k = k)) ∧ SameMemory s.dev t.dev)) ∧
    (st.state = .wait .wfi hd → s.dev.pending c k = some r → Answers (.monitorWake c k) s (fun t =>
      (t.dev.strand c k).pc = st.pc + 4 ∧ (t.dev.strand c k).state = (if hd then .trap else .run) ∧ t.dev.reports = s.dev.reports))

/-- 09 R299, R307, R315; 03 R95; 04 R142 to R144, R161; 17 R483: more ways in which launches and waits complete. GLAUNCH completes for
every 64-byte token in LOCAL scratchpad, in a bank that admits the strand and not poisoned, with nothing of the cluster left to perform: g[d]
takes the dispatcher's answer, and the machine is as the dispatcher leaves it. REPLY_PLACEMENT of an atomic's old value writes it sign-extended
and completes the strand's instruction, and of a store's acknowledgement ends the request; PATH_TIMEOUT of an atomic refuses it: zero, and a
report. PRESENCE_REISSUE of a generator's request whose word is full keeps the word as its reply and, for a TAKE, empties the word; with the
word empty and the bank's table full it is issued again 32 cycles later. DEFER_TIMEOUT takes the request out of every wait table.
ASYNC_TRAP_ENTRY of a strand that waits for a presence word cancels that request; MONITOR_WAKE ends a MONWAIT on a pending cause, whatever
IE is (R307).
Choices of the model: log 17, 25. -/
def Obligations.LaunchesAndEndsOfWaits : Prop :=
  ∀ (s : State) (d a : GReg) (off : Nat) (p : PartId) (c : ClusterId) (k : StrandIx) (r : Req) (n : Nat) (bs : List Byte) (take : Bool)
    (h : ClusterId) (o t0 : Nat) (g : AgIx) (bi : Fin 4) (ei : Nat) (m : Monitor) (q : Report) (hd : Bool),
    let key0 := s.dev.scratchKeyOf s.curC off
    let tok : HandTok := ⟨words8 (memReadN s.dev.mem key0 64), p, .strand s.curC s.curK, 3, 15, !s.me.priv⟩
    let st := s.dev.strand c k
    let key := s.dev.scratchKeyOf h o
    let bank := ((s.dev.cl h).bankMap o).1
    let found := fun (t : State) => (t.dev.cl c).reqs.find? (fun x => x.tag = r.tag)
    let done := fun (t : State) (v : Word) => (t.dev.strand c k).getG d = (if d = 0 then 0 else v) ∧
      (t.dev.strand c k).pc = st.pc + 4 ∧ (∀ q, q ≠ d → (t.dev.strand c k).getG q = st.getG q) ∧ found t = none
    ((s.g a).toNat % 64 = 0 → s.ctx.ap.decode (s.g a).toNat = some (1, off) → off < 0xC00000 → s.dev.partOf s.curC = some p →
      s.dev.bankCheck (some p) s.curC off = none → smem s.dev.poison (key0 / 64) = false → Released s.dev s.curC s.curK 3 →
      Answers (.glaunch d a) s (fun t => ∃ v e, s.dev.submit (dieOf s.curC) tok = (v, e) ∧ WritesG d v 4 (s.after e) t)) ∧
    (found s = some r → r.act.isSome = true → r.reply = none → r.who = .strand k → (s.dev.cl c).signals = [] →
      (r.kind = .atomic d n → (n = 4 ∨ n = 8) →
        (bs.length = n → Answers (.replyPlacement c r.tag bs) s (fun t =>
          done t (BitVec.ofInt 64 (BitVec.ofNat (8 * n) (leNat bs)).toInt) ∧ SameMemory s.dev t.dev)) ∧
        (r.port = none → s.dev.freePort = none → Answers (.pathTimeout c r.tag) s (fun t => done t 0 ∧
          ⟨.peer c k, c, k, .protection, 0xFF, r.addr⟩ ∈ t.dev.reports ∧ SameMemory s.dev t.dev))) ∧
      (r.kind = .store → Answers (.replyPlacement c r.tag []) s (fun t => t = s.after (s.dev.dropReq c r.tag)))) ∧
    (found s = some r → r.kind = .presence take h o d → r.reissue = some t0 → t0 ≤ s.dev.now → s.dev.bankCheck (s.dev.partOf c) h o = none →
      (r.who = .gen g bi ei → smem s.dev.full (key / 8) = true → Answers (.presenceReissue c r.tag) s (fun t =>
        found t = some { r with reply := some (memReadN s.dev.mem key 8), reissue := none } ∧
        t.dev.full = (if take then sdel s.dev.full (key / 8) else s.dev.full) ∧ SameMemory s.dev t.dev)) ∧
      (smem s.dev.full (key / 8) = false → 64 ≤ ((s.dev.cl h).waits.filter (fun w => w.bank = bank)).length →
        Answers (.presenceReissue c r.tag) s (fun t => found t = some { r with reissue := some (s.dev.now + 32) } ∧
          t.dev.full = s.dev.full ∧ SameMemory s.dev t.dev ∧ ∀ j, t.dev.strand c j = s.dev.strand c j))) ∧
    (found s = some r → r.kind = .presence take h o d → r.who = .strand k → r.limit ≠ 0 → r.reply = none → r.first + r.limit ≤ s.dev.now →
      Answers (.deferTimeout c r.tag) s (fun t => (t.dev.strand c k).trapCause = 0x07 ∧ found t = none ∧
        ∀ e, ∀ w ∈ (t.dev.cl e).waits, ¬(w.reqCluster = c ∧ w.tag = r.tag))) ∧
    (st.ie = true → s.dev.pending c k = some q → (∀ g x, q.src ≠ .region g x) →
      st.state = .wait (.presence r.tag) hd → Answers (.asyncTrapEntry c k) s (fun t => found t = none ∧
        (∀ e, ∀ w ∈ (t.dev.cl e).waits, ¬(w.reqCluster = c ∧ w.tag = r.tag)) ∧ (t.dev.strand c k).trapCause = q.cause.code ∧
        (t.dev.strand c k).trapPc = st.pc ∧ (t.dev.strand c k).g = st.g ∧ (t.dev.strand c k).priv = true ∧ (t.dev.strand c k).ie = false)) ∧
    (s.dev.pending c k = some q → st.state = .wait .monwait hd → s.dev.monitors.find? (fun x => x.c = c && x.k = k) = some m →
      Answers (.monitorWake c k) s (fun t => (t.dev.strand c k).pc = st.pc + 4 ∧ (t.dev.strand c k).state = (if hd then .trap else .run) ∧
        (∀ x ∈ t.dev.monitors, ¬(x.c = c ∧ x.k = k)) ∧ t.dev.reports = s.dev.reports ∧ SameMemory s.dev t.dev))

/-! ### Homes, walks and translation registers -/

/-- 04 R121, R123: HOME_REQUEST performs the buffered write it names, if no older one of the buffer overlaps it: the write leaves the buffer and
is performed at its home, and with it one that completes its line (03 R91). With the words of a page walk (01 R30) the cluster's state does
not change. A refresh of a held bank is postponed up to seven times (03 R99), data unchanged.
Choices of the model: log 28, 29. -/
def Claim.HomesAndRefresh : Prop :=
  ∀ (s : State) (c : ClusterId) (i : Nat) (w : Pending) (u : Unit') (row : Bool) (va : BitVec 52) (kind : AccKind) (p : PartId) (id : Ident)
    (ag : Option Nat) (pa : Nat) (e : Word) (d1 : Dev) (stack : Fin 12) (pc : Fin 96) (bank : Fin 64),
    let ix := (96 * stack.val + pc.val) * 64 + bank.val
    let held := (tget s.dev.refresh ix).getD 0
    ((s.dev.cl c).buffer[i]? = some w → s.dev.pendingHeld c i w = false →
      (s.dev.mateOf c i w = none → Answers (.homeRequest c i .clean) s (fun t =>
        t.dev = (s.dev.modCl c (fun cl => { cl with buffer := cl.buffer.eraseIdx i })).perform c w ∧
        (t.dev.cl c).buffer = (s.dev.cl c).buffer.eraseIdx i)) ∧
      (∀ j o, s.dev.mateOf c i w = some (j, o) → ∀ ecc, Answers (.homeRequest c i ecc) s (fun t =>
        let left := ((s.dev.cl c).buffer.eraseIdx (Nat.max i j)).eraseIdx (Nat.min i j)
        t.dev = (s.dev.modCl c (fun cl => { cl with buffer := left })).performLine c w o ∧ (t.dev.cl c).buffer = left))) ∧
    (s.dev.partOf c = some p → s.dev.walkIdent c u = some (id, ag) → s.dev.translate (dieOf c) p id row kind va.toNat = (.ok pa e, d1) →
      Answers (.pageWalk c u row va kind) s (fun t => t = s.after d1 ∧ t.dev.clusters = s.dev.clusters)) ∧
    (held < 7 → Answers (.refresh stack pc bank true) s (fun t => tget t.dev.refresh ix = some (held + 1) ∧ SameMemory s.dev t.dev ∧
      { t.dev with refresh := s.dev.refresh } = s.dev)) ∧
    (List.Pairwise (· < ·) (s.dev.refresh.map (·.1)) → ∀ b, (b = false ∨ held = 7) → Answers (.refresh stack pc bank b) s (fun t =>
      tget t.dev.refresh ix = none ∧ { t.dev with refresh := s.dev.refresh } = s.dev))

/-- The bytes that a cluster's buffered writes hold of one atom of a partition's memory, oldest first. -/
def heldCells (d : Dev) (c : ClusterId) (p : PartId) (pa : Nat) : List (Nat × Byte) :=
  ((d.cl c).buffer.filter (fun w => match w.dest, w.cells with
    | .phys q _ _, (a, _) :: _ => q = p && decide (a / 64 = pa / 64)
    | _, _ => false)).flatMap (·.cells)

/-- 04 R121, R123; 03 R91: after a write is performed at its home, an uncached read of its atom there gives each byte of the write, and every other byte of
the atom as a read through the same page gave it before. A read of memory by an agent of a cluster answers n bytes of one granule, each the newest that the cluster's
buffered writes hold of that byte, and where they hold none the byte at the home. (The premise on class 2: that memory is not encrypted, 03 R102.) -/
def Claim.MemoryAtHomes : Prop :=
  ∀ (d : Dev) (c : ClusterId) (w : Pending) (p : PartId) (cache : BitVec 2) (enc : Bool) (pa : Nat) (x : Ctx) (ga : Word) (n ca : Nat) (narrow : Bool),
    (w.dest = .phys p cache enc → w.cells ≠ [] → (∀ e ∈ w.cells, e.1 / 64 = pa) → (w.cells.map (·.1)).Nodup → (paClass (64 * pa) < 2 ∨ enc = false) →
      (w.va = none ∨ (d.part p).tr.accMode = 0) → Memory.wf d.mem = true → List.Pairwise (· < ·) (d.enc.map (·.1)) →
      let old := (d.homeRead p (64 * pa) 64 cache.toNat enc false).1.1
      let new := ((d.perform c w).homeRead p (64 * pa) 64 2 enc false).1.1
      new.length = 64 ∧ ∀ i < 64, new.getD i 0 = ((w.cells.find? (fun e => e.1 = 64 * pa + i)).map (·.2)).getD (old.getD i 0)) ∧
    (d.signalWaits x (.phys p pa ca enc) = false → pa % 64 + n ≤ 64 →
      ∃ (bs : List Byte) (po : Bool) (e : Dev), readT x ga (.phys p pa ca enc) n narrow d = (.ok (bs, po), e) ∧ bs.length = n ∧
        ∀ i < n, bs.getD i 0 = ((((heldCells d x.c p pa).filter (fun e => e.1 % 64 = (pa + i) % 64)).getLast?).map (·.2)).getD
          ((d.homeRead p pa n ca enc narrow).1.1.getD i 0))

/-- 02 R61: the chunk that waits first at a memory node whose buffer being filled is not full is written at FPTR's buffer; FCNT grows, and
the chunk that completes the buffer sets its FULL bit and moves FPTR on, modulo NB. A poisoned chunk of a half that poisons the atom is
counted (06 R217). A place past the node's 256 KiB wraps within it.
Choices of the model: log 118. -/
def Claim.NodeChunks : Prop :=
  ∀ (s : State) (c : ClusterId) (n : MnIx) (h : NodeChunk) (rest : List NodeChunk),
    let x := vget (s.dev.cl c).memNodes n
    let key := nodeKey c.val n.val ((x.fptr.toNat * (x.bufu.toNat * 4096) + h.off) % 2 ^ 18)
    x.wait = h :: rest → x.nb ≠ 0 → x.full.getLsbD x.fptr.toNat = false → h.data.length = 32 → key % 64 + 32 ≤ 64 →
    Memory.wf s.dev.mem = true →
    Answers (.mnChunkWrite c n h.off h.data h.poison) s (fun t =>
      let y := vget (t.dev.cl c).memNodes n
      memReadN t.dev.mem key 32 = h.data ∧ SameMemoryOutside key 32 s.dev t.dev ∧ y.wait = rest ∧
      (x.fcnt + 1 ≠ x.fillu → y.fcnt = x.fcnt + 1 ∧ y.full = x.full ∧ y.fptr = x.fptr) ∧
      (x.fcnt + 1 = x.fillu → y.fcnt = 0 ∧ y.full.getLsbD x.fptr.toNat = true ∧ y.fptr.toNat = (x.fptr.toNat + 1) % x.nb.toNat % 16) ∧
      (h.poison = false → ∀ e, e ≠ c → t.dev.cl e = s.dev.cl e) ∧ t.dev.parts = s.dev.parts ∧
      ∀ oc r, h.owner = .drain oc r → h.poison = true → smem s.dev.poison (key / 64) = false →
        (t.dev.cl oc).poisonCount.toNat = Nat.min ((s.dev.cl oc).poisonCount.toNat + 1) 0xFFFFFFFF)

/-- Writes at their homes, what memory holds after them, walks, refreshes, and chunks at memory nodes: the three statements above. -/
def Obligations.HomesRefreshNodeChunks : Prop := Claim.HomesAndRefresh ∧ Claim.MemoryAtHomes ∧ Claim.NodeChunks

/-- 01 R39, R42 to R44: the fault queue's control registers of a partition. FQCTL with EN = 0 takes LOG2SIZE and BASE and, where they
change, zeroes HEAD, TAIL, CLOSE and OVFCOUNT; a write with EN = 0 while it is enabled disables it and closes its merge table, with EN = 1 changes
nothing. FQTAIL below TAIL or above HEAD only sets TERR; FQCLOSE never goes back and stops at HEAD. FQRETRY makes every command that was
suspended on a fault ready again. -/
def Claim.FaultQueueRegisters : Prop :=
  ∀ (s : State) (n : PartId) (v : Word) (c : ClusterId) (q : QueueIx),
    let t0 := (s.dev.part n).tr
    let new := fun (t : State) => (t.dev.part n).tr
    (t0.fqEn = false → v.getLsbD 63 = false → (v.toNat / 2 ^ 56 % 32 ≠ t0.fqLog2.toNat ∨ v.toNat / 64 % 2 ^ 46 ≠ t0.fqBase.toNat) →
      Answers (.fqctl n v) s (fun t => OnlyPart n s t ∧ (new t).fqEn = false ∧ (new t).fqLog2.toNat = v.toNat / 2 ^ 56 % 32 ∧
        (new t).fqBase.toNat = v.toNat / 64 % 2 ^ 46 ∧ (new t).fqHead = 0 ∧ (new t).fqTail = 0 ∧ (new t).fqClose = 0 ∧ (new t).fqOvfCount = 0)) ∧
    (t0.fqEn = true → Answers (.fqctl n v) s (fun t => OnlyPart n s t ∧
      new t = (if v.getLsbD 63 then t0 else { t0 with fqEn := false, merge := [] }))) ∧
    Answers (.fqtail n v) s (fun t => OnlyPart n s t ∧
      new t = (if v.toNat < t0.fqTail.toNat ∨ t0.fqHead.toNat < v.toNat then { t0 with terr := true } else { t0 with fqTail := v })) ∧
    Answers (.fqclose n v) s (fun t => OnlyPart n s t ∧
      new t = { t0 with fqClose := BitVec.ofNat 64 (Nat.max t0.fqClose.toNat (Nat.min v.toNat t0.fqHead.toNat)) }) ∧
    (v.getLsbD 0 = true → s.dev.partOf c = some n → (∀ r, (s.dev.region c r).st ≠ .faulted) → (s.dev.queue c q).held = false →
      Answers (.fqretry n v) s (fun t => (t.dev.queue c q).cmds = (s.dev.queue c q).cmds.map (fun k =>
        if k.faulted then { k with faulted := false, state := .active } else k)))

/-- 01 R36, R37, R45, R46: an invalidation waits in the partition's list; INVALIDATION_COMPLETE, once no engine of the partition works with
pages translated before and no signal operation waits with such a page, removes every entry that the list names from every slice and walk cache and
empties the list; ACCSYNC of a 1 reads 1 until ACCSYNC_COMPLETE, which waits likewise, and performs what the partition's clusters have buffered.
Choices of the model: log 30. -/
def Claim.InvalidationAndAccessCounts : Prop :=
  ∀ (s : State) (n : PartId) (asid : BitVec 16) (vpn : BitVec 36) (v : Word),
    let t0 := (s.dev.part n).tr
    (∀ f ∈ [(Instr.tlbinvVa n asid vpn, (⟨0, asid, vpn⟩ : Inval)), (.tlbinvAsid n asid, ⟨1, asid, 0⟩), (.tlbinvAll n, ⟨2, 0, 0⟩)],
      Answers f.1 s (fun t => OnlyPart n s t ∧ (t.dev.part n).tr = { t0 with invals := t0.invals ++ [f.2] })) ∧
    (t0.invals ≠ [] → (∀ c, s.dev.partOf c = some n → s.dev.pagesInUse c = false ∧ s.dev.signalsInUse c = false) → Answers (.invalidationComplete n) s (fun t =>
      (t.dev.part n).tr.invals = [] ∧
      (∀ die, ∀ e ∈ (t.dev.die die).tlb, e.part = n → ∀ i ∈ t0.invals, i.namesTlb e = false) ∧
      (∀ die, ∀ e ∈ (t.dev.die die).walk, e.part = n → ∀ i ∈ t0.invals, i.namesWalk e = false) ∧
      (∀ c, s.dev.partOf c = some n → (t.dev.cl c).buffer = []))) ∧
    (v.getLsbD 0 = true → Answers (.accsync n v) s (fun t => OnlyPart n s t ∧ (t.dev.part n).tr = { t0 with accSync := true })) ∧
    ((∃ c, s.dev.partOf c = some n ∧ (s.dev.pagesInUse c = true ∨ s.dev.signalsInUse c = true)) → Answers (.accsyncComplete n) s (fun t => t = s)) ∧
    ((∀ c, s.dev.partOf c = some n → s.dev.pagesInUse c = false ∧ s.dev.signalsInUse c = false) → Answers (.accsyncComplete n) s (fun t =>
      (t.dev.part n).tr.accSync = false ∧ (∀ c, s.dev.partOf c = some n → (t.dev.cl c).buffer = []) ∧
      ((∀ c, s.dev.partOf c = some n → (s.dev.cl c).buffer = []) → OnlyPart n s t ∧ (t.dev.part n).tr = { t0 with accSync := false })))

/-- The fault queue, invalidations and access counts: the two statements above. -/
def Obligations.TranslationRegisters : Prop := Claim.FaultQueueRegisters ∧ Claim.InvalidationAndAccessCounts

/-- 03 R113, R114: a write of CHRETIRE with GO that names a pseudo-channel of the partition's map and one of its spares, none under way, starts
the retirement with ERR 0; RETIREMENT_COMPLETE puts the spare in the map's places of the channel, moves MAPVER on and ends it, every byte
of storage outside the spare as it was.
Choices of the model: log 27. -/
def Obligations.ChannelRetirement : Prop :=
  ∀ (s : State) (n : PartId) (v : Word) (pcx spare : Nat),
    let mb := (s.dev.part n).mb
    (v.getLsbD 63 = true → mb.retiring = none → v.toNat % 2 ^ 11 ∈ mb.cmap → s.dev.isSpare n (v.toNat / 2 ^ 16 % 2 ^ 11) = true →
      v.toNat / 2 ^ 16 % 2 ^ 11 ∉ mb.cmap → (∀ e ∈ mb.pieces, e.2 ≠ v.toNat / 2 ^ 16 % 2 ^ 11) →
      Answers (.chretire n v) s (fun t => OnlyPart n s t ∧ (t.dev.part n).mb.chErr = 0 ∧
        (t.dev.part n).mb.retiring = some (v.toNat % 2 ^ 11, v.toNat / 2 ^ 16 % 2 ^ 11) ∧ (t.dev.part n).mb.cmap = mb.cmap)) ∧
    (mb.retiring = some (pcx, spare) → pcx ≠ spare → Answers (.retirementComplete n) s (fun t =>
      let mb' := (t.dev.part n).mb
      mb'.retiring = none ∧ mb'.mapVer = mb.mapVer + 1 ∧ mb'.cmap = mb.cmap.map (fun x => if x = pcx then spare else x) ∧
      mb'.retired = mb.retired ++ [(pcx, spare, (mb.mapVer + 1).toNat)] ∧ t.dev.clusters = s.dev.clusters ∧
      ∀ q, (q < spare * 2 ^ 29 ∨ (spare + 1) * 2 ^ 29 ≤ q) → memRead t.dev.mem q = memRead s.dev.mem q))

/-! ### Partitions, watchdogs, snapshots, links -/

/-- 17 R485, R486, R472, R493; 14 R453, R454: after bring-up phase 2, SETUP of an OFF partition whose maps are in order makes it SETTING, with
the PID that the write gives; SETUP_DONE makes it READY with the ways that its map gives; RESET makes a READY one RESETTING and
PARTITION_RESET_COMPLETE makes that READY with ERR 0; RELEASE of one that is not READY sets ERR 3; FLR resets a READY partition, and D3HOT_ENTRY
does so and holds it in D3hot; such a reset, no command of PCTL, leaves ERR as it is. A write before phase 2 is held, behind those that came before it.
Choices of the model: log 31, 32, 34. -/
def Claim.PartitionCommands : Prop :=
  ∀ (s : State) (n : PartId) (v : Word),
    let p := s.dev.part n
    let command := fun (a b c : Bool) => v.getLsbD 63 = a ∧ v.getLsbD 62 = b ∧ v.getLsbD 61 = c
    let ready := fun (t : State) => (t.dev.part n).state = .ready ∧ (t.dev.part n).err = 0
    (s.dev.phases.getLsbD 1 = true →
      (command true false false → p.state = .off → (s.dev.setupErr n = 0 ∨ s.dev.setupErr n = 6) →
        (∀ q, q ≠ n → (s.dev.part q).state ≠ .off → (s.dev.part q).pid.toNat ≠ v.toNat / 2 ^ 32 % 2 ^ 12) →
        Answers (.setup n v) s (fun t => OnlyPart n s t ∧ (t.dev.part n).state = .setting ∧
          (t.dev.part n).pid.toNat = v.toNat / 2 ^ 32 % 2 ^ 12)) ∧
      (command false true false → p.state = .ready → Answers (.reset n v) s (fun t => (t.dev.part n).state = .resetting ∧
        (t.dev.part n).after = .ready)) ∧
      (command false false true → p.state = .ready → Answers (.release n v) s (fun t => (t.dev.part n).state = .resetting ∧
        (t.dev.part n).after = .off)) ∧
      (command false false true → p.state = .off → Answers (.release n v) s (fun t => (t.dev.part n).state = .off ∧ (t.dev.part n).err = 3))) ∧
    (s.dev.phases.getLsbD 1 = false → ∀ f ∈ [(Instr.setup n v, 63), (.reset n v, 62), (.release n v, 61)], v.getLsbD f.2 = true →
      Answers f.1 s (fun t => t = s.after { s.dev with heldPctl := s.dev.heldPctl ++ [(n, v)] })) ∧
    (p.state = .setting → p.heldCmds = [] → Answers (.setupDone n) s (fun t => (t.dev.part n).state = .ready ∧
      (t.dev.part n).mb.ways = vget s.dev.pways n ∧ (t.dev.part n).key = none)) ∧
    (p.state = .resetting → p.after = .ready → p.heldCmds = [] → Answers (.partitionResetComplete n) s ready) ∧
    (p.state = .resetting → p.after = .kept → p.heldCmds = [] → Answers (.partitionResetComplete n) s (fun t =>
      (t.dev.part n).state = .ready ∧ (t.dev.part n).err = p.err)) ∧
    (p.state = .ready → Answers (.flr n) s (fun t => (t.dev.part n).state = .resetting ∧ (t.dev.part n).after = .kept)) ∧
    (p.state = .ready → p.d3hot = false → Answers (.d3hotEntry n) s (fun t => (t.dev.part n).state = .resetting ∧ (t.dev.part n).after = .kept ∧
      (t.dev.part n).d3hot = true))

/-- 14 R453, R454; 17 R479: PWDKICK of 0xA5 starts the watchdog's count again, any other value does nothing. Once its count has reached its limit the first stage
sets EXP1 and reports WATCHDOG with TRAPVAL 1 to the strand that PWD names; once it has reached twice the limit the second sets EXP2 and sends the host's
vector 0; each does so once. A write of HOSTIRQ with RING sends vector 3.
Choices of the model: log 36. -/
def Claim.Watchdog : Prop :=
  ∀ (s : State) (n : PartId) (v : Word) (c : ClusterId),
    let b := (s.dev.part n).db
    Answers (.pwdkick n v) s (fun t => OnlyPart n s t ∧
      (t.dev.part n).db = (if v.toNat % 256 = 0xA5 then { b with wdFrom := s.dev.now, wdStage := 0 } else b)) ∧
    (b.wdEn = true → b.wdLimit ≠ 0 → b.wdStage = 0 → b.wdFrom + b.wdLimit.toNat * 2 ^ 20 ≤ s.dev.now → b.wdTcl.toNat = c.val →
      s.dev.partOf c = some n → Answers (.watchdogFirstStage n) s (fun t => (t.dev.part n).db = { b with exp1 := true, wdStage := 1 } ∧
        ∃ r ∈ t.dev.reports, r.src = .watchdog n ∧ r.c = c ∧ r.k.val = b.wdTstr.toNat ∧ r.cause = .watchdog ∧ r.sub = 0 ∧ r.val = 1)) ∧
    (b.wdEn = true → b.wdLimit ≠ 0 → b.wdStage < 2 → b.wdFrom + 2 * b.wdLimit.toNat * 2 ^ 20 ≤ s.dev.now → b.wdAction = 0 →
      Answers (.watchdogSecondStage n) s (fun t => (t.dev.part n).db = { b with exp2 := true, wdStage := 2 } ∧
        ∃ f, f.val = n.val + 1 ∧ t.dev.sent = s.dev.sent ++ [.msix f 0])) ∧
    ((s.dev.now < b.wdFrom + b.wdLimit.toNat * 2 ^ 20 ∨ 1 ≤ b.wdStage) → Answers (.watchdogFirstStage n) s (fun t => t = s)) ∧
    (v.getLsbD 0 = true → Answers (.hostirq n v) s (fun t => ∃ f, f.val = n.val + 1 ∧
      t = s.after { s.dev with sent := s.dev.sent ++ [.msix f 3] }))

/-- Partition commands and the watchdog: the two statements above. -/
def Obligations.PartitionCommandsAndWatchdog : Prop := Claim.PartitionCommands ∧ Claim.Watchdog

/-- 17 R490, R491, 09 R309: with the partition's PSNAP armed and no latch pending, SNAP by a strand that may raise it, the counter of a cluster
with CMEN at its CMATCH, and a write of TRIG each leave a latch 32 cycles on that names the partition and the source; SNAPIN leaves one
that reaches the device block; SNAP_LATCH, when it is due, clears ARM, sets FIRED and the source, and pulses SNAPOUT. SNAP at user
privilege with UEN = 0 traps with PROTECTION. -/
def Obligations.Snapshots : Prop :=
  ∀ (s : State) (c : ClusterId) (n : PartId) (v : Word) (l : Latch) (src : BitVec 2) (cl : BitVec 7),
    let at32 := fun (x : PartId × BitVec 2 × BitVec 7) (t : State) => t.dev.latch = some ⟨s.dev.now + 32, [x], false⟩ ∧ SameMemory s.dev t.dev
    ((s.dev.part n).pf.snArm = true → s.dev.latch = none →
      ((s.me.priv = true ∨ (s.dev.cl s.curC).snapUen = true) → s.dev.partOf s.curC = some n → Answers .snap s (fun t =>
        at32 (n, 0, BitVec.ofNat 7 s.curC.val) t ∧ StrandAt (s.me.pc + 4) s t)) ∧
      ((s.dev.cl c).snapCmen = true → s.dev.now % 2 ^ 48 = (s.dev.cl c).cmatch.toNat → s.dev.partOf c = some n →
        Answers (.counterTrigger c) s (at32 (n, 1, BitVec.ofNat 7 c.val))) ∧
      (v.getLsbD 58 = true → v.getLsbD 63 = true → Answers (.trig n v) s (at32 (n, 3, 0)))) ∧
    (s.me.priv = false → (s.dev.cl s.curC).snapUen = false → Answers .snap s (Traps .protection 0 0x78000600 s.me.pc s)) ∧
    (s.dev.latch = none → (∀ q, (s.dev.part q).pf.snPin = false) → Answers .snapin s (fun t =>
      t = s.after { s.dev with latch := some ⟨s.dev.now + 32, [], true⟩ })) ∧
    (s.dev.latch = some l → l.due ≤ s.dev.now → l.parts = [(n, src, cl)] → Answers .snapLatch s (fun t => t.dev.latch = none ∧
      (t.dev.part n).pf = { (s.dev.part n).pf with snArm := false, snFired := true, snSrc := src, snCluster := cl } ∧
      t.dev.sent = s.dev.sent ++ [.snapOut] ∧ SameMemory s.dev t.dev))

/-- 04 R137, 17 R472, 00 R7: REGISTER_WRITE of an aligned register through BAR0 performs the write of the register that the function reaches;
a read of MEMERR, PEERERR, DISPERR, INGSTAT or LINKSTAT through BAR0 answers the register's eight bytes and leaves what the read leaves; while
the partition is reset it is refused and counted (14 R455).
Choices of the model: log 35. -/
def Claim.HostRegisterAccess : Prop :=
  ∀ (s : State) (n : PartId) (w : WindowIx) (p : LinkIx) (off o : Nat) (v : Word),
    let f := PartId.func n
    (s.dev.functionUp f = true → off % 8 = 0 → (s.dev.part n).state ≠ .resetting → (s.dev.part n).d3hot = false →
      s.dev.bar0 f off = some o → Answers (.registerWrite f off v) s (fun t => t = s.after (s.dev.regWrite o v))) ∧
    (∀ r ∈ [(Instr.memerrRead n, f, 0x1008), (.peererrRead n, f, 0x4018), (.disperrRead n, f, 0x2020), (.ingstatRead n w, f, 0x3008 + 16 * w.val),
        (.linkstatRead p, 0, 0x2000600 + 8 * p.val)], s.dev.functionUp r.2.1 = true →
      (s.dev.part n).state ≠ .resetting → ∃ a, s.dev.bar0 r.2.1 r.2.2 = some a ∧ Answers r.1 s (fun t =>
        t.dev.sent = (s.dev.regRead a).2.sent ++ [.readData (leBytes 8 (s.dev.regRead a).1.toNat)] ∧
        { t.dev with sent := (s.dev.regRead a).2.sent } = (s.dev.regRead a).2)) ∧
    (s.dev.functionUp f = true → (s.dev.part n).state = .resetting → Answers (.memerrRead n) s (fun t =>
      t.dev.sent = s.dev.sent ++ [.unsupported] ∧ (t.dev.part n).mb = (s.dev.part n).mb ∧
      (t.dev.part n).pf.peerErr.toNat = Nat.min ((s.dev.part n).pf.peerErr.toNat + 1) 0xFFFFFFFF)) ∧
    ((s.dev.regRead (0x1000000 + 0x10000 * n.val + 0x4018)).1.toNat % 2 ^ 32 = (s.dev.part n).pf.peerErr.toNat ∧
      ((s.dev.regRead (0x1000000 + 0x10000 * n.val + 0x4018)).2.part n).pf.peerErr = 0)

/-- 17 R481, R483: a flit with a bad CRC counts in its port's RETRY; a message with a sequence number received before is discarded and
another is remembered; a request is performed once for the message that brought it, and not again under a number that its source has used for the
partition; requests to a member carry 16-bit numbers in order; LINK_DEGRADED takes an UP port to 4 lanes, and LINK_DOWN takes a port down and sends its requests by another.
Choices of the model: log 34. -/
def Claim.Links : Prop :=
  ∀ (s : State) (p : LinkIx) (src : Nat) (seq : BitVec 16) (n : PartId) (off : BitVec 40) (acc : PeerAccess) (m : Fin 4096) (c : ClusterId) (r : Req)
    (sn : Nat),
    let l := vget s.dev.links p
    Answers (.flitReceive p false src seq) s (fun t => { t.dev with links := s.dev.links } = s.dev ∧
      vget t.dev.links p = { l with retry := BitVec.ofNat 32 (Nat.min (l.retry.toNat + 1) 0xFFFFFFFF) }) ∧
    ((src, seq.toNat) ∈ s.dev.received → Answers (.flitReceive p true src seq) s (fun t => t = s)) ∧
    ((src, seq.toNat) ∉ s.dev.received → Answers (.flitReceive p true src seq) s (fun t => (src, seq.toNat) ∈ t.dev.received ∧
      { t.dev with received := s.dev.received } = s.dev)) ∧
    ((∀ q a, acc ≠ .numbered q a) → Answers (.incomingPeerAccess m n off acc) s (fun t => t = s)) ∧
    ((m.val, seq.toNat) ∉ s.dev.received → Answers (.incomingPeerAccess m n off (.numbered seq acc)) s (fun t => t = s)) ∧
    ((m.val, seq.toNat) ∈ s.dev.received → (m.val * 8 + n.val, seq.toNat) ∈ s.dev.performed →
      Answers (.incomingPeerAccess m n off (.numbered seq acc)) s (fun t =>
        t = s.after { s.dev with received := s.dev.received.erase (m.val, seq.toNat) })) ∧
    ((m.val, seq.toNat) ∈ s.dev.received → (m.val * 8 + n.val, seq.toNat) ∉ s.dev.performed →
      Answers (.incomingPeerAccess m n off (.numbered seq acc)) s (fun t =>
        t.dev.received = s.dev.received.erase (m.val, seq.toNat) ∧ (m.val * 8 + n.val, seq.toNat) ∈ t.dev.performed)) ∧
    (r.act.isSome = true → tget s.dev.seqs (((s.dev.partOf c).map (·.val)).getD 8 * 4096 + r.member) = some sn → sn < 65536 →
      (s.dev.numberReq c r).1.seq = sn ∧
      tget (s.dev.numberReq c r).2.seqs (((s.dev.partOf c).map (·.val)).getD 8 * 4096 + r.member) = some ((sn + 1) % 65536)) ∧
    (l.state = 2 → Answers (.linkDegraded p) s (fun t => vget t.dev.links p = ⟨l.retry, 4, 3⟩ ∧ { t.dev with links := s.dev.links } = s.dev)) ∧
    Answers (.linkDown p) s (fun t => (vget t.dev.links p).state = 0 ∧ (vget t.dev.links p).lanes = 0 ∧
      (∀ q, q ≠ p → vget t.dev.links q = vget s.dev.links q) ∧
      (∀ c, ∀ r ∈ (t.dev.cl c).reqs, r.port ≠ some p) ∧ (∀ c, (t.dev.cl c).reqs.map (·.tag) = (s.dev.cl c).reqs.map (·.tag)) ∧
      SameMemory s.dev t.dev)

/-- The host's register accesses, and links: the two statements above. -/
def Obligations.HostRegistersAndLinks : Prop := Claim.HostRegisterAccess ∧ Claim.Links

/-! ### Regions -/

/-- 05 R168 to R171, R175, R176, R189; 14 R434. A REGION_CYCLE that passes the weir, if it stands at one, and whose slot lacks nothing and meets
no fault executes the slot: the slot counter moves on, modulo W, and after the last slot the region stands at its weir; a slot that lacks
something freezes the region under the lowest of the stall codes, everything else as it was, what it has read not counted; REGION_RESUME does the same for a frozen region,
which runs again. A running kernel with iterations left starts one at its wrap: its eight stage predicates shift in a 1. REGION_STOP at the weir of a
region that stops, its half drained and its nodes at a boundary, makes it STOPPED, the state of each kernel it has recorded.
Choices of the model: log 40, 44. -/
def Obligations.RegionSteps : Prop :=
  ∀ (s : State) (c : ClusterId) (r : RegionIx) (d0 d1 : Dev) (p : SlotPlan) (fill : List Granule) (fs : List RFault) (k : Kernel) (cfg : KernCfg)
    (need : Nat),
    let x := s.dev.region c r
    let y := d1.region c r
    let moved := fun (t : State) =>
      let z := t.dev.region c r
      t = s.after ((d1.execSlot c r p fill).modRegion c r (fun v => if v.st = .frozen then { v with st := .running, fcause := 0 } else v)) ∧
      z.st = .running ∧ z.slot = (if y.w ≤ y.slot + 1 then 0 else y.slot + 1) ∧ z.weir = (if y.w ≤ y.slot + 1 then .whole else .none) ∧
      z.cyc = y.cyc + 1 ∧ z.round = y.round ∧ z.period = y.period ∧ SameMemory d1 t.dev ∧
      ∀ n, (vget z.kernels n).st = (vget y.kernels n).st ∧ (vget z.kernels n).sp = (vget y.kernels n).sp ∧
        (vget z.kernels n).iters = (vget y.kernels n).iters
    let froze := fun (t : State) => t = s.after ({ d1 with counts := d0.counts }.modRegion c r
      (fun z => { z with st := .frozen, fcause := lowest p.stalls }))
    (s.dev.passWeir c r = ([], d0) → (d0.region c r).weir = .none → d0.planSlot c r = (p, d1) → (d0.region c r).st = x.st → y.st = x.st →
      d1.takeStores c r (moveRim (d0.region c r).rim) p.stores = (fill, fs) →
      (x.st = .running → (x.busy && s.dev.preemptDue c r) = false →
        (p.stalls = [] → firstFault (p.faults ++ fs) = none → Answers (.regionCycle c r) s moved) ∧
        (p.stalls ≠ [] → firstFault p.walked = none → Answers (.regionCycle c r) s froze)) ∧
      (x.st = .frozen → x.weir = .none →
        (p.stalls = [] → firstFault (p.faults ++ fs) = none → Answers (.regionResume c r) s moved) ∧
        (p.stalls ≠ [] → firstFault p.walked = none → (y.busy && d1.preemptDue c r) = false → Answers (.regionResume c r) s froze))) ∧
    (k.cfg = some cfg → k.st = .running → k.exit_ = false → k.noTrip = false → k.trips ≠ 0 → 1 ≤ cfg.s → cfg.s ≤ 8 →
      let k' := k.wrap need
      k'.st = .running ∧ k'.iters = k.iters + 1 ∧ k'.periods = k.periods + 1 ∧ k'.trips = k.trips - 1 ∧ k'.sp.getLsbD 0 = true ∧
      (∀ i < 8, 0 < i → k'.sp.getLsbD i = k.sp.getLsbD (i - 1))) ∧
    (x.st = .stopping → x.weir = .wrap → x.stop = true → x.commit = none → x.drain = none → s.dev.nodeBusy c r = false →
      s.dev.tiedBusy c r = false →
      Answers (.regionStop c r) s (fun t =>
        let z := t.dev.region c r
        z.st = .stopped ∧ z.stop = false ∧ z.round = x.round ∧ z.slot = x.slot ∧
        ((∀ e ∈ (s.dev.cl c).step.entries.toList, e.tiedTo r = false) → SameMemory s.dev t.dev) ∧
        ∀ n, (vget x.kernels n).cfg.isSome = true →
          (vget z.kernels n).st = .stopped ∧ (vget z.kernels n).was = (vget x.kernels n).recorded))

/-- 02 R79, R80, R83, R84; 04 R146; 05 R178, R181. DRAIN_WRITE of a granule in scratchpad, with no PUT in it and neither it nor its atom
poisoned, and no earlier round's write still on its way, writes the bytes that its mask names, but for those that another cluster has written in
the cycle, and no other, and the granule leaves the half; DRAIN_COMPLETE of an empty half releases at the
drain scope and ends the drain; AG_RUN_AHEAD_ISSUE of a loader below its LEAD, for a firing of the round or of the next, puts its next vector behind those ahead; STREAM_PACKET_ARRIVAL
moves the first packet that a source may send to the input port that has room for it, where a MARKER that comes to the head of a port without PUNCT is removed.
Choices of the model: log 46, 103. -/
def Obligations.DrainsAndStreams : Prop :=
  ∀ (s : State) (c : ClusterId) (r : RegionIx) (i : Nat) (h : Half) (g : Granule) (home : ClusterId) (o : Nat) (d1 : Dev) (ai : AgIx)
    (bn : Fin 4) (b : AgBlock) (v : AgVec) (p sp : PortIx) (sc : ClusterId) (cfg : PortCfg) (k : Packet) (rest : List Packet),
    let x := s.dev.region c r
    let cx : Ctx := ⟨c, .drain r, (vget x.kernels g.kern).id, h.ap⟩
    let key := s.dev.scratchKeyOf home o
    let ax := agCtx c x ai bn b b.issue.ord
    let kn := vget x.kernels ((x.kernelOf b).getD 0)
    let port := fun (t : State) (a : ClusterId) (n : PortIx) => vget (t.dev.cl a).fab.ports n
    (x.drain = some h → h.grans[i]? = some g → g.waiting = false → g.plain ≠ 0 → g.puts = 0 → g.poison = false →
      s.dev.olderWrites c r h.round = (false, s.dev) →
      uResolve cx .write (g.addr, 64) s.dev = (.ok (.scratch home o), s.dev) → s.dev.bankCheck (s.dev.partOf home) home o = none → o % 64 = 0 →
      key % 64 = 0 → smem s.dev.poison (key / 64) = false → Memory.wf s.dev.mem = true →
      Answers (.drainWrite c r i) s (fun t => (t.dev.region c r).drain = some { h with grans := h.grans.eraseIdx i } ∧
        SameMemoryOutside key 64 s.dev t.dev ∧
        ∀ j < 64, memRead t.dev.mem (key + j) =
          if g.plain.getLsbD j = true ∧ ¬(home = c ∧ key + j ∈ s.dev.remoteNow) then BitVec.ofNat 8 (g.data.toNat / 2 ^ (8 * j)) else memRead s.dev.mem (key + j))) ∧
    (x.drain = some h → h.grans = [] → s.dev.halfChunks c r = false →
      release c h.scope s.dev = (.ok (), d1) → Answers (.drainComplete c r) s (fun t => (t.dev.region c r).drain = none ∧
        (t.dev.region c r).drainedN = (d1.region c r).drainedN + 1 ∧ (t.dev.region c r).st = (d1.region c r).st ∧ SameMemory d1 t.dev)) ∧
    ((s.dev.agen c ai).region = some r → vget (s.dev.agen c ai).blocks bn = some b → (x.kernelOf b).isSome = true →
      (kn.st = .running ∨ kn.st = .exiting) → (x.st = .running ∨ x.st = .frozen ∨ x.st = .stopping) → b.store = false →
      (s.dev.cl c).isIndexSource r.val ai.val bn.val = false → b.ahead.length < b.lead →
      (b.ahead.length < x.firingsLeft b ∨ (kn.st = .running ∧ kn.exit_ = false ∧ s.dev.mayPassRound c r = true)) →
      (∀ w ∈ b.ahead, w.fault = none) → loadVector c x ai bn b (s.dev.indexBlock c b) ax b.issue s.dev = (.ok v, d1) →
      vget (d1.agen c ai).blocks bn = some b →
      Answers (.agRunAheadIssue c ai bn) s (fun t =>
        vget (t.dev.agen c ai).blocks bn = some { b with ahead := b.ahead ++ [v], issue := v.after } ∧ t.dev.region c r = d1.region c r ∧
        SameMemory d1 t.dev)) ∧
    ((vget (s.dev.cl c).fab.ports p).cfg = some cfg → cfg.out = false → (vget (s.dev.cl c).fab.ports p).peer = some (sc, sp) → (sc, sp) ≠ (c, p) →
      (vget (s.dev.cl sc).fab.ports sp).peer = some (c, p) → (vget (s.dev.cl sc).fab.ports sp).ready = k :: rest →
      (vget (s.dev.cl c).fab.ports p).roomFor k = true → k.bad = false → k.kind ≠ 3 →
      Answers (.streamPacketArrival c p) s (fun t => (port t c p).inq =
          (if (port s c p).rest = [] ∧ (port s c p).keeps k.kind = false then (port s c p).inq else (port s c p).inq ++ [k]) ∧ (port t sc sp).ready = rest ∧
        (∀ a n, (a, n) ≠ (c, p) → (a, n) ≠ (sc, sp) → port t a n = port s a n) ∧ t.dev.mem = s.dev.mem ∧ t.dev.parts = s.dev.parts))

/-! ### Matrix nodes -/

/-- 10 R330, R331, R332, R338, R340. The instance at the head of a node's queue starts when its operands' buffers are full, after the cycle of
its delivery and of the completion before it: an MMA or MMAS with ZERO then has its accumulator's elements at the identity. The next chunk of an
MMA or MMAS, its T cycles passed, accumulates into every element of its tile, and no other: an int8 one over plus and times adds the chunk's
products modulo 2^32; where the region stops, the instance stops at this boundary. MATRIX_INSTANCE_COMPLETE, 16 cycles after the last chunk of an MMA, ends the head instance: an MMA's tile as its chunks left it, a MZERO's all zero, an MSWAP's two
accumulators exchanged, an MLDA's elements the words of A. The two MGANGs of a gang of two, both at the heads of
their queues, complete together, no accumulator changing.
Choices of the model: log 120, 121. -/
def Obligations.MatrixOperations : Prop :=
  ∀ (s : State) (c : ClusterId) (n n2 : NodeIx) (h h2 : MInst) (rest rest2 : List MInst) (st p0 : Nat) (r k : Nat), r < 128 → k < 128 →
    let m := s.dev.node c n
    let e := h.entry
    let inTile := r < mxM e ∧ k < mxN e
    let ba := s.dev.bufBase c (mnA n) (mxAbuf e)
    let bb := s.dev.bufBase c (mnB n) (mxBbuf e)
    let left := fun (t : State) => (t.dev.node c n).queue = rest ∧ (t.dev.node c n).doneCnt = m.doneCnt + 1 ∧
      (t.dev.node c n).lastDone = s.dev.now ∧ SameMemory s.dev t.dev
    m.queue = h :: rest →
    (∀ f ∈ [(Instr.mma c n, 1), (.mmas c n, 2), (.mzero c n, 3), (.mlda c n, 4), (.mscale c n, 8), (.mswap c n, 9)], mxMop e = f.2 →
      (h.began = none → s.dev.nodeStarts c n = true → h.due < s.dev.now → m.lastDone < s.dev.now → s.dev.mxBuffersFull c n e = true →
        Answers f.1 s (fun t => (t.dev.node c n).queue = { h with began := some (s.dev.now, h.p) } :: rest ∧ SameMemory s.dev t.dev ∧
          ∀ a < 4, (t.dev.node c n).elem a r k =
            if a = mxAcc e ∧ f.2 ≤ 2 ∧ h.p = 0 ∧ mxFlag e 16 = true ∧ inTile then mxIdentity e else m.elem a r k)) ∧
      (f.2 ≤ 2 → h.began = some (st, p0) → s.dev.nodeRuns c n = true → h.p < mxQ e → st + (h.p + 1 - p0) * mxChunkTime e ≤ s.dev.now + 1 →
        Answers f.1 s (fun t => (∃ h', (t.dev.node c n).queue = h' :: rest ∧ h'.p = h.p + 1 ∧ h'.entry = e ∧
            h'.began = if s.dev.nodeStops c n = true then none else h.began) ∧
          SameMemory s.dev t.dev ∧
          (∀ a < 4, (a ≠ mxAcc e ∨ ¬inTile) → (t.dev.node c n).elem a r k = m.elem a r k) ∧
          (inTile → (t.dev.node c n).elem (mxAcc e) r k =
            (mxAccumulate e (m.elem (mxAcc e) r k) (s.dev.mxPairs ba bb e r h.p k) (s.dev.mxScale ba bb e r h.p k).1).1 % 2 ^ 32) ∧
          (inTile → f.2 = 1 → mxSemi e = 0 → mxAfmt e = 7 → ((t.dev.node c n).elem (mxAcc e) r k : Int) =
            ((m.elem (mxAcc e) r k : Int) + ((s.dev.mxPairs ba bb e r h.p k).map (fun x => signedOf 8 x.a * signedOf 8 x.b)).sum) % 2 ^ 32)))) ∧
    (h.began = some (st, p0) → s.dev.nodeRuns c n = true →
      (mxMop e ≤ 2 → mxQ e ≤ h.p → s.dev.nodeStops c n = false → st + 16 + (mxQ e - p0) * mxChunkTime e ≤ s.dev.now + 1 →
        Answers (.matrixInstanceComplete c n) s (fun t => left t ∧ ∀ a < 4, (t.dev.node c n).elem a r k = m.elem a r k)) ∧
      (mxMop e ≤ 2 → mxQ e ≤ h.p → s.dev.nodeStops c n = true → Answers (.matrixInstanceComplete c n) s (fun t =>
        (t.dev.node c n).queue = { h with began := none } :: rest ∧ SameMemory s.dev t.dev ∧ ∀ a < 4, (t.dev.node c n).elem a r k = m.elem a r k)) ∧
      (mxMop e = 3 → st + 1 ≤ s.dev.now + 1 → Answers (.matrixInstanceComplete c n) s (fun t => left t ∧
        ∀ a < 4, (t.dev.node c n).elem a r k = if a = mxAcc e ∧ inTile then 0 else m.elem a r k)) ∧
      (mxMop e = 4 → st + mxCycles e ≤ s.dev.now + 1 → Answers (.matrixInstanceComplete c n) s (fun t => left t ∧
        (inTile → (t.dev.node c n).elem (mxAcc e) r k = leNat (memReadN s.dev.mem (ba + 4 * (r * mxN e + k)) 4)))) ∧
      (mxMop e = 9 → st + 1 ≤ s.dev.now + 1 → Answers (.matrixInstanceComplete c n) s (fun t => left t ∧
        (t.dev.node c n).elem (mxAcc e) r k = m.elem (mxAbuf e % 4) r k ∧
        (t.dev.node c n).elem (mxAbuf e % 4) r k = m.elem (mxAcc e) r k))) ∧
    (mxMop e = 10 → mxKch e = 2 → s.dev.nodeStarts c n = true → n2 ≠ n → (s.dev.node c n2).queue = h2 :: rest2 →
      (s.dev.gangOf c e (vgetD m.gang (mxAbuf e) 0) = [(c, n), (c, n2)] ∨ s.dev.gangOf c e (vgetD m.gang (mxAbuf e) 0) = [(c, n2), (c, n)]) →
      Answers (.mgang c n) s (fun t => left t ∧ vgetD (t.dev.node c n).gang (mxAbuf e) 0 = vgetD m.gang (mxAbuf e) 0 + 1 ∧
        (t.dev.node c n2).queue = rest2 ∧ (t.dev.node c n2).doneCnt = (s.dev.node c n2).doneCnt + 1 ∧
        ∀ a < 4, (t.dev.node c n).elem a r k = m.elem a r k ∧ (t.dev.node c n2).elem a r k = (s.dev.node c n2).elem a r k))

/-! ### Engines -/

/-- The kind of command that a start row starts, and its queue, in cluster c (11 R342). -/
def startRows (c : ClusterId) : List (Instr × QueueIx × CmdKind) :=
  ([0, 1, 2, 3] : List (Fin 4)).flatMap (fun q =>
    ([(.copy c q, .copy), (.copy2d c q, .copy2d), (.copy3d c q, .copy3d), (.gather c q, .gather), (.scatter c q, .scatter), (.fill c q, .fill),
      (.mcast c q, .mcast), (.reduce c q, .reduce), (.stamp c q, .stamp), (.signal c q, .signal), (.prefetch c q, .prefetch),
      (.llsclean c q, .llsclean), (.llsinv c q, .llsinv), (.llsflush c q, .llsflush), (.bankcfg c q, .bankcfg), (.rowcopy c q, .rowcopy),
      (.rowfill c q, .rowfill), (.rowand c q, .rowand), (.rowor c q, .rowor), (.rowxor c q, .rowxor), (.rownot c q, .rownot),
      (.rowmaj c q, .rowmaj)] : List (Instr × CmdKind)).map (fun x => (x.1, (⟨q.val, by omega⟩ : QueueIx), x.2))) ++
  ([0, 1] : List (Fin 2)).flatMap (fun m =>
    ([(.update c m, .update), (.uflush c m, .uflush)] : List (Instr × CmdKind)).map (fun x => (x.1, (⟨4 + m.val, by omega⟩ : QueueIx), x.2))) ++
  ([(.stepset c, .stepset), (.sigcmp c, .sigcmp), (.shdupd c, .shdupd), (.steprd c, .steprd)] : List (Instr × CmdKind)).map
    (fun x => (x.1, (6 : QueueIx), x.2))

/-- 11 R342, R343, R350; 04 R153, R160. The oldest QUEUED command of a queue, its conditions met, starts: with REL once the issuer's earlier accesses
are performed, the signal operations of a strand among them, before a command that may run row frames at their homes whatever the scope. It becomes ACTIVE with the cluster's apertures as they are; its start checks say whether it ends at once and how, DONE_ADDR
where its completion address is not usable; every other command of the queue and all else in the machine is as it was. One that is held,
or not of the kind, is left as it is: the row leaves the state unchanged, which is the model's choice (log 1).
Choices of the model: log 1, 56, 89. -/
def Obligations.CommandStarts : Prop :=
  ∀ (s : State) (c : ClusterId) (k : Cmd) (d1 : Dev), ∀ f ∈ startRows c,
    let q := f.2.1
    let k' := { k with ap := (d1.cl c).ap, state := .active }
    let code := if q = 6 then d1.stepCheck c k' else d1.startCheck c k'
    (s.dev.queue c q).oldest = some k → k.refused = false →
    let signals := pkRel k.w = true ∧ k.after = none ∧ ∃ x ∈ (s.dev.cl k.sender.c).signals, x.k = k.sender.k
    (k.kind = some f.2.2 → s.dev.mayStart c q k = true → signals → Answers f.1 s (fun t => t = s)) ∧
    (k.kind = some f.2.2 → s.dev.mayStart c q k = true → ¬signals →
      (if pkRel k.w then release c (if f.2.2.isRow ∨ f.2.2 = .shdupd then Nat.max 2 (pkScope k.w) else pkScope k.w) s.dev = (.ok (), d1) else d1 = s.dev) →
      Answers f.1 s (fun t => t = s.after (d1.modQ c q (fun x => { x with cmds := x.cmds.map (fun o =>
        if o.key = k.key then { k' with finish := code } else o) })) ∧ SameMemory d1 t.dev ∧
        (d1.doneAddrOk c k' = false → code = some 10))) ∧
    ((k.kind ≠ some f.2.2 ∨ s.dev.mayStart c q k = false) → Answers f.1 s (fun t => t = s))

/-- 11 R352, R354, R357, R358, R367; 03 R103; 12 R392. SECTOR of a COPY or FILL of at most 64 bytes between two places of scratchpad, each within
one 64-byte granule: the destination's bytes become the source's, or the pattern's, but for those that another cluster has written in the cycle, no other byte changes, and the command has no sector
left. FRAME of a row command that is performed moves on to the next frame, one whose operands are not aligned ends with BULK_ALIGN; the row
operations are the bitwise ones. SIGCMP_GROUP moves on by eight tiles, and after the last clears REVAL and moves STEP on.
Choices of the model: log 57, 100, 103. -/
def Obligations.SectorsFramesGroups : Prop :=
  ∀ (s : State) (c : ClusterId) (q : QueueIx) (seq : Word) (k : Cmd) (h h' : ClusterId) (o o' path n cnt : Nat) (w : Word) (d1 : Dev)
    (e : XFault × Word × Bool) (kd : CmdKind) (a b b' : Nat),
    let x := k.ctx c q
    let w1 : Word := vgetD k.w 1 0
    let w2 : Word := vgetD k.w 2 0
    let bytes := pkCount k.w
    let key := s.dev.scratchKeyOf h o
    let key' := s.dev.scratchKeyOf h' o'
    let e0 := s.dev.stepEntry c k
    let old := fun (t : State) => t.dev.cmd c q seq
    s.dev.cmd c q seq = some k → k.state = .active → k.finish = none → (s.dev.queue c q).hold = false → pkCk k.w ≠ 1 →
    ((k.kind = some .copy ∨ k.kind = some .fill) → k.next = 0 → k.done = 0 → k.digest = none → k.shared = [] →
      s.dev.chunksWait c q k.key = false → 0 < bytes → w2.toNat % 64 + bytes ≤ 64 → o % 64 + bytes ≤ 64 → Memory.wf s.dev.mem = true →
      uResolve x .write (w2, bytes) s.dev = (.ok (.scratch h o), s.dev) →
      s.dev.bankCheck (s.dev.partOf h) h o = none →
      (k.kind = some .copy → w1.toNat % 64 + bytes ≤ 64 ∧ uResolve x .read (w1, bytes) s.dev = (.ok (.scratch h' o'), s.dev) ∧
        s.dev.bankCheck (s.dev.partOf h') h' o' = none) →
      Answers (.sector c q seq 0) s (fun t => SameMemoryOutside key bytes s.dev t.dev ∧
        (∀ i < bytes, memRead t.dev.mem (key + i) = if h = c ∧ key + i ∈ s.dev.remoteNow then memRead s.dev.mem (key + i)
          else if k.kind = some .copy then memRead s.dev.mem (key' + i) else BitVec.ofNat 8 (w1.toNat / 256 ^ (i % 8))) ∧
        ∃ y, old t = some y ∧ y.next = 1 ∧ y.state = .active ∧ y.finish = none ∧ y.w = k.w)) ∧
    (k.kind = some kd → kd.isRow = true → k.next < pkCount k.w →
      (rowFrame c q k kd s.dev = (.ok path, d1) → Answers (.frame c q seq) s (fun t =>
        t = s.after (d1.modCmd c q seq (fun y => { y with
          next := y.next + 1
          path := Nat.max y.path path
          nfast := y.nfast + b2n (path == 0)
          nnear := y.nnear + b2n (path == 1) })) ∧ SameMemory d1 t.dev)) ∧
      (rowFrame c q k kd s.dev = (.error e, d1) → e.1 = .refused → Answers (.frame c q seq) s (fun t =>
        t = s.after ((d1.uncount s.dev).modCmd c q seq (fun y => { y with finish := some 5 })) ∧ SameMemory d1 t.dev))) ∧
    (a < 2 ^ n → rowOp .rowand 0 n [a, b] = a &&& b ∧ rowOp .rowor 0 n [a, b] = a ||| b ∧ rowOp .rowxor 0 n [a, b] = a ^^^ b ∧
      rowOp .rowcopy 0 n [a] = a ∧ rowOp .rownot 0 n [a] + a + 1 = 2 ^ n ∧
      ∀ i, (rowOp .rowmaj 0 n [a, b, b']).testBit i = (a.testBit i && b.testBit i || a.testBit i && b'.testBit i || b.testBit i && b'.testBit i)) ∧
    (q = 6 → k.kind = some .sigcmp → pkCount k.w < 16 → k.next < e0.tiles → sigcmpGroup s.dev c k s.dev = (.ok w, d1) → cnt = Nat.min e0.tiles (k.next + 8) →
      (d1.cmd c q seq = some k → Answers (.sigcmpGroup c seq) s (fun t => SameMemory d1 t.dev ∧
        old t = some { k with next := cnt, count := w } ∧
        (cnt < e0.tiles → (t.dev.cl c).step = (d1.cl c).step) ∧
        (e0.tiles ≤ cnt → t.dev.stepEntry c k = { e0 with reval := 0, step := (e0.step + 1) % 2 ^ 64 }))))

/-- 11 R369, R371, R374. TOKEN_ENTRY with room in the window takes the next token of the first UPDATE that has one: the command moves on by
one token, and with no group that shares a byte with it the token makes a group of its own. GROUP_ISSUE of a group that no older one overlaps, in scratchpad,
replaces its element by the chain of its tokens over the old value, no other byte changing, and the group leaves the window; for one token of
ADD over 32-bit integers the element is the sum modulo 2^32. -/
def Obligations.MergeUnits : Prop :=
  ∀ (s : State) (c : ClusterId) (m : MgIx) (k : Cmd) (tok : MergeTok) (a : Word) (tg : Target) (ps : List KeptPage) (d1 : Dev) (i : Nat)
    (g : MergeGroup) (p : PartId) (t1 : MergeTok),
    let q := mgQueue m
    let x := s.dev.queue c q
    let (h, phys, place, cache, enc) := tg.place
    let key := s.dev.scratchKeyOf g.c g.place
    let n := redSize g.fmt.toNat
    let old := leNat (memReadN s.dev.mem key n)
    (x.hold = false → (x.groups.map (fun g => g.toks.length)).sum < 256 → x.entering = some k → readToken (k.ctx c q) k s.dev = (.ok (tok, a, tg, ps), d1) →
      d1.queue c q = x → x.cmds.find? (fun y => y.key = k.key) = some k →
      let fresh : MergeGroup := ⟨a, h, phys, place, BitVec.ofNat 2 cache, enc, BitVec.ofNat 4 (bits (pkFmt k.w) 3 0),
        BitVec.ofNat 3 (bits (pkFmt k.w) 6 4), d1.now, [tok], (k.ctx c q).countVa a⟩
      (∀ g ∈ x.groups, g.overlaps fresh = false) →
      Answers (.tokenEntry c m) s (fun t => t.dev.cmd c q k.key = some { k with next := k.next + 1, pages := k.pages ++ ps } ∧
        (t.dev.queue c q).groups = x.groups ++ [fresh] ∧ SameMemory d1 t.dev)) ∧
    (x.groups[i]? = some g → s.dev.partOf c = some p → (∀ o ∈ x.groups.take i, o.overlaps g = false) → g.phys = false →
      s.dev.bankCheck (s.dev.partOf g.c) g.c g.place = none → Memory.wf s.dev.mem = true → 0 < n → key % 64 + n ≤ 64 →
      g.va = none → (∀ t ∈ g.toks, ∀ y, s.dev.cmd c q t.cmd = some y → pw y.w 4 = 0) →
      Answers (.groupIssue c m i) s (fun t => (t.dev.queue c q).groups = x.groups.eraseIdx i ∧
        memReadN t.dev.mem key n = leBytes n (mergeChain g.fmt.toNat g.op.toNat old g.toks).1 ∧ SameMemoryOutside key n s.dev t.dev ∧
        (g.toks = [t1] → g.fmt = 0 → g.op = 0 → leNat (memReadN t.dev.mem key 4) = (old + t1.val.toNat) % 2 ^ 32)))

/-- 11 R343, R345, R346, R348, R349, 14 R450, 04 R156. COMPLETION_PUBLISH of a refused command at the head of those QUEUED ends it with BAD_CMD;
of a started one whose body has ended, with nothing unacknowledged once its writes have left as its SCOPE asks, and without a completion, ends it
with its code; the
command leaves the queue, its log entry takes its code, ERR is set by a code that is not 0, and then with ERRTRAP the sender's strand has an
ENGINE_FAULT report; a completion stamp in scratchpad is the sequence number, no byte outside it changing. A write of ENGCTL with HOLD = 1
holds the queue; HELD, when nothing of it is in flight, suspends what is active, its writes performed, and a write with HOLD = 0 lets it go on. A write of ENGXFER
with GO starts its operation unless one is under way, and ENGXFER_DONE ends it with what it came to.
Choices of the model: log 16. -/
def Obligations.CompletionsHoldsTransfers : Prop :=
  ∀ (s : State) (c : ClusterId) (q : QueueIx) (v : Word) (k : Cmd) (code : Nat) (home : ClusterId) (o : Nat) (e : Nat) (d1 : Dev),
    let x := s.dev.queue c q
    let rep := s.dev.reportStrand c k.sender.c k.sender.k
    let ended := fun (n : Nat) (t : State) =>
      (t.dev.queue c q).cmds = x.cmds.filter (fun y => y.key != k.key) ∧ (t.dev.queue c q).err = (x.err || n != 0) ∧
      tget (t.dev.queue c q).log (k.seq.toNat % 16) = some (engLog k n)
    let told := fun (n : Nat) (t : State) => n ≠ 0 → x.errTrap = true → ∃ r ∈ t.dev.reports, r.src = .engine c q ∧ r.c = rep.1 ∧ r.k = rep.2 ∧
        r.cause = .engineFault ∧ r.sub = 0 ∧ r.val.toNat = q.val * 2 ^ 61 + n * 2 ^ 48 + k.seq.toNat % 2 ^ 48
    let d0 := s.dev.modCl c (fun cl => { cl with reqs := cl.reqs.filter (fun r => r.who != .queue q k.key) })
    let d2 := if 2 ≤ pkScope k.w ∨ (k.kind.any CmdKind.isRow) = true then d0.drain c else d0
    let key := d2.scratchKeyOf home o
    (s.dev.cmd c q k.key = some k →
      (k.refused = true → x.oldest = some k → x.hold = false → Answers (.completionPublish c q k.key) s (fun t => ended 1 t ∧ told 1 t ∧
        SameMemory s.dev t.dev)) ∧
      (k.refused = false → s.dev.bodyCode c q k = some code → code < 16 → s.dev.unacked c q k.key = false →
        s.dev.refusedStore c q k.key = false → k.pub = none →
        ((code = 1 ∨ code = 10) → Answers (.completionPublish c q k.key) s (fun t => ended code t ∧ told code t ∧ SameMemory s.dev t.dev)) ∧
        (code ≠ 1 → code ≠ 10 → d2.unacked c q k.key = false → (∀ w ∈ (d2.cl c).buffer, w.who ≠ .queue q k.key) →
        (pkCk k.w = 0 → Answers (.completionPublish c q k.key) s (fun t => ended code t ∧ told code t ∧ SameMemory d2 t.dev)) ∧
        (pkCk k.w = 2 → code = 0 → k.digest = none → pw k.w 3 % 8 = 0 → Memory.wf d2.mem = true → o % 8 = 0 →
          uResolve (k.ctx c q) .write (BitVec.ofNat 64 (pw k.w 3), 8) d2 = (.ok (.scratch home o), d2) →
          d2.bankCheck (d2.partOf home) home o = none → (home = c → ∀ j < 8, key + j ∉ d2.remoteNow) →
          Answers (.completionPublish c q k.key) s (fun t => ended 0 t ∧ memReadN t.dev.mem key 8 = leBytes 8 k.seq.toNat ∧
            SameMemoryOutside key 8 d2 t.dev))))) ∧
    (v.getLsbD 0 = true → Answers (.hold c q v) s (fun t => OnlyQueue c q s t ∧
      t.dev.queue c q = { x with hold := true, errTrap := v.getLsbD 2 })) ∧
    (v.getLsbD 0 = false → Answers (.holdRelease c q v) s (fun t => OnlyQueue c q s t ∧
      t.dev.queue c q = { x with hold := false, held := false, errTrap := v.getLsbD 2, cmds := x.cmds.map (fun y =>
        if y.state = .suspended ∧ y.faulted = false then { y with state := .active } else y) })) ∧
    (x.hold = true → x.held = false → s.dev.inFlight c q = false → Answers (.held c q) s (fun t => (t.dev.cl c).buffer = [] ∧
      t.dev.queue c q = { x with held := true, cmds := x.cmds.map (fun y => if y.state = .active then { y with state := .suspended } else y) } ∧
      ((s.dev.cl c).buffer = [] → OnlyQueue c q s t))) ∧
    (∀ f ∈ [(Instr.engxferSave c q v, (1 : BitVec 2)), (.engxferRestore c q v, 2)], v.getLsbD 63 = true → v.toNat / 2 ^ 60 % 4 = f.2.toNat →
      x.xfer.busy = false → Answers f.1 s (fun t => OnlyQueue c q s t ∧ (t.dev.queue c q).xfer.busy = true ∧ (t.dev.queue c q).xfer.op = f.2 ∧
        (t.dev.queue c q).xfer.base.toNat = v.toNat / 64 % 2 ^ 46)) ∧
    (x.xfer.busy = true → s.dev.engxfer c q = (e, d1) → e < 8 → Answers (.engxferDone c q) s (fun t =>
      t = s.after (d1.modQ c q (fun y => { y with xfer := { y.xfer with busy := false, err := BitVec.ofNat 3 e } }))))

/-! ### Cells -/

/-- Element j of a vector, of w bits (07 R218). -/
def vecEl (w : Nat) (v : V256) (j : Nat) : Nat := v.toNat / 2 ^ (w * j) % 2 ^ w

/-- A w-bit pattern read as signed. -/
def signedEl (w v : Nat) : Int := if v < 2 ^ (w - 1) then v else (v : Int) - 2 ^ w

/-- The range that SAT clamps to (08 R260). -/
def clampEl (u : Bool) (w : Nat) (v : Int) : Int :=
  if u then min (max v 0) (2 ^ w - 1) else min (max v (-2 ^ (w - 1))) (2 ^ (w - 1) - 1)

/-- Exactly the bits [lo, lo + n) of a mask that lie in an element are as the guard says. -/
def maskedAs (m : V256) (lo n : Nat) (g : Bool) : Prop := ∀ i, lo ≤ i → i < lo + n → m.getLsbD i = g

/-- 08 R255, R257, R260 to R265: the integer, shift, bit-field, logic and count operations of a cell, element by element: with U every source element
is unsigned, SAT clamps, a result is else modulo 2^w; shifts of w or more, funnel shifts, fields cut at bit w - 1; counts of 0. The destination and prev take
element j where its guard bit is 1; a result element is poisoned where an operand's is, and no flag is raised. ICMP writes all b bits of its predicate to the outcome. -/
def Claim.CellIntegerResults : Prop :=
  ∀ (x : CellIn) (j : Nat),
    let op := x.w.op
    let b := fmtB x.w.fmt
    let w := 8 * b
    let u := x.w.mod % 2 = 1
    let va := vecEl w x.a.bits j
    let vb := vecEl w x.b.bits j
    let vc := vecEl w x.c.bits j
    let rd := fun (v : Nat) => if u then (v : Int) else signedEl w v
    let a := rd va
    let y := rd vb
    let c := rd vc
    let r := (cellCompute x).1
    let d := vecEl w r.val j
    let guard := x.guard.getLsbD (j * b)
    let bad := fun (v : VecVal) => ∃ i < b, v.mark.getLsbD (b * j + i) = true
    let m := vb % w
    let off := vb % w
    let len := min (vb / w % (2 * w)) (w - off)
    j < 32 / b →
    (∀ f ∈ [(CellOp.iadd, a + y), (.isub, a - y), (.imul, a * y), (.imulh, a * y / 2 ^ w), (.imad, a * y + c), (.imin, min a y), (.imax, max a y),
        (.iabs, max a (-a)), (.ineg, -a), (.isad, max (a - y) (y - a) + c)], op = f.1 →
      (d : Int) = (if bit x.w.mod 3 = true then clampEl u w f.2 else f.2) % 2 ^ w) ∧
    (∀ f ∈ [(CellOp.shl, if w ≤ vb then 0 else va * 2 ^ vb % 2 ^ w), (.shr, if w ≤ vb then 0 else va / 2 ^ vb),
        (.rotl, (va * 2 ^ m + va / 2 ^ (w - m)) % 2 ^ w), (.fshl, (va * 2 ^ w + vc) * 2 ^ m / 2 ^ w % 2 ^ w),
        (.fshr, (vc * 2 ^ w + va) / 2 ^ m % 2 ^ w), (.and, va &&& vb), (.or, va ||| vb), (.xor, va ^^^ vb), (.not, 2 ^ w - 1 - va),
        (.popc, ((List.range w).filter (fun i => va.testBit i)).length), (.mov, va)], op = f.1 → d = f.2) ∧
    (op = .sha → (d : Int) = (if w ≤ vb then (if va < 2 ^ (w - 1) then 0 else -1) else signedEl w va / 2 ^ vb) % 2 ^ w) ∧
    (op = .bfx → (u = false ∨ len = 0) → d = va / 2 ^ off % 2 ^ len) ∧
    (op = .bfx → u = true → 0 < len → (d : Int) = signedEl len (va / 2 ^ off % 2 ^ len) % 2 ^ w) ∧
    (op = .bfi → ∀ i < w, d.testBit i = if off ≤ i ∧ i < off + len then va.testBit (i - off) else vc.testBit i) ∧
    (op = .andn → ∀ i < w, d.testBit i = (va.testBit i && !vb.testBit i)) ∧
    (op = .brev → ∀ i < w, d.testBit i = va.testBit (w - 1 - i)) ∧
    (op = .clz → d ≤ w ∧ va < 2 ^ (w - d) ∧ (d < w → 2 ^ (w - 1 - d) ≤ va)) ∧
    (op = .ctz → d ≤ w ∧ va % 2 ^ d = 0 ∧ (d < w → va / 2 ^ d % 2 = 1)) ∧
    (op = .ffs → (va = 0 → d = 0) ∧ (va ≠ 0 → 1 ≤ d ∧ va % 2 ^ (d - 1) = 0 ∧ va / 2 ^ (d - 1) % 2 = 1)) ∧
    (op ∈ [CellOp.iadd, .isub, .imul, .imulh, .imad, .imin, .imax, .iabs, .ineg, .isad, .shl, .shr, .sha, .rotl, .fshl, .fshr, .bfx, .bfi, .and, .or, .xor,
        .andn, .not, .brev, .clz, .ctz, .ffs, .popc, .mov] →
      maskedAs r.mask (w * j) w guard ∧ r.second = none ∧ r.predMask = 0 ∧ r.flags = 0 ∧ r.badPoison = false ∧
      ∀ i < b, r.mark.getLsbD (b * j + i) = true ↔ bad x.a ∨ (op.fields.2.2 = .x ∧ bad x.b) ∨ (op.fields.1 = .c ∧ bad x.c)) ∧
    (op = .icmp → r.mask = 0 ∧ (guard = true → (bad x.a ∨ bad x.b) → r.badPoison = true) ∧
      ∀ i < b, r.predMask.getLsbD (b * j + i) = guard ∧
        (∀ f ∈ [(0, decide (va = vb)), (1, decide (va ≠ vb)), (2, decide (signedEl w va < signedEl w vb)), (3, decide (signedEl w va ≤ signedEl w vb)),
          (4, decide (signedEl w vb < signedEl w va)), (5, decide (signedEl w vb ≤ signedEl w va)), (6, decide (va < vb)), (7, decide (va ≤ vb)),
          (8, decide (vb < va)), (9, decide (vb ≤ va))], x.w.mod = f.1 → r.pred.getLsbD (b * j + i) = f.2))

/-- 08 R258, R266 to R276, 06 R197 to R210: the floating-point operations and the conversions of a cell, element by element, in the arithmetic of 06: the exact value is
rounded in the word's mode, DYN resolved, with SAT and FTZ, a stochastic rounding drawing the element's own step of the register (R204); the special values of the
operations; the flags of an enabled element are raised. A conversion places element j at the target's width and clears what lies above; an integer one clamps or wraps.
Choices of the model: log 7. -/
def Claim.CellFloatResults : Prop :=
  ∀ (x : CellIn) (j : Nat),
    let op := x.w.op
    let b := fmtB x.w.fmt
    let w := 8 * b
    let f := inFmt x.w.fmt
    let t := x.w.sb % 16
    let tw := targetBits t
    let n := min (32 / b) (256 / tw)
    let draw : W32 := if x.mode = 5 then Nat.repeat lfsrStep (j + 1) x.lfsr else 0
    let rnd : Rnd := ⟨x.mode, bit x.w.mod 3, x.ftz, draw⟩
    let va := vecEl w x.a.bits j
    let a := f.read x.ftz va
    let y := f.read x.ftz (vecEl w x.b.bits j)
    let c := f.read x.ftz (vecEl w x.c.bits j)
    let r := (cellCompute x).1
    let d := vecEl w r.val j
    let guard := x.guard.getLsbD (j * b)
    let gives := fun (e : Nat × Flags) => d = e.1 % 2 ^ w ∧ (guard = true → r.flags &&& e.2 = e.2) ∧ maskedAs r.mask (w * j) w guard
    (3 ≤ x.w.fmt → x.w.fmt ≤ 5 → j < 32 / b →
      (∀ e ∈ [(CellOp.fadd, fvAdd f rnd a y), (.fsub, fvAdd f rnd a y.neg), (.fmul, fvMul f rnd a y), (.ffma, fvFma f rnd a y c),
          (.ffms, fvFma f rnd a y c.neg), (.fnma, fvFma f rnd a.neg y c), (.rcp, fvRcp f rnd a), (.rsq, fvRsq f rnd a), (.sqrt, fvSqrt f rnd a)],
        op = e.1 → gives e.2) ∧
      (∀ e ∈ [(CellOp.fmin, fvBelow y a, true), (.fmax, fvBelow a y, true), (.fminn, fvBelow y a, false), (.fmaxn, fvBelow a y, false)], op = e.1 →
        (a ≠ .nan → y ≠ .nan → gives (f.pattern (if e.2.1 then y else a), 0)) ∧
        (a = .nan → y = .nan → gives (f.nan, 0)) ∧
        ((a = .nan ∨ y = .nan) → e.2.2 = true → gives (f.nan, 0)) ∧
        (a = .nan → y ≠ .nan → e.2.2 = false → gives (f.pattern y, 0)) ∧ (a ≠ .nan → y = .nan → e.2.2 = false → gives (f.pattern a, 0))) ∧
      (op = .fexpo → (∀ s e, a = .num s 0 e → gives (f.special false (.inf true), flagDZ)) ∧ (∀ s, a = .inf s → gives (f.special false (.inf false), 0)) ∧
        (∀ s k e, a = .num s (k + 1) e → let l : Int := (Nat.log2 (k + 1) : Int) + e; gives (f.pattern (.num (decide (l < 0)) l.natAbs 0), 0))) ∧
      (op = .fmant → (∀ s, a = .inf s → gives (f.nan, flagNV)) ∧ (∀ s e, a = .num s 0 e → gives (f.pattern (.num s 0 0), 0)) ∧
        (∀ s k e, a = .num s (k + 1) e → gives (f.pattern (.num s (k + 1) (-(Nat.log2 (k + 1) : Int))), 0))) ∧
      (op = .fscal → ∀ s k e, a = .num s k e → -1000 ≤ signedEl w (vecEl w x.b.bits j) → signedEl w (vecEl w x.b.bits j) ≤ 1000 →
        gives (f.round x.mode rnd.sat x.ftz draw s k (e + signedEl w (vecEl w x.b.bits j)) false)) ∧
      (op = .frint → ∀ s k e, a = .num s k e → 0 ≤ e → gives (f.pattern (.num s k e), 0)) ∧
      (op = .log2 → (∀ s e, a = .num s 0 e → gives (f.special false (.inf true), flagDZ)) ∧ (∀ k e, a = .num true (k + 1) e → gives (f.nan, flagNV)) ∧
        (a = .inf true → gives (f.nan, flagNV))) ∧
      (op = .exp2 → (a = .inf true → gives (0, 0)) ∧ (a = .inf false → gives (f.inf, 0)) ∧ (∀ s e, a = .num s 0 e → gives (f.pattern (.num false 1 0), 0))) ∧
      (op = .tanh → ∀ s e, a = .num s 0 e → gives ((if s then f.sign else 0), 0)) ∧
      (op ∈ [CellOp.frint, .fscal, .fexpo, .fmant, .exp2, .log2, .sigm, .tanh, .rcp, .rsq, .sqrt, .rcpa, .rsqa, .fadd, .fsub, .fmul, .ffma, .ffms, .fnma] →
        a = .nan → f.decode va = .nan → gives (f.nan, 0))) ∧
    (3 ≤ x.w.fmt → j < 32 / b →
      let ftz := x.ftz && decide (x.w.fmt ≤ 5)
      let a := f.read ftz va
      let y := f.read ftz (vecEl w x.b.bits j)
      (∀ e ∈ [(CellOp.fabs, false), (.fneg, true)], op = e.1 → (a = .nan → gives (f.nan, 0)) ∧ (∀ s, a = .inf s → gives (f.pattern (.inf (e.2 && !s)), 0)) ∧
        (∀ s k e', a = .num s k e' → gives (f.pattern (.num (e.2 && !s) k e'), 0))) ∧
      (op = .fclass → gives ((match a with
        | .nan => 8
        | .inf s => if s then 0 else 7
        | .num s 0 _ => if s then 3 else 4
        | .num s _ _ => if f.subnormal va then (if s then 2 else 5) else if s then 1 else 6), 0)) ∧
      (op = .fcmp → r.mask = 0 ∧ (guard = true → bit x.w.mod 3 = true → fvCmp a y = none → r.flags &&& flagNV = flagNV) ∧
        ∀ i < b, r.predMask.getLsbD (b * j + i) = guard ∧ r.pred.getLsbD (b * j + i) = fcmpCond (x.w.mod % 8) (fvCmp a y))) ∧
    (op.targetOk t = true → j < n →
      let dt := r.val.toNat / 2 ^ (tw * j) % 2 ^ tw
      let gives := fun (e : Nat × Flags) => dt = e.1 % 2 ^ tw ∧ (guard = true → r.flags &&& e.2 = e.2) ∧ maskedAs r.mask (tw * j) tw guard
      let ftz := x.ftz && decide (x.w.fmt ≤ 5)
      let u := decide (x.w.mod % 2 = 1)
      let v := if u then (va : Int) else signedEl w va
      (op = .cvtff → 3 ≤ x.w.fmt → let z := ftz && decide (t ≤ 5); gives (fvConvert (inFmt t) { rnd with ftz := z } (f.read z va))) ∧
      (op = .cvtfi → 3 ≤ x.w.fmt → let z := fvToInt tw x.mode draw rnd.sat (f.read ftz va); (dt : Int) = z.1 % 2 ^ tw ∧
        (guard = true → r.flags &&& z.2 = z.2) ∧ maskedAs r.mask (tw * j) tw guard) ∧
      (op = .cvtif → x.w.fmt ≤ 2 → gives (intToFv (inFmt t) { rnd with ftz := false } (signedEl w va))) ∧
      (op = .cvtii → x.w.fmt ≤ 2 → (dt : Int) = (if rnd.sat then clampEl u tw v else v) % 2 ^ tw ∧ maskedAs r.mask (tw * j) tw guard) ∧
      (op ∈ [CellOp.cvtff, .cvtfi, .cvtif, .cvtii] → ∀ i, tw * n ≤ i → i < 256 → r.val.getLsbD i = false ∧ r.mask.getLsbD i = true)) ∧
    (op.rounds = true → x.mode ≠ 5 → (cellCompute x).2 = x.lfsr) ∧
    (op.rounds = true → x.mode = 5 → op ∉ [CellOp.cvtmx, .cvtff, .cvtfi, .cvtif] → (cellCompute x).2 = Nat.repeat lfsrStep (32 / b) x.lfsr)

/-- 08 R264, R277 to R284, R287 to R291: the lane, permutation, selection, compaction and predicate operations of a cell, and its sums over enabled integer elements:
which element of which operand each element of the result is, what the guard does, and the operations that write nothing. -/
def Claim.CellLaneResults : Prop :=
  ∀ (x : CellIn) (j : Nat),
    let op := x.w.op
    let md := x.w.mod
    let b := fmtB x.w.fmt
    let w := 8 * b
    let e := 32 / b
    let el := fun (i : Nat) => vecEl w x.a.bits i
    let r := (cellCompute x).1
    let d := vecEl w r.val j
    let g := fun (i : Nat) => x.guard.getLsbD (i * b)
    let on := (List.range e).filter g
    let whole := r.mask = BitVec.allOnes 256
    let byte := fun (v : V256) (i : Nat) => vecEl 8 v i
    let z := 16 / 2 ^ (md % 4)
    let k := vecEl w x.b.bits 0
    let ints := (List.range e).map (fun i => if g i then signedEl w (el i) else 0)
    j < e →
    (op = .sel → whole ∧ d = if g j then el j else vecEl w x.b.bits j) ∧
    (op = .lswz → maskedAs r.mask (w * j) w (g j) ∧ d = if vecEl w x.b.bits j < e then el (vecEl w x.b.bits j) else 0) ∧
    (op = .lrot → maskedAs r.mask (w * j) w (g j) ∧ d =
      if bit md 0 = false then (if bit md 1 then el ((j + e - k % e) % e) else el ((j + k) % e))
      else if bit md 1 then (if k ≤ j then el (j - k) else 0) else if j + k < e then el (j + k) else 0) ∧
    (op = .lbc → md < e → maskedAs r.mask (w * j) w (g j) ∧ d = el md) ∧
    (op = .movk → maskedAs r.mask (w * j) w (g j) ∧ d = if bit md 0 then x.const.toNat % 2 ^ w else x.const.toNat / 2 ^ (w * j % 32) % 2 ^ w) ∧
    (op = .cmpct → whole ∧ d = match on[j]? with
      | some i => if bit md 0 then i else el i
      | none => 0) ∧
    (op = .expnd → whole ∧ let rank := ((List.range j).filter g).length; d = if g j then (if bit md 0 then rank else el rank) else 0) ∧
    (op = .steer → whole ∧ ∀ i < 8, vecEl 32 r.val i = if x.guard.getLsbD (4 * i) then 0 else vecEl 32 x.a.bits i) ∧
    (op = .bperm → maskedAs r.mask (w * j) w (g j) ∧ ∀ i < 32, byte r.val i =
      if 128 ≤ byte x.b.bits i then 0 else byte x.a.bits (byte x.b.bits i % 32)) ∧
    (op = .pack → md ≤ 2 → ∀ i < 32, byte r.val i = if i < z then byte x.a.bits i else if i < 2 * z then byte x.b.bits (i - z) else 0) ∧
    (op = .unpk → md % 4 ≤ 1 → md / 4 * z + z ≤ 32 → ∀ i < 32, byte r.val i = if i < z then byte x.a.bits (md / 4 * z + i) else 0) ∧
    (op = .lred → x.w.fmt ≤ 2 → whole ∧ r.val.toNat < 2 ^ 32 ∧
      (md = 0 → (r.val.toNat : Int) = ints.sum % 2 ^ 32) ∧
      (md = 1 → (∀ i < e, g i = true → signedEl w (el i) ≤ signedEl 32 r.val.toNat) ∧ (on ≠ [] → ∃ i ∈ on, signedEl 32 r.val.toNat = signedEl w (el i))) ∧
      (md = 2 → (∀ i < e, g i = true → signedEl 32 r.val.toNat ≤ signedEl w (el i)) ∧ (on ≠ [] → ∃ i ∈ on, signedEl 32 r.val.toNat = signedEl w (el i)))) ∧
    (op = .lscan → x.w.fmt ≤ 2 → md % 4 < 4 / b → whole ∧ ∀ i < 8, (vecEl 32 r.val i : Int) = (ints.take (8 * (md % 4) + i + 1)).sum % 2 ^ 32) ∧
    (∀ f ∈ [(CellOp.pand, x.p.getLsbD (j * b) && x.q.getLsbD (j * b)), (.por, x.p.getLsbD (j * b) || x.q.getLsbD (j * b)),
        (.pxor, x.p.getLsbD (j * b) != x.q.getLsbD (j * b)), (.pnot, !x.p.getLsbD (j * b)), (.pmov, x.p.getLsbD (j * b)), (.pset, x.const.getLsbD j),
        (.vpred, if bit md 0 then decide (2 ^ (w - 1) ≤ el j) else decide (el j ≠ 0))], op = f.1 →
      r.mask = 0 ∧ ∀ i < b, r.predMask.getLsbD (b * j + i) = g j ∧ r.pred.getLsbD (b * j + i) = f.2) ∧
    (op ∈ [CellOp.nop, .send, .exit, .rmark] → r = CellRes.none) ∧
    (op = .cvtmx → (∀ i < 8, x.guard.getLsbD (4 * i) = false) → r = CellRes.none)

/-- What the cell operations compute: the three statements above. -/
def Obligations.CellOperations : Prop := Claim.CellIntegerResults ∧ Claim.CellFloatResults ∧ Claim.CellLaneResults

/-- 02 R49, R50, R52, R54, R55; 05 R168; 07 R223, R224; 08 R253, R256: where a cell's result goes. A word of latency L issued in cycle t is in flight until the end of cycle t + L - 1,
for the register that DST names, a w register through RBASE; SEND, EXIT, RMARK and NOP put nothing in flight. Landing, it replaces the bits of its mask in its
register or predicate and in prev, drives the links of route source 1 with prev, and changes no other register. A neighbour reads what a link was last driven with.
Route source 2 drives operand A in the issue cycle. Values on the rim move a station a cycle, clockwise on lanes 0 to 3, and leave at the first station whose unit takes them. A slot in
which one cell executes a word of latency 1, no other result due, changes that cell as the landing says, and no other cell. -/
def Obligations.CellEffects : Prop :=
  ∀ (x : Cell) (f : Flight) (t : CellTurn) (cyc : Nat) (kn : Kernel) (lv : Live) (cl : Cluster) (g : RegionIx) (i o : Nat) (v : RimVal) (u : VecVal)
    (st lane delay : Nat) (mask : BitVec 32) (d : Dev) (c : ClusterId) (fill : List Granule),
    let y := x.land f
    let new := fun (old : VecVal) (z : VecVal) => (∀ k < 256, z.bits.getLsbD k = if f.mask.getLsbD k then f.val.getLsbD k else old.bits.getLsbD k) ∧
      (∀ k < 32, (∀ q < 8, f.mask.getLsbD (8 * k + q) = true) → z.mark.getLsbD k = f.mark.getLsbD k) ∧
      ∀ k < 32, (∀ q < 8, f.mask.getLsbD (8 * k + q) = false) → z.mark.getLsbD k = old.mark.getLsbD k
    ((∀ n : Fin 16, if f.dst = .v n.val then new (vget x.v n) (vget y.v n) else vget y.v n = vget x.v n) ∧
      (∀ n : Fin 40, if f.dst = .w n.val then new (vget x.w n) (vget y.w n) else vget y.w n = vget x.w n) ∧
      (∀ (n : Fin 8) (bt m : W32), f.dst = .pred n.val bt m → ∀ k < 32, (vget y.p n).getLsbD k = if m.getLsbD k then bt.getLsbD k else (vget x.p n).getLsbD k) ∧
      (∀ n : Fin 8, (∀ bt m, f.dst ≠ .pred n.val bt m) → vget y.p n = vget x.p n) ∧
      (if f.toPrev then new x.prev y.prev else y.prev = x.prev) ∧
      (∀ n : Fin 4, vget y.out n = if f.links.getLsbD n.val then { y.prev with ver := f.ver } else vget x.out n) ∧ y.lfsr = x.lfsr ∧ y.cmds = x.cmds) ∧
    ((t.w.op ∈ [CellOp.send, .exit, .rmark, .nop] → t.flights (cellCompute t.x).1 cyc kn lv = []) ∧
      ∀ q ∈ t.flights (cellCompute t.x).1 cyc kn lv, q.due = cyc + t.w.op.latency - 1 ∧ q.cell = t.i ∧
        (t.w.op ≠ .cvtmx → q.val = (cellCompute t.x).1.val ∧ q.mask = (cellCompute t.x).1.mask ∧ q.toPrev = t.w.op.routable ∧
          (t.w.op.predWriter = false → t.w.dst < 16 → q.dst = .v t.w.dst) ∧
          (t.w.op.predWriter = false → 16 ≤ t.w.dst → t.w.dst < 56 → 0 < lv.rsz →
            q.dst = .w (lv.rog + (t.w.dst - 16 + (lv.rsz - kn.periods % lv.rsz) % lv.rsz) % lv.rsz)) ∧
          (t.w.op.predWriter = true → q.dst = .pred (t.w.dst % 8) (cellCompute t.x).1.pred (cellCompute t.x).1.predMask) ∧
          ∀ n < 4, q.links.getLsbD n = (t.w.op.routable && decide (routeOut t.route n = 1)))) ∧
    (∀ n m, (i < 64 → 8 ≤ i → n = 0 → m = i - 8 → cellRegion cl.layout.toNat m = g.val → (cl.linkIn g.val i n).1 = vgetD (cl.cell m).out 2 VecVal.zero) ∧
      (i < 64 → i % 8 ≠ 7 → n = 1 → m = i + 1 → cellRegion cl.layout.toNat m = g.val → (cl.linkIn g.val i n).1 = vgetD (cl.cell m).out 3 VecVal.zero) ∧
      (i < 56 → n = 2 → m = i + 8 → cellRegion cl.layout.toNat m = g.val → (cl.linkIn g.val i n).1 = vgetD (cl.cell m).out 0 VecVal.zero) ∧
      (i < 64 → i % 8 ≠ 0 → n = 3 → m = i - 1 → cellRegion cl.layout.toNat m = g.val → (cl.linkIn g.val i n).1 = vgetD (cl.cell m).out 1 VecVal.zero)) ∧
    (o < 4 → t.i < 64 → routeOut t.route o = 2 → vgetD ((Cluster.passThrough t cl g cl).cell t.i).out o VecVal.zero = { t.x.a with ver := BitVec.ofNat 2 t.ver }) ∧
    (v.arrived = false → v.ofs = 0 → v.station < 16 → moveRim [v] = [{ v with station := if v.lane < 4 then (v.station + 1) % 16 else (v.station + 15) % 16 }]) ∧
    (v.arrived = false → 0 < v.ofs → moveRim [v] = [{ v with ofs := v.ofs - 1 }]) ∧
    (let r := cl.region g.val
      let tk := cl.takers g.val r.w
      let takes := fun (n : Nat) => tk.any (fun q => q.1.lane = lane && q.1.station = hop lane st n && q.1.cyc = ((r.slot + delay) % r.w + n) % r.w)
      ∃ n, 1 ≤ n ∧ n ≤ 15 ∧ (cl.rimVal g.val u st lane delay mask).dest = hop lane st n ∧ (∀ k, 1 ≤ k → k < n → takes k = false) ∧ (n < 15 → takes n = true)) ∧
    (let b := (d.cl c).cell t.i
      let r := d.region c g
      let s : SlotPlan := ⟨[], [], [t], [], [], [], []⟩
      let after := (d.execSlot c g s fill).cl c
      t.i < 64 → t.w.op.latency = 1 → t.w.op ≠ .nop → r.flights = [] → (∀ n < 5, routeOut t.route n < 2) → (d.cl c).portOf t.i true = none → t.port.port = none →
        ∃ q, t.flights (cellCompute t.x).1 r.cyc (vget r.kernels t.k) (vget b.live t.k) = [q] ∧
          after.cell t.i = ({ b with lfsr := vset b.lfsr t.k (cellCompute t.x).2 }).land q ∧ ∀ k, k < 64 → k ≠ t.i → after.cell k = (d.cl c).cell k)

/-! ### The dispatcher and the region scheduler -/

/-- 13 R401, R402. A host write of 64 unpoisoned bytes at offset 0 of an enabled window of a READY partition, its queue not full, puts the
token behind those that wait; with the queue full DROP counts it, a write of another shape, a poisoned one, or one while the window is off,
BAD counts, to at most 255. The windows of a die's dispatcher are served in rotation: TOKEN_RELEASE takes the token at the head of a window if the dispatcher
holds none and the window is the first, from the one after the last served on, whose token can be taken (a LAUNCH or a DATA with no room in its
queue waits); any other window keeps its tokens. -/
def Obligations.IngressWindows : Prop :=
  ∀ (s : State) (n : PartId) (w : WindowIx) (off : Nat) (data : List Byte) (po : Bool) (tok : Vector Word 8) (rest : List (Vector Word 8))
    (l1 l2 : List (PartId × WindowIx)),
    let win := vget (s.dev.part n).db.windows w
    let win' := fun (t : State) => vget (t.dev.part n).db.windows w
    let good := win.en = true ∧ (s.dev.part n).state = .ready ∧ off = 0 ∧ data.length = 64 ∧ po = false
    let die := s.dev.die win.die
    (s.dev.functionUp (PartId.func n) = true → off < 64 →
      (good → win.fifo.length < 8 → Answers (.ingressTokenWrite n w off data po) s (fun t => OnlyPart n s t ∧
        win' t = { win with fifo := win.fifo ++ [words8 data], acc := win.acc + 1 })) ∧
      (good → 8 ≤ win.fifo.length → Answers (.ingressTokenWrite n w off data po) s (fun t => OnlyPart n s t ∧
        win' t = { win with drop := BitVec.ofNat 16 (Nat.min 255 (win.drop.toNat + 1)) })) ∧
      (¬good → Answers (.ingressTokenWrite n w off data po) s (fun t => OnlyPart n s t ∧
        win' t = { win with bad := BitVec.ofNat 16 (Nat.min 255 (win.bad.toNat + 1)) }))) ∧
    (win.fifo = tok :: rest → die.hand = none → (s.dev.windowsOf win.die).find? s.dev.mayTake = some (n, w) →
      Answers (.tokenRelease n w) s (fun t => win' t = { win with fifo := rest } ∧ (t.dev.die win.die).winNext = n.val * 64 + w.val + 1 ∧
        (tokKind tok = 1 ∨ tokKind tok = 2 ∨ tokKind tok = 3 → SameMemory s.dev t.dev ∧ t.dev.clusters = s.dev.clusters ∧
          (t.dev.die win.die).hand = some ⟨tok, n, .window n w, win.pmax, win.kmask, false⟩))) ∧
    (s.dev.windowsOf win.die = l1 ++ (n, w) :: l2 → (∀ x ∈ l1, s.dev.mayTake x = false) → win.fifo = tok :: rest →
      (tokKind tok = 2 ∨ tokKind tok = 3 ∨ ((tokKind tok = 1 ∨ tokKind tok = 4) ∧
        (win.kmask.getLsbD (tokKind tok - 1) = false ∨ die.queueLen (Nat.min (tokPrio tok) win.pmax.toNat) < 64))) →
      (s.dev.windowsOf win.die).find? s.dev.mayTake = some (n, w)) ∧
    (die.hand ≠ none ∨ (s.dev.windowsOf win.die).find? s.dev.mayTake ≠ some (n, w) → Answers (.tokenRelease n w) s (fun t => t = s))

/-- 13 R404 to R411, R413, R414, R420. LAUNCH of an admitted token whose version record is in order, whose addresses translate and that
has no dependences binds an instance under the next number of its die, waiting, both dependences met, with the graph's entry and version.
EDIT of an admitted token whose version exists stores the version in the LATEST field of its graph's entry. PREEMPT reports to the control strand
of the instance it selects; on a region where the instance's context runs it puts a PREEMPT packet in each of its ingress ports there, or asks for
the stop of a region without input ports, and a context that waits is marked; with no instance it fails with cause 7. DATA puts the packet of its token in the port it selects; a MARKER
at an empty port without PUNCT is removed. A DEPENDENCE_READ that
fails neither dependence leaves what is met, and a poll reads every instance of the die.
Choices of the model: log 66, 67, 69. -/
def Obligations.Tokens : Prop :=
  ∀ (s : State) (die : DieId) (h : HandTok) (ge vr : Vector Word 8) (d1 d2 d3 : Dev) (i : Instance) (t0 : DataTok) (c : ClusterId) (p : PortIx)
    (cfg : PortCfg) (r0 r1 : DepRead) (id : Nat) (r : RegionIx),
    let d0 := s.dev.modDie die (fun x => { x with hand := none })
    let tok := h.token
    let v := if tokVersion tok = 0 then geLatest ge else tokVersion tok
    let n := nextCount (d3.die die).bindCount
    let new := die.val * 2 ^ 30 + n.toNat
    let pkt := dataTokPacket t0.token (vget (s.dev.cl c).fab.ports p).ver
    let at_ := (d2.part h.part).db.gtBase.toNat * 4096 + 64 * tokGraph tok
    ((s.dev.die die).hand = some h →
      (tokKind tok = 1 → d0.admitToken h = (.ok ge, d1) → d1.versionRec h.part ge v = (some vr, d2) → d2.tokAddrsOk die h.part ge tok vr = (true, d3) →
        d3.inst die new = none → pw tok 2 = 0 → pw tok 4 = 0 →
        Answers (.launch die) s (fun t => (t.dev.die die).hand = (d3.die die).hand ∧ (t.dev.die die).bindCount = n ∧ SameMemory d3 t.dev ∧
          t.dev.clusters = d3.clusters ∧ ∃ j, t.dev.inst die new = some j ∧ j.part = h.part ∧ j.token = tok ∧ j.gentry = ge ∧ j.vrec = vr ∧
            j.version.toNat = v % 2 ^ 16 ∧ j.prio.toNat = Nat.min (tokPrio tok) h.pmax.toNat ∧ j.state = .waiting ∧ j.met = 3)) ∧
      (tokKind tok = 3 → d0.admitToken h = (.ok ge, d1) → d1.versionRec h.part ge (tokVersion tok) = (some vr, d2) →
        Answers (.edit die) s (fun t => t = s.after (d2.homeWrite h.part at_ 0 false
          [(at_ + 2, BitVec.ofNat 8 (tokVersion tok)), (at_ + 3, BitVec.ofNat 8 (tokVersion tok / 256))] false none))) ∧
      (tokKind tok = 2 → d0.admitToken h = (.ok ge, d1) →
        ((d1.instances h.part).filter (fun i => i.state != .waiting && i.tagged (tokGraph tok) (tokTag tok)) = [i] → i.state = .running →
          d1.ctxRegions i.part i.id = [] → Answers (.preempt die) s (fun t =>
            t = s.after (d1.report ⟨.preempt i.id, i.base, i.strand, .preempt, 0, BitVec.ofNat 64 i.id⟩))) ∧
        ((d1.instances h.part).filter (fun i => i.state != .waiting && i.tagged (tokGraph tok) (tokTag tok)) = [i] → i.state = .running →
          d1.ctxRegions i.part i.id = [(c, r)] →
          let told := d1.report ⟨.preempt i.id, i.base, i.strand, .preempt, 0, BitVec.ofNat 64 i.id⟩
          let marked := fun (t : State) => (t.dev.region c r).graphPre = true ∧ t.dev.reports = told.reports ∧
            ∀ v ∈ (t.dev.region c r).ctxs, v.running = true → v.stoppedBySup = true ∧ v.pre = false
          ((∀ v ∈ (d1.region c r).ctxs, v.inst = i.id → v.running = false) → Answers (.preempt die) s (fun t => t = s.after
            (told.modRegion c r (fun x => { x with ctxs := x.ctxs.map (fun v => if v.inst = i.id then { v with pre := true } else v) })))) ∧
          ((∃ v ∈ (d1.region c r).ctxs, v.inst = i.id ∧ v.running = true) →
            ((i.ports.map (·.2)).Nodup → (∃ q ∈ (d1.cl c).portsBound r, q.2 = false) → Answers (.preempt die) s (fun t => marked t ∧
              ∀ q ∈ i.ports, q.2.1 = c → d1.portRegion c q.2.2 = some r → (vget (t.dev.cl c).fab.ports q.2.2).inq =
                (vget (d1.cl c).fab.ports q.2.2).inq ++ [⟨packetHdr 0 (vget (d1.cl c).fab.ports q.2.2).ver 2 0, [], 0⟩])) ∧
            ((∀ q ∈ (d1.cl c).portsBound r, q.2 = true) → (d1.region c r).st = .running → (d1.region c r).busy = true → d1.gangIds c r = [] →
              Answers (.preempt die) s (fun t => marked t ∧ (t.dev.region c r).st = .stopping ∧ (t.dev.region c r).stop = true)))) ∧
        ((d1.instances h.part).filter (fun i => i.state != .waiting && i.tagged (tokGraph tok) (tokTag tok)) = [] →
          Answers (.preempt die) s (fun t => (t.dev.part h.part).db.errCause.toNat = 7 ∧ t.dev.clusters = d1.clusters)))) ∧
    ([3, 2, 1, 0].findSome? (fun q => s.dev.pickData (s.dev.die die) ((s.dev.die die).datas.filter (fun t => t.prio.toNat = q)) []) =
        some (t0, some (c, p)) → (vget (s.dev.cl c).fab.ports p).cfg = some cfg → pkt.bad = false → pkt.kind ≠ 3 →
      Answers (.data die) s (fun t => (vget (t.dev.cl c).fab.ports p).inq = (if (vget (s.dev.cl c).fab.ports p).rest = [] ∧ pkt.kind = 1 ∧
          cfg.punct = false then (vget (s.dev.cl c).fab.ports p).inq else (vget (s.dev.cl c).fab.ports p).inq ++ [pkt]) ∧
        (∀ u ∈ (t.dev.die die).datas, u.order ≠ t0.order) ∧ SameMemory s.dev t.dev)) ∧
    (s.dev.inst die id = some i → i.state = .waiting → i.depFault = false → i.met ≠ 3 → s.dev.depRead i 0 = (r0, d1) → d1.depRead i 1 = (r1, d2) →
      (∀ x, r0 ≠ .fail x) → (∀ x, r1 ≠ .fail x) → d2.inst die id = some i → ∀ e ∈ [Instr.dependenceRead die id, .dependencePoll die],
        (e = .dependencePoll die → (s.dev.die die).insts.map (·.id) = [id]) →
        Answers e s (fun t => SameMemory d2 t.dev ∧ t.dev.clusters = d2.clusters ∧ ∃ j, t.dev.inst die id = some j ∧ j.state = .waiting ∧
          j.met = BitVec.ofNat 2 (b2n (r0 = .met) + 2 * b2n (r1 = .met)) ∧ j.token = i.token))

/-- 13 R415 to R418. PLACEMENT gives the instance that it chooses the base cluster that it chooses; after 2^20 cycles the oldest ready one
holds back those behind it. CONFIGURATION_LOAD of an image that is in order and is the one the version names loads its clusters, and
every region that it configures has a context of the instance. CONTROL_STRAND_WAKE starts the first strand that may be woken at the version's entry,
at user privilege, with the arguments in g1 to g5 and zeros in the other registers, as an acquire. INSTANCE_RETIRE, the control strand at WFI and nothing of the
instance left at work, its strand's signal operations performed, with no DONE address, idles that strand and frees the instance.
Choices of the model: log 71, 72, 73, 77. -/
def Obligations.InstanceLife : Prop :=
  ∀ (s : State) (die : DieId) (i : Instance) (c : ClusterId) (id : Nat) (t0 : Nat) (l : FabLoad) (d1 d2 : Dev) (k : StrandIx) (ks : List StrandIx)
    (hd : Bool),
    let cs := placed i.base.val (vrNcl i.vrec)
    let now := d2.loadNow l cs
    let d3 := (d2.applyLoad i.base.val now cs [] none).setSrc now cs (some i.loadSrc)
    s.dev.inst die id = some i →
    (s.dev.choosePlacement die [3, 2, 1, 0] = some (i, c) → Answers (.placement die) s (fun t =>
      t.dev.inst die id = some { i with state := .placed, base := c } ∧ t.dev.clusters = s.dev.clusters ∧ SameMemory s.dev t.dev)) ∧
    (i.readySince = some t0 → (s.dev.readyAt die i.prio.toNat).head? = some i → t0 + 2 ^ 20 ≤ s.dev.now →
      Answers (.readyWaitLimit die id) s (fun t => t.dev.inst die id = some { i with blocked := true } ∧ t.dev.clusters = s.dev.clusters)) ∧
    (i.state = .placed → i.pre = false → s.dev.loadAt i.part i.loadSrc = (.ok l, d1) → l.loadId.toNat = vrLoadId i.vrec → l.ncl = vrNcl i.vrec →
      (∀ k ∈ cs.zipIdx, loadLayout (d1.cl k.1) (l.of k.2) = (d1.cl k.1).layout.toNat) → loadChecksM i.base l i.base.val cs true d1 = (.ok (), d2) →
      d2.inst die id = some i → Answers (.configurationLoad die id) s (fun t => t.dev.inst die id = some { i with state := .loaded } ∧
        SameMemory d3 t.dev ∧ ∀ x ∈ d3.loadTargets l cs, ∃ u ∈ (t.dev.region x.1 x.2).ctxs, u.inst = i.id)) ∧
    (i.state = .loaded → i.pre = false → (∀ c ∈ cs, ∀ r ∈ (s.dev.cl c).fab.regions.toList, r.token = none) → s.dev.wakeables i.base = k :: ks →
      Answers (.controlStrandWake die id) s (fun t =>
        let st := t.dev.strand i.base k
        let ap := (s.dev.cl i.base).ap
        t.dev.inst die id = some { i with state := .running, strand := k } ∧ SameMemory s.dev t.dev ∧
        st.state = .run ∧ st.priv = false ∧ st.ie = true ∧ st.pie = false ∧ st.ppriv = false ∧ st.dbl = false ∧ st.instance_ = some i.id ∧
        st.pc = BitVec.ofNat 64 (ap.lo 3 + pw i.vrec 2) ∧ st.ident = geIdent i.gentry ∧ st.getG 1 = argsWord ap (pw i.token 1) ∧
        st.getG 2 = BitVec.ofNat 64 i.id ∧ st.getG 3 = BitVec.ofNat 64 i.base.val ∧ st.getG 4 = vgetD i.token 0 0 ∧
        st.getG 5 = i.version.setWidth 64 ∧ (∀ r : GReg, 6 ≤ r.val → st.getG r = 0) ∧ (∀ r : FReg, st.getF r = 0) ∧
        st.trapVec = (s.dev.strand i.base k).trapVec ∧ st.acqTag = (s.dev.cl i.base).nextTag ∧ t.dev.remoteNow = [])) ∧
    (i.state = .running → (s.dev.strand i.base i.strand).state = .wait .wfi hd → (s.dev.strand i.base i.strand).priv = false →
      (s.dev.strand i.base i.strand).instance_ = some id → (s.dev.cl i.base).buffer = [] → (∀ r ∈ (s.dev.cl i.base).reqs, r.who ≠ .strand i.strand) →
      (∀ x ∈ (s.dev.cl i.base).signals, x.k ≠ i.strand) →
      (∀ c ∈ s.dev.clustersOf i.part, (s.dev.cl c).doneWith id = true) → pw i.token 6 = 0 →
      Answers (.instanceRetire die id) s (fun t => t.dev.inst die id = none ∧ (t.dev.strand i.base i.strand).state = .idle ∧
        (t.dev.strand i.base i.strand).instance_ = none ∧ SameMemory s.dev t.dev ∧
        ∀ c ∈ s.dev.clustersOf i.part, ∀ r, ∀ u ∈ (t.dev.region c r).ctxs, u.inst ≠ id))

/-- 13 R421 to R423. At the end of the running context's quantum each context that waited through it has waited one more; the scheduler asks
for the region's stop if the context that comes next has the same effective priority, and else (none next, or one of a lower effective priority), or with PIN,
begins a new quantum. A
waiting context that has waited eight quanta ages by one step of priority, to at most 3. CONTEXT_SWITCH asks for the stop of a context that runs
below the next one, of a FAULTED region too, and once the region stands the running context is saved in a slot and the next one restored; a context that a
supervisor or a PREEMPT has stopped stays. On a region without a running context the next context runs.
Choices of the model: log 76. -/
def Obligations.RegionScheduler : Prop :=
  ∀ (s : State) (c : ClusterId) (r : RegionIx) (u w : RegCtx) (j : Fin 4) (p : PartId) (b : Option (List Byte)) (d1 d2 d3 : Dev),
    let x := s.dev.region c r
    let y := fun (t : State) => t.dev.region c r
    let waited := x.ctxs.map (fun v => if v.running = false ∧ v.waitFrom ≤ x.quantumFrom then { v with waited := v.waited + 1 } else v)
    let asked := fun (t : State) => OnlyRegion c r s t ∧ (y t).rotate = true ∧ (y t).st = .stopping ∧ (y t).stop = true ∧ (y t).kernels = x.kernels
    (x.runner = some u → x.rotate = false →
      (x.quantumLen ≠ 0 → x.quantumFrom + x.quantumLen.toNat * 1024 ≤ s.dev.now →
        (x.nextCtx = some w → x.effOf w = x.effOf u → x.pin = false → u.stoppedBySup = false → x.st = .running → x.busy = true →
          s.dev.gangIds c r = [] → Answers (.quantumEnd c r) s (fun t => asked t ∧ (y t).ctxs = waited)) ∧
        ((x.pin = true ∨ x.nextCtx = none ∨ u.stoppedBySup = true ∨ (x.nextCtx = some w ∧ x.effOf w < x.effOf u)) → Answers (.quantumEnd c r) s (fun t => t = s.after (s.dev.modRegion c r (fun z =>
          { z with ctxs := waited, quantumFrom := s.dev.now, quantumLen := (s.dev.cl c).quantum }))))) ∧
      (x.nextCtx = some w → s.dev.partOf c = some p → u.stoppedBySup = false → x.effOf u < x.effOf w → x.st = .running → x.busy = true →
        s.dev.gangIds c r = [] → Answers (.contextSwitch c r) s (fun t => asked t ∧ (y t).ctxs = x.ctxs)) ∧
      (x.nextCtx = some w → s.dev.partOf c = some p → u.stoppedBySup = false → x.effOf u < x.effOf w → x.st = .faulted →
        s.dev.gangIds c r = [] → Answers (.contextSwitch c r) s (fun t => (y t).rotate = true ∧ (y t).st = .stopped))) ∧
    (x.runner = some u → x.nextCtx = some w → s.dev.partOf c = some p → u.stoppedBySup = true → x.live = true →
      Answers (.contextSwitch c r) s (fun t => t = s.after (s.dev.modRegion c r (fun z => { z with rotate := false })))) ∧
    (x.runner = some u → x.nextCtx = some w → s.dev.partOf c = some p → u.stoppedBySup = false → x.rotate = true → x.st = .stopped →
      x.effOf u ≤ x.effOf w → s.dev.takeSlot p w = (some b, d1) → d1.saveContext p c r = some d2 → d2.restoreContext p c r w b = (true, d3) →
      w.pre = false → Answers (.contextSwitch c r) s (fun t => SameMemory d3 t.dev ∧ (y t).rotate = false ∧
        (y t).ctxs = (d3.region c r).ctxs.map (fun v => if v.inst = w.inst then { v with running := true, slot := none, boost := 0, waited := 0 } else v) ∧
        (y t).kernels = (d3.region c r).kernels ∧ (y t).quantumFrom = d3.now)) ∧
    (x.ctxs[j.val]? = some u → u.running = false → 8 ≤ u.waited → x.pin = false → Answers (.aging c r j) s (fun t => OnlyRegion c r s t ∧
      (y t).ctxs = x.ctxs.set j.val { u with waited := u.waited - 8, boost := Nat.min (3 - u.base) (u.boost + 1) })) ∧
    (x.runner = none → x.live = false → x.nextCtx = some w → s.dev.partOf c = some p → w.pre = false → s.dev.takeSlot p w = (some b, d1) →
      d1.restoreContext p c r w b = (true, d2) → Answers (.contextSwitch c r) s (fun t => SameMemory d2 t.dev ∧ (y t).rotate = false ∧
        (y t).ctxs = (d2.region c r).ctxs.map (fun v => if v.inst = w.inst then { v with running := true, slot := none, boost := 0, waited := 0 } else v) ∧
        (y t).kernels = (d2.region c r).kernels ∧ (y t).quantumFrom = d2.now))

/-! ### The host and the platform -/

/-- 17 R474 to R477, R482; 04 R136, R163. An access from outside to exported scratchpad, within one 64-byte granule: BAR4_WRITE writes its bytes and
no other; BAR4_READ of unpoisoned bytes, and a read by a member of the domain whose message a good flit has brought, the first of its number, answer them; ATOMICOP adds and answers the old value;
NOTIFY_WRITE puts its value in an empty word, which becomes full, and on a full word sets NTFERR and sends vector 1. One that names nothing
exported is not performed: PEERERR counts it, and one that expects an answer is refused.
Choices of the model: log 18, 19, 20, 21. -/
def Obligations.ExportedAccess : Prop :=
  ∀ (s : State) (n : PartId) (off : BitVec 40) (data : List Byte) (m : Nat) (c : ClusterId) (o : Nat) (v : Word) (src : Fin 4096)
    (seq : BitVec 16),
    let key := s.dev.scratchKeyOf c o
    let place := fun (src : Option Nat) (m : Nat) (wr : Bool) => s.dev.exportAt n src off.toNat m wr
    let bytes := (List.range m).map (fun i => memRead s.dev.mem (s.dev.scratchKeyOf c (o + i)))
    let clean := ∀ i < m, smem s.dev.poison (s.dev.scratchKeyOf c (o + i) / 64) = false
    let told := fun (x : HostMsg) (t : State) => t = s.after { s.dev with sent := s.dev.sent ++ [x] }
    let refused := fun (l : List HostMsg) (t : State) => SameMemory s.dev t.dev ∧ t.dev.clusters = s.dev.clusters ∧
      t.dev.sent = s.dev.sent ++ l ∧ (t.dev.part n).pf.peerErr.toNat = Nat.min ((s.dev.part n).pf.peerErr.toNat + 1) 0xFFFFFFFF
    Memory.wf s.dev.mem = true → o < 0xC00000 → o % 64 + m ≤ 64 → 0 < m → s.dev.functionUp (PartId.func n) = true →
    (data.length = m → place none m true = some (.scratch c o) → Answers (.bar4Write n off data) s (fun t =>
      memReadN t.dev.mem key m = data ∧ SameMemoryOutside key m s.dev t.dev ∧ t.dev.clusters = s.dev.clusters ∧ t.dev.parts = s.dev.parts)) ∧
    (data.length = m → place none m true = none → Answers (.bar4Write n off data) s (refused [])) ∧
    (place none m false = some (.scratch c o) → clean → Answers (.bar4Read n off m) s (told (.readData bytes))) ∧
    (place none m false = none → Answers (.bar4Read n off m) s (refused [.unsupported])) ∧
    ((src.val, seq.toNat) ∈ s.dev.received → (src.val * 8 + n.val, seq.toNat) ∉ s.dev.performed →
      (place (some src.val) m false = some (.scratch c o) → clean → Answers (.incomingPeerAccess src n off (.numbered seq (.read m))) s (fun t =>
        t.dev.sent = s.dev.sent ++ [.peerData src.val bytes] ∧
        { t.dev with sent := s.dev.sent, received := s.dev.received, performed := s.dev.performed } = s.dev)) ∧
      (place (some src.val) m false = none → Answers (.incomingPeerAccess src n off (.numbered seq (.read m))) s (refused [.peerRefused src.val]))) ∧
    (m = 8 → off.toNat % 8 = 0 → place none 8 true = some (.scratch c o) → clean → Answers (.atomicop n off true (.fetchAdd v)) s (fun t =>
      t.dev.sent = s.dev.sent ++ [.atomicOld (leWord bytes)] ∧ SameMemoryOutside key 8 s.dev t.dev ∧
      leNat (memReadN t.dev.mem key 8) = (leNat bytes + v.toNat) % 2 ^ 64)) ∧
    (m = 8 → off.toNat % 8 = 0 → place none 8 true = some (.scratch c o) → (s.dev.cl c).waits = [] →
      let put := Instr.notifyWrite n 0x40000 (leBytes 8 off.toNat ++ leBytes 8 v.toNat)
      (smem s.dev.full (key / 8) = false → Answers put s (fun t => smem t.dev.full (key / 8) = true ∧ memReadN t.dev.mem key 8 = leBytes 8 v.toNat ∧
        SameMemoryOutside key 8 s.dev t.dev ∧ t.dev.sent = s.dev.sent)) ∧
      (smem s.dev.full (key / 8) = true → Answers put s (fun t => SameMemory s.dev t.dev ∧ (t.dev.part n).pf.ntfFull = true ∧
        (t.dev.part n).pf.ntfOff = off ∧ t.dev.sent = s.dev.sent ++ [.msix (PartId.func n) 1])))

/-- 00 R7; 02 R69; 17 R488, R489, R492, R493. The end of a bring-up phase that may end is marked, and only it; PERST leaves the device as at reset but for what
its arrays hold (log 54) and for TRAPVEC, every presence bit 0, at phase 0, with no turn laid out; THERMTRIP stops every clock. SETKEY by a session that has had the report of
its partition's measurement takes the key once; a report answers with the five images' measurements and the partition's, signed, and the session
counts as having had it.
Choices of the model: log 53, 79, 80, 126. -/
def Obligations.PlatformEvents : Prop :=
  ∀ (s : State) (n : PartId) (session : Nat) (key : BitVec 512) (ph : Fin 5),
    let p := s.dev.part n
    (s.dev.functionUp (PartId.func n) = true →
      (p.state = .ready → p.kpol = 1 → p.key = none → session ∈ p.reported → Answers (.setkey n session key) s (fun t =>
        (t.dev.part n) = { p with key := some key } ∧ t.dev.sent = s.dev.sent ++ [.keyAccepted n] ∧ SameMemory s.dev t.dev)) ∧
      ((p.state ≠ .ready ∨ p.kpol ≠ 1 ∨ p.key ≠ none ∨ session ∉ p.reported) → Answers (.setkey n session key) s (fun t =>
        t = s.after { s.dev with sent := s.dev.sent ++ [.keyError n] })) ∧
      Answers (.measurementReport (PartId.func n) session) s (fun t => session ∈ (t.dev.part n).reported ∧ SameMemory s.dev t.dev ∧
        t.dev.sent = s.dev.sent ++ [.measurement 1 (Config.imageMeasurement 1), .measurement 2 (Config.imageMeasurement 2),
          .measurement 3 (Config.imageMeasurement 3), .measurement 4 (Config.imageMeasurement 4), .measurement 5 (Config.imageMeasurement 5),
          .measurement (16 + n.val) p.measured, .signature (Config.identitySignature [(1, Config.imageMeasurement 1),
            (2, Config.imageMeasurement 2), (3, Config.imageMeasurement 3), (4, Config.imageMeasurement 4), (5, Config.imageMeasurement 5),
            (16 + n.val, p.measured)])])) ∧
    (s.dev.phases.getLsbD ph.val = false → (∀ q ∈ phaseNeeds ph.val, s.dev.phases.getLsbD q = true) → (s.dev.running = true ∨ ph = 2) →
      Answers (.bringUpPhaseDone ph) s (fun t => t.dev.phases.getLsbD ph.val = true ∧ (∀ q, q ≠ ph.val → t.dev.phases.getLsbD q = s.dev.phases.getLsbD q) ∧
        (s.dev.heldPctl = [] → SameMemory s.dev t.dev))) ∧
    Answers .perst s (fun t => t.turns = [] ∧ t.dev.phases = 0 ∧ t.dev.full = [] ∧ t.dev.parts = Dev.reset.parts ∧
      (∀ c, { t.dev.cl c with strands := Cluster.reset.strands } = Cluster.reset) ∧
      (∀ c k, t.dev.strand c k = { vget Cluster.reset.strands k with trapVec := (s.dev.strand c k).trapVec }) ∧
      t.dev.dies = Dev.reset.dies ∧ t.dev.now = 0 ∧ t.dev.mem = s.dev.mem ∧ t.dev.stopped = false) ∧
    Answers .thermtrip s (fun t => t = s.after { s.dev with stopped := true })

/-! ### Steps -/

/-- 05 R166, 07 R230, 13 R400. A step whose turn is a core's fetches for the strand that R166 picks, if none of its causes is to be
taken, and runs the instruction that the words at its program counter decode to; words that decode to none run the illegal instruction; a
turn that is an event runs it; a strand that retries runs its instruction again. The increments of the turn's reads come at its end (01 R46). A turn whose request a map fence holds is withdrawn (03 R114), and an access
from outside waits behind those that one holds. The word at an aligned program counter in scratchpad is the
four bytes there, the lowest address least significant.
Choices of the model: log 2, 38, 102. -/
def Obligations.StepRunsDecoded : Prop :=
  ∀ (s u : State) (c : ClusterId) (k : StrandIx) (rest : List Turn) (w w2 : Nat) (d1 : Dev) (i : Instr) (e : Reject) (h : ClusterId) (o : Nat)
    (t : Turn),
    let s0 : State := { s with turns := rest, dev := s.dev.modCl c (fun cl => { cl with last := k }), curC := c, curK := k }
    let r0 : State := { s with turns := rest, curC := c, curK := k }
    let ran := fun (d : Dev) => d.modStrand c k (fun st => { st with atVector := false })
    let x := s.dev.strandCtx c k
    let st := s.dev.strand c k
    let n0 : State := { s with turns := rest }
    let goes := u.counted.dev.fenceMet = false
    s.dev.stopped = false →
    (goes → s.turns = .core c :: rest → s.dev.pick c = some k →
      (s0.me.ie && s0.dev.takesAsync c k && (s0.dev.pending c k).isSome) = false → fetchPair c k s0.dev = (.ok (w, w2), d1) →
      (decode w w2 = .ok i → exec i { s0 with dev := ran d1 } = .next u → step s = .next u.counted) ∧
      (decode w w2 = .error e → exec (.illegalInstruction (BitVec.ofNat 32 w)) { s0 with dev := ran d1 } = .next u → step s = .next u.counted)) ∧
    (goes → s.turns = .retry c k :: rest → s.dev.retries c k = true → fetchPair c k s.dev = (.ok (w, w2), d1) → decode w w2 = .ok i →
      exec i { r0 with dev := ran d1 } = .next u → step s = .next u.counted) ∧
    (goes → s.turns = .event i :: rest → s.behind (.event i) = false → exec i n0 = .next u → step s = .next u.counted) ∧
    (s.turns = t :: rest → s.behind t = false → n0.turn t = .next u → u.counted.dev.fenceMet = true → step s = .next (n0.withdraw t)) ∧
    (s.turns = t :: rest → s.behind t = true → step s = .next (n0.hold t)) ∧
    (st.pc.toNat % 4 = 0 → st.ahead = [] → resolve x st.pc .fetch s.dev = (.ok (.scratch h o), s.dev) →
      s.dev.signalWaits x (.scratch h o) = false →
      s.dev.bankCheck (s.dev.partOf h) h o = none → smem s.dev.poison (s.dev.scratchKeyOf h o / 64) = false →
      leNat (memReadN s.dev.mem (s.dev.scratchKeyOf h o) 4) / 2 ^ 26 ≠ 0x3F →
      fetchPair c k s.dev = (.ok (leNat (memReadN s.dev.mem (s.dev.scratchKeyOf h o) 4), 0), s.dev))

/-- 01 R38, 09 R298, 14 R425. FETCH_FAULT of a strand whose program counter is no multiple of 4 traps with MISALIGNED, and of one whose word cannot
be had with the cause of the failure, TRAPVAL the address of the word that failed; at the first instruction of a handler the strand becomes
IDLE with DBL set. A fetch that has to wait at its home is attempted again.
Choices of the model: log 63. -/
def Obligations.FetchFaults : Prop :=
  ∀ (s : State) (e : XFault) (a : Word) (cause : Cause) (sub : BitVec 8) (val : Word) (d1 : Dev),
    (s.me.pc.toNat % 4 ≠ 0 → s.me.atVector = false → Answers .fetchFault s (Traps .misaligned 0 s.me.pc s.me.pc s)) ∧
    (fetchPair s.curC s.curK s.dev = (.error (e, a), d1) → (s.after d1).me = s.me → s.me.atVector = false → e.toErr a = .trap cause sub val →
      val = a ∧ Answers .fetchFault s (Traps cause sub a s.me.pc (s.after d1))) ∧
    (fetchPair s.curC s.curK s.dev = (.error (e, a), d1) → (s.after d1).me = s.me → s.me.atVector = true → e.toErr a = .trap cause sub val →
      Answers .fetchFault s (fun t => t = (s.after d1).modMe (fun st => { st with dbl := true, state := .idle, atVector := false }))) ∧
    (fetchPair s.curC s.curK s.dev = (.error (e, a), d1) → (s.after d1).me = s.me → e.toErr a = .again → Answers .fetchFault s (fun t =>
      t = (s.after d1).uncounted.modMe (fun st => { st with state := st.state.waiting (.retry (d1.strandAp s.curC s.curK)) })))

/-- Every instruction and event answers a next state in every state, so a step does too; only a device whose clocks THERMTRIP has
stopped (17 R493) stops the run, under its own name, until PERST. No step is refused. -/
def Obligations.EveryStepAnswers : Prop :=
  (∀ (i : Instr) (s : State), ∃ t, exec i s = .next t) ∧
  (∀ s : State, s.dev.stopped = false → ∃ t, step s = .next t) ∧
  (∀ s : State, s.dev.stopped = true → (∀ rest, s.turns ≠ .event .perst :: rest) → step s = .fault .clocksStopped) ∧
  (∀ (s : State) (rest : List Turn), s.turns = .event .perst :: rest → ∃ t, step s = .next t)

/-- Every instruction and every step keeps memory in its canonical form: addresses strictly rising, no entry that an unlisted address reads as; and
reset memory has that form. -/
def Obligations.StepKeepsMemoryForm : Prop :=
  State.reset.memoryOk ∧ (∀ (i : Instr) (s t : State), s.memoryOk → exec i s = .next t → t.memoryOk) ∧
  ∀ s t : State, s.memoryOk → step s = .next t → t.memoryOk

/-- 01 R15, R39, 02 R69, 04 R143, 05 R165, 09 R293, R295, R316, 13 R422, 17 R485. After reset strand 0 of each cluster runs and the others are IDLE (R165; log 4), each at supervisor privilege with IE, PPRIV, PIE and DBL
0, TSCRATCH, FPFLAGS and FPTRAPEN 0, SLFSR and ROUNDLEN 1; no presence bit is set, no command queued, no aperture open, every partition OFF, its fault queue of 256
records, QUANTUM 64, the next sequence number 1, the cycle count 0; memory lists nothing and is in its form. The registers for which the spec gives no value are the model's choice (log 3). -/
def Obligations.ResetState : Prop :=
  let d := State.reset.dev
  State.reset.memoryOk ∧ d.mem = [] ∧ d.full = [] ∧ d.now = 0 ∧
  (∀ (c : ClusterId) (k : StrandIx),
    let st := d.strand c k
    st.state = (if k = 0 then .run else .idle) ∧ st.priv = true ∧ st.ie = false ∧ st.ppriv = false ∧ st.pie = false ∧ st.dbl = false ∧ st.tscratch = 0 ∧
    st.slfsr = 1 ∧ st.roundLen = 1 ∧ (∀ r, st.getG r = 0)) ∧
  (∀ (c : ClusterId), (d.cl c).fpFlags = 0 ∧ (d.cl c).fpTrapEn = 0 ∧ (d.cl c).quantum = 64 ∧ (d.cl c).buffer = [] ∧ (d.cl c).inbox = [] ∧
    d.partOf c = none ∧ ((d.cl c).ap.decode 0 = none) ∧ ∀ q, (d.queue c q).cmds = [] ∧ (d.queue c q).nextSeq = 1) ∧
  (∀ p : PartId, (d.part p).state = .off ∧ (d.part p).pf.expEn = false ∧ (d.part p).tr.fqEn = false ∧ (d.part p).tr.fqLog2 = 8)

/-! ### Encodings -/

/-- 07 R230 to R236. Words written out bit by bit from the encodings decode to the instructions they stand for, and words with an unassigned
major opcode, an unassigned function, a reserved field that is not zero or a reserved code are refused. -/
def Obligations.KnownWordsDecode : Prop :=
  (∀ x ∈ ([(0x04642800, .add 3 4 5), (0x0860FFFF, .addi 3 0 0xFFFF), (0x20C60083, .srai 6 6 3), (0x24631234, .lih 3 3 0x1234),
      (0x34640010, .ldd 3 4 16), (0x5083FFF8, .std 4 3 0xFFF8), (0x58220003, .beq 1 2 3), (0x5C40FFFE, .bne 2 0 0xFFFE),
      (0x73FFFFFF, .jal 0x3FFFFFF), (0x5465209D, .amoAdd 3 5 4 3 2 true), (0x5405331D, .put 5 6 3), (0x54E5039B, .rdf 7 5 3),
      (0x54000458, .fence 3 0), (0x54050480, .monarm 5), (0x540004C0, .monwait), (0x78000221, .trap 0x21), (0x78000400, .rte),
      (0x78000500, .wfi), (0x78000600, .snap), (0x7C640003, .acvtTo 3 4 3), (0x7CA60200, .atst 5 6), (0x800A5900, .krun 10 11),
      (0x85880000, .enq 12 8 0), (0x892A5B08, .bwait 9 10 11 1), (0x902218C0, .ffma 1 2 3 0)] : List (Nat × Instr)),
    decode x.1 0 = .ok x.2) ∧
  decode 0xFC03C000 0x12345678 = .ok (.li64 7 true 0x12345678) ∧
  (∀ w ∈ [0x00000000, 0x94000000, 0x04642818, 0x20C600C3, 0x5405031B, 0x7C640007, 0x85880007, 0x902218C7, 0xFC03C001], ∃ e, decode w 0 = .error e)

/-- Decoding undoes encoding: every well-formed instruction that words name, with every operand at every value that its encoding admits,
is encoded by words of 32 bits that decode to it; and every instruction of the first 111 rows of the opcode table, whose constructors are
the first of Instr, is so named. -/
def Obligations.DecodeEncode : Prop :=
  (∀ (i : Instr) (w w2 : Nat), i.wf = true → encode i = some (w, w2) → w < 2 ^ 32 ∧ w2 < 2 ^ 32 ∧ decode w w2 = .ok i) ∧
  ∀ i : Instr, i.wf = true → i.ctorIdx < 111 → ∃ w w2, encode i = some (w, w2)

/-- Encoding undoes decoding: a word that decodes to an instruction is that instruction's encoding, and the instruction is well-formed; so no
field of a word is dropped and no two words name one instruction. -/
def Obligations.EncodeDecode : Prop :=
  ∀ (w w2 : Nat) (i : Instr), w < 2 ^ 32 → w2 < 2 ^ 32 → decode w w2 = .ok i →
    i.wf = true ∧ encode i = some (w, if w / 2 ^ 26 = 0x3F then w2 else 0)
end

