-- ==== Sys2Proof/Laws/State.lean ====
section
/-! SUPPORT. What each update of the state leaves in each field: one lemma a field and update, so that no proof unfolds a record
update. -/

namespace Sys2Proof.Machine

/-! Elements of vectors -/

@[simp] theorem vget_vset_same {α : Type} {n : Nat} (v : Vector α n) (i : Fin n) (x : α) : vget (vset v i x) i = x := by
  simp [vget, vset]
theorem vget_vset_ne {α : Type} {n : Nat} (v : Vector α n) (i j : Fin n) (x : α) (h : i ≠ j) :
    vget (vset v i x) j = vget v j := by
  have : i.val ≠ j.val := fun e => h (Fin.ext e)
  simp [vget, vset, this]
@[simp] theorem vset_vget {α : Type} {n : Nat} (v : Vector α n) (i : Fin n) : vset v i (vget v i) = v := by
  simp [vget, vset]
@[simp] theorem vset_vset {α : Type} {n : Nat} (v : Vector α n) (i : Fin n) (x y : α) :
    vset (vset v i x) i y = vset v i y := by
  simp [vset]
@[simp] theorem vget_replicate {α : Type} {n : Nat} (x : α) (i : Fin n) : vget (Vector.replicate n x) i = x := by
  simp [vget]

/-! The device after a change of a cluster, a strand, a partition or a die -/

@[simp] theorem Dev.setCl_parts (d : Dev) (c : ClusterId) (x : Cluster) : (d.setCl c x).parts = d.parts := rfl
@[simp] theorem Dev.setCl_dies (d : Dev) (c : ClusterId) (x : Cluster) : (d.setCl c x).dies = d.dies := rfl
@[simp] theorem Dev.setCl_mem (d : Dev) (c : ClusterId) (x : Cluster) : (d.setCl c x).mem = d.mem := rfl
@[simp] theorem Dev.setCl_poison (d : Dev) (c : ClusterId) (x : Cluster) : (d.setCl c x).poison = d.poison := rfl
@[simp] theorem Dev.setCl_enc (d : Dev) (c : ClusterId) (x : Cluster) : (d.setCl c x).enc = d.enc := rfl
@[simp] theorem Dev.setCl_full (d : Dev) (c : ClusterId) (x : Cluster) : (d.setCl c x).full = d.full := rfl
@[simp] theorem Dev.setCl_lls (d : Dev) (c : ClusterId) (x : Cluster) : (d.setCl c x).lls = d.lls := rfl
@[simp] theorem Dev.setCl_plru (d : Dev) (c : ClusterId) (x : Cluster) : (d.setCl c x).plru = d.plru := rfl
@[simp] theorem Dev.setCl_dramErr (d : Dev) (c : ClusterId) (x : Cluster) : (d.setCl c x).dramErr = d.dramErr := rfl
@[simp] theorem Dev.setCl_refresh (d : Dev) (c : ClusterId) (x : Cluster) : (d.setCl c x).refresh = d.refresh := rfl
@[simp] theorem Dev.setCl_reports (d : Dev) (c : ClusterId) (x : Cluster) : (d.setCl c x).reports = d.reports := rfl
@[simp] theorem Dev.setCl_monitors (d : Dev) (c : ClusterId) (x : Cluster) : (d.setCl c x).monitors = d.monitors := rfl
@[simp] theorem Dev.setCl_links (d : Dev) (c : ClusterId) (x : Cluster) : (d.setCl c x).links = d.links := rfl
@[simp] theorem Dev.setCl_received (d : Dev) (c : ClusterId) (x : Cluster) : (d.setCl c x).received = d.received := rfl
@[simp] theorem Dev.setCl_performed (d : Dev) (c : ClusterId) (x : Cluster) : (d.setCl c x).performed = d.performed := rfl
@[simp] theorem Dev.setCl_cmapClusters (d : Dev) (c : ClusterId) (x : Cluster) : (d.setCl c x).cmapClusters = d.cmapClusters := rfl
@[simp] theorem Dev.setCl_groups (d : Dev) (c : ClusterId) (x : Cluster) : (d.setCl c x).groups = d.groups := rfl
@[simp] theorem Dev.setCl_pways (d : Dev) (c : ClusterId) (x : Cluster) : (d.setCl c x).pways = d.pways := rfl
@[simp] theorem Dev.setCl_psplit (d : Dev) (c : ClusterId) (x : Cluster) : (d.setCl c x).psplit = d.psplit := rfl
@[simp] theorem Dev.setCl_splitOwner (d : Dev) (c : ClusterId) (x : Cluster) : (d.setCl c x).splitOwner = d.splitOwner := rfl
@[simp] theorem Dev.setCl_splitRetd (d : Dev) (c : ClusterId) (x : Cluster) : (d.setCl c x).splitRetd = d.splitRetd := rfl
@[simp] theorem Dev.setCl_splitRsub (d : Dev) (c : ClusterId) (x : Cluster) : (d.setCl c x).splitRsub = d.splitRsub := rfl
@[simp] theorem Dev.setCl_groupSet (d : Dev) (c : ClusterId) (x : Cluster) : (d.setCl c x).groupSet = d.groupSet := rfl
@[simp] theorem Dev.setCl_bootErr (d : Dev) (c : ClusterId) (x : Cluster) : (d.setCl c x).bootErr = d.bootErr := rfl
@[simp] theorem Dev.setCl_phases (d : Dev) (c : ClusterId) (x : Cluster) : (d.setCl c x).phases = d.phases := rfl
@[simp] theorem Dev.setCl_running (d : Dev) (c : ClusterId) (x : Cluster) : (d.setCl c x).running = d.running := rfl
@[simp] theorem Dev.setCl_snaps (d : Dev) (c : ClusterId) (x : Cluster) : (d.setCl c x).snaps = d.snaps := rfl
@[simp] theorem Dev.setCl_latch (d : Dev) (c : ClusterId) (x : Cluster) : (d.setCl c x).latch = d.latch := rfl
@[simp] theorem Dev.setCl_sent (d : Dev) (c : ClusterId) (x : Cluster) : (d.setCl c x).sent = d.sent := rfl
@[simp] theorem Dev.setCl_stopped (d : Dev) (c : ClusterId) (x : Cluster) : (d.setCl c x).stopped = d.stopped := rfl
@[simp] theorem Dev.setCl_now (d : Dev) (c : ClusterId) (x : Cluster) : (d.setCl c x).now = d.now := rfl
@[simp] theorem Dev.setCl_free (d : Dev) (c : ClusterId) (x : Cluster) : (d.setCl c x).free = d.free := rfl
@[simp] theorem Dev.setCl_remoteNow (d : Dev) (c : ClusterId) (x : Cluster) : (d.setCl c x).remoteNow = d.remoteNow := rfl
@[simp] theorem Dev.setCl_fenceMet (d : Dev) (c : ClusterId) (x : Cluster) : (d.setCl c x).fenceMet = d.fenceMet := rfl
@[simp] theorem Dev.setCl_held (d : Dev) (c : ClusterId) (x : Cluster) : (d.setCl c x).held = d.held := rfl
@[simp] theorem Dev.setCl_seqs (d : Dev) (c : ClusterId) (x : Cluster) : (d.setCl c x).seqs = d.seqs := rfl
@[simp] theorem Dev.setCl_heldPctl (d : Dev) (c : ClusterId) (x : Cluster) : (d.setCl c x).heldPctl = d.heldPctl := rfl
@[simp] theorem Dev.setCl_loadQ (d : Dev) (c : ClusterId) (x : Cluster) : (d.setCl c x).loadQ = d.loadQ := rfl
@[simp] theorem Dev.setCl_counts (d : Dev) (c : ClusterId) (x : Cluster) : (d.setCl c x).counts = d.counts := rfl
@[simp] theorem Dev.modCl_parts (d : Dev) (c : ClusterId) (f : Cluster → Cluster) : (d.modCl c f).parts = d.parts := rfl
@[simp] theorem Dev.modCl_dies (d : Dev) (c : ClusterId) (f : Cluster → Cluster) : (d.modCl c f).dies = d.dies := rfl
@[simp] theorem Dev.modCl_mem (d : Dev) (c : ClusterId) (f : Cluster → Cluster) : (d.modCl c f).mem = d.mem := rfl
@[simp] theorem Dev.modCl_poison (d : Dev) (c : ClusterId) (f : Cluster → Cluster) : (d.modCl c f).poison = d.poison := rfl
@[simp] theorem Dev.modCl_enc (d : Dev) (c : ClusterId) (f : Cluster → Cluster) : (d.modCl c f).enc = d.enc := rfl
@[simp] theorem Dev.modCl_full (d : Dev) (c : ClusterId) (f : Cluster → Cluster) : (d.modCl c f).full = d.full := rfl
@[simp] theorem Dev.modCl_lls (d : Dev) (c : ClusterId) (f : Cluster → Cluster) : (d.modCl c f).lls = d.lls := rfl
@[simp] theorem Dev.modCl_plru (d : Dev) (c : ClusterId) (f : Cluster → Cluster) : (d.modCl c f).plru = d.plru := rfl
@[simp] theorem Dev.modCl_dramErr (d : Dev) (c : ClusterId) (f : Cluster → Cluster) : (d.modCl c f).dramErr = d.dramErr := rfl
@[simp] theorem Dev.modCl_refresh (d : Dev) (c : ClusterId) (f : Cluster → Cluster) : (d.modCl c f).refresh = d.refresh := rfl
@[simp] theorem Dev.modCl_reports (d : Dev) (c : ClusterId) (f : Cluster → Cluster) : (d.modCl c f).reports = d.reports := rfl
@[simp] theorem Dev.modCl_monitors (d : Dev) (c : ClusterId) (f : Cluster → Cluster) : (d.modCl c f).monitors = d.monitors := rfl
@[simp] theorem Dev.modCl_links (d : Dev) (c : ClusterId) (f : Cluster → Cluster) : (d.modCl c f).links = d.links := rfl
@[simp] theorem Dev.modCl_received (d : Dev) (c : ClusterId) (f : Cluster → Cluster) : (d.modCl c f).received = d.received := rfl
@[simp] theorem Dev.modCl_performed (d : Dev) (c : ClusterId) (f : Cluster → Cluster) : (d.modCl c f).performed = d.performed := rfl
@[simp] theorem Dev.modCl_cmapClusters (d : Dev) (c : ClusterId) (f : Cluster → Cluster) : (d.modCl c f).cmapClusters = d.cmapClusters := rfl
@[simp] theorem Dev.modCl_groups (d : Dev) (c : ClusterId) (f : Cluster → Cluster) : (d.modCl c f).groups = d.groups := rfl
@[simp] theorem Dev.modCl_pways (d : Dev) (c : ClusterId) (f : Cluster → Cluster) : (d.modCl c f).pways = d.pways := rfl
@[simp] theorem Dev.modCl_psplit (d : Dev) (c : ClusterId) (f : Cluster → Cluster) : (d.modCl c f).psplit = d.psplit := rfl
@[simp] theorem Dev.modCl_splitOwner (d : Dev) (c : ClusterId) (f : Cluster → Cluster) : (d.modCl c f).splitOwner = d.splitOwner := rfl
@[simp] theorem Dev.modCl_splitRetd (d : Dev) (c : ClusterId) (f : Cluster → Cluster) : (d.modCl c f).splitRetd = d.splitRetd := rfl
@[simp] theorem Dev.modCl_splitRsub (d : Dev) (c : ClusterId) (f : Cluster → Cluster) : (d.modCl c f).splitRsub = d.splitRsub := rfl
@[simp] theorem Dev.modCl_groupSet (d : Dev) (c : ClusterId) (f : Cluster → Cluster) : (d.modCl c f).groupSet = d.groupSet := rfl
@[simp] theorem Dev.modCl_bootErr (d : Dev) (c : ClusterId) (f : Cluster → Cluster) : (d.modCl c f).bootErr = d.bootErr := rfl
@[simp] theorem Dev.modCl_phases (d : Dev) (c : ClusterId) (f : Cluster → Cluster) : (d.modCl c f).phases = d.phases := rfl
@[simp] theorem Dev.modCl_running (d : Dev) (c : ClusterId) (f : Cluster → Cluster) : (d.modCl c f).running = d.running := rfl
@[simp] theorem Dev.modCl_snaps (d : Dev) (c : ClusterId) (f : Cluster → Cluster) : (d.modCl c f).snaps = d.snaps := rfl
@[simp] theorem Dev.modCl_latch (d : Dev) (c : ClusterId) (f : Cluster → Cluster) : (d.modCl c f).latch = d.latch := rfl
@[simp] theorem Dev.modCl_sent (d : Dev) (c : ClusterId) (f : Cluster → Cluster) : (d.modCl c f).sent = d.sent := rfl
@[simp] theorem Dev.modCl_stopped (d : Dev) (c : ClusterId) (f : Cluster → Cluster) : (d.modCl c f).stopped = d.stopped := rfl
@[simp] theorem Dev.modCl_now (d : Dev) (c : ClusterId) (f : Cluster → Cluster) : (d.modCl c f).now = d.now := rfl
@[simp] theorem Dev.modCl_free (d : Dev) (c : ClusterId) (f : Cluster → Cluster) : (d.modCl c f).free = d.free := rfl
@[simp] theorem Dev.modCl_remoteNow (d : Dev) (c : ClusterId) (f : Cluster → Cluster) : (d.modCl c f).remoteNow = d.remoteNow := rfl
@[simp] theorem Dev.modCl_fenceMet (d : Dev) (c : ClusterId) (f : Cluster → Cluster) : (d.modCl c f).fenceMet = d.fenceMet := rfl
@[simp] theorem Dev.modCl_held (d : Dev) (c : ClusterId) (f : Cluster → Cluster) : (d.modCl c f).held = d.held := rfl
@[simp] theorem Dev.modCl_seqs (d : Dev) (c : ClusterId) (f : Cluster → Cluster) : (d.modCl c f).seqs = d.seqs := rfl
@[simp] theorem Dev.modCl_heldPctl (d : Dev) (c : ClusterId) (f : Cluster → Cluster) : (d.modCl c f).heldPctl = d.heldPctl := rfl
@[simp] theorem Dev.modCl_loadQ (d : Dev) (c : ClusterId) (f : Cluster → Cluster) : (d.modCl c f).loadQ = d.loadQ := rfl
@[simp] theorem Dev.modCl_counts (d : Dev) (c : ClusterId) (f : Cluster → Cluster) : (d.modCl c f).counts = d.counts := rfl
@[simp] theorem Dev.setStrand_parts (d : Dev) (c : ClusterId) (k : StrandIx) (x : Strand) : (d.setStrand c k x).parts = d.parts := rfl
@[simp] theorem Dev.setStrand_dies (d : Dev) (c : ClusterId) (k : StrandIx) (x : Strand) : (d.setStrand c k x).dies = d.dies := rfl
@[simp] theorem Dev.setStrand_mem (d : Dev) (c : ClusterId) (k : StrandIx) (x : Strand) : (d.setStrand c k x).mem = d.mem := rfl
@[simp] theorem Dev.setStrand_poison (d : Dev) (c : ClusterId) (k : StrandIx) (x : Strand) : (d.setStrand c k x).poison = d.poison := rfl
@[simp] theorem Dev.setStrand_enc (d : Dev) (c : ClusterId) (k : StrandIx) (x : Strand) : (d.setStrand c k x).enc = d.enc := rfl
@[simp] theorem Dev.setStrand_full (d : Dev) (c : ClusterId) (k : StrandIx) (x : Strand) : (d.setStrand c k x).full = d.full := rfl
@[simp] theorem Dev.setStrand_lls (d : Dev) (c : ClusterId) (k : StrandIx) (x : Strand) : (d.setStrand c k x).lls = d.lls := rfl
@[simp] theorem Dev.setStrand_plru (d : Dev) (c : ClusterId) (k : StrandIx) (x : Strand) : (d.setStrand c k x).plru = d.plru := rfl
@[simp] theorem Dev.setStrand_dramErr (d : Dev) (c : ClusterId) (k : StrandIx) (x : Strand) : (d.setStrand c k x).dramErr = d.dramErr := rfl
@[simp] theorem Dev.setStrand_refresh (d : Dev) (c : ClusterId) (k : StrandIx) (x : Strand) : (d.setStrand c k x).refresh = d.refresh := rfl
@[simp] theorem Dev.setStrand_reports (d : Dev) (c : ClusterId) (k : StrandIx) (x : Strand) : (d.setStrand c k x).reports = d.reports := rfl
@[simp] theorem Dev.setStrand_monitors (d : Dev) (c : ClusterId) (k : StrandIx) (x : Strand) : (d.setStrand c k x).monitors = d.monitors := rfl
@[simp] theorem Dev.setStrand_links (d : Dev) (c : ClusterId) (k : StrandIx) (x : Strand) : (d.setStrand c k x).links = d.links := rfl
@[simp] theorem Dev.setStrand_received (d : Dev) (c : ClusterId) (k : StrandIx) (x : Strand) : (d.setStrand c k x).received = d.received := rfl
@[simp] theorem Dev.setStrand_performed (d : Dev) (c : ClusterId) (k : StrandIx) (x : Strand) : (d.setStrand c k x).performed = d.performed := rfl
@[simp] theorem Dev.setStrand_cmapClusters (d : Dev) (c : ClusterId) (k : StrandIx) (x : Strand) : (d.setStrand c k x).cmapClusters = d.cmapClusters := rfl
@[simp] theorem Dev.setStrand_groups (d : Dev) (c : ClusterId) (k : StrandIx) (x : Strand) : (d.setStrand c k x).groups = d.groups := rfl
@[simp] theorem Dev.setStrand_pways (d : Dev) (c : ClusterId) (k : StrandIx) (x : Strand) : (d.setStrand c k x).pways = d.pways := rfl
@[simp] theorem Dev.setStrand_psplit (d : Dev) (c : ClusterId) (k : StrandIx) (x : Strand) : (d.setStrand c k x).psplit = d.psplit := rfl
@[simp] theorem Dev.setStrand_splitOwner (d : Dev) (c : ClusterId) (k : StrandIx) (x : Strand) : (d.setStrand c k x).splitOwner = d.splitOwner := rfl
@[simp] theorem Dev.setStrand_splitRetd (d : Dev) (c : ClusterId) (k : StrandIx) (x : Strand) : (d.setStrand c k x).splitRetd = d.splitRetd := rfl
@[simp] theorem Dev.setStrand_splitRsub (d : Dev) (c : ClusterId) (k : StrandIx) (x : Strand) : (d.setStrand c k x).splitRsub = d.splitRsub := rfl
@[simp] theorem Dev.setStrand_groupSet (d : Dev) (c : ClusterId) (k : StrandIx) (x : Strand) : (d.setStrand c k x).groupSet = d.groupSet := rfl
@[simp] theorem Dev.setStrand_bootErr (d : Dev) (c : ClusterId) (k : StrandIx) (x : Strand) : (d.setStrand c k x).bootErr = d.bootErr := rfl
@[simp] theorem Dev.setStrand_phases (d : Dev) (c : ClusterId) (k : StrandIx) (x : Strand) : (d.setStrand c k x).phases = d.phases := rfl
@[simp] theorem Dev.setStrand_running (d : Dev) (c : ClusterId) (k : StrandIx) (x : Strand) : (d.setStrand c k x).running = d.running := rfl
@[simp] theorem Dev.setStrand_snaps (d : Dev) (c : ClusterId) (k : StrandIx) (x : Strand) : (d.setStrand c k x).snaps = d.snaps := rfl
@[simp] theorem Dev.setStrand_latch (d : Dev) (c : ClusterId) (k : StrandIx) (x : Strand) : (d.setStrand c k x).latch = d.latch := rfl
@[simp] theorem Dev.setStrand_sent (d : Dev) (c : ClusterId) (k : StrandIx) (x : Strand) : (d.setStrand c k x).sent = d.sent := rfl
@[simp] theorem Dev.setStrand_stopped (d : Dev) (c : ClusterId) (k : StrandIx) (x : Strand) : (d.setStrand c k x).stopped = d.stopped := rfl
@[simp] theorem Dev.setStrand_now (d : Dev) (c : ClusterId) (k : StrandIx) (x : Strand) : (d.setStrand c k x).now = d.now := rfl
@[simp] theorem Dev.setStrand_free (d : Dev) (c : ClusterId) (k : StrandIx) (x : Strand) : (d.setStrand c k x).free = d.free := rfl
@[simp] theorem Dev.setStrand_remoteNow (d : Dev) (c : ClusterId) (k : StrandIx) (x : Strand) : (d.setStrand c k x).remoteNow = d.remoteNow := rfl
@[simp] theorem Dev.setStrand_fenceMet (d : Dev) (c : ClusterId) (k : StrandIx) (x : Strand) : (d.setStrand c k x).fenceMet = d.fenceMet := rfl
@[simp] theorem Dev.setStrand_held (d : Dev) (c : ClusterId) (k : StrandIx) (x : Strand) : (d.setStrand c k x).held = d.held := rfl
@[simp] theorem Dev.setStrand_seqs (d : Dev) (c : ClusterId) (k : StrandIx) (x : Strand) : (d.setStrand c k x).seqs = d.seqs := rfl
@[simp] theorem Dev.setStrand_heldPctl (d : Dev) (c : ClusterId) (k : StrandIx) (x : Strand) : (d.setStrand c k x).heldPctl = d.heldPctl := rfl
@[simp] theorem Dev.setStrand_loadQ (d : Dev) (c : ClusterId) (k : StrandIx) (x : Strand) : (d.setStrand c k x).loadQ = d.loadQ := rfl
@[simp] theorem Dev.setStrand_counts (d : Dev) (c : ClusterId) (k : StrandIx) (x : Strand) : (d.setStrand c k x).counts = d.counts := rfl
@[simp] theorem Dev.modStrand_parts (d : Dev) (c : ClusterId) (k : StrandIx) (f : Strand → Strand) : (d.modStrand c k f).parts = d.parts := rfl
@[simp] theorem Dev.modStrand_dies (d : Dev) (c : ClusterId) (k : StrandIx) (f : Strand → Strand) : (d.modStrand c k f).dies = d.dies := rfl
@[simp] theorem Dev.modStrand_mem (d : Dev) (c : ClusterId) (k : StrandIx) (f : Strand → Strand) : (d.modStrand c k f).mem = d.mem := rfl
@[simp] theorem Dev.modStrand_poison (d : Dev) (c : ClusterId) (k : StrandIx) (f : Strand → Strand) : (d.modStrand c k f).poison = d.poison := rfl
@[simp] theorem Dev.modStrand_enc (d : Dev) (c : ClusterId) (k : StrandIx) (f : Strand → Strand) : (d.modStrand c k f).enc = d.enc := rfl
@[simp] theorem Dev.modStrand_full (d : Dev) (c : ClusterId) (k : StrandIx) (f : Strand → Strand) : (d.modStrand c k f).full = d.full := rfl
@[simp] theorem Dev.modStrand_lls (d : Dev) (c : ClusterId) (k : StrandIx) (f : Strand → Strand) : (d.modStrand c k f).lls = d.lls := rfl
@[simp] theorem Dev.modStrand_plru (d : Dev) (c : ClusterId) (k : StrandIx) (f : Strand → Strand) : (d.modStrand c k f).plru = d.plru := rfl
@[simp] theorem Dev.modStrand_dramErr (d : Dev) (c : ClusterId) (k : StrandIx) (f : Strand → Strand) : (d.modStrand c k f).dramErr = d.dramErr := rfl
@[simp] theorem Dev.modStrand_refresh (d : Dev) (c : ClusterId) (k : StrandIx) (f : Strand → Strand) : (d.modStrand c k f).refresh = d.refresh := rfl
@[simp] theorem Dev.modStrand_reports (d : Dev) (c : ClusterId) (k : StrandIx) (f : Strand → Strand) : (d.modStrand c k f).reports = d.reports := rfl
@[simp] theorem Dev.modStrand_monitors (d : Dev) (c : ClusterId) (k : StrandIx) (f : Strand → Strand) : (d.modStrand c k f).monitors = d.monitors := rfl
@[simp] theorem Dev.modStrand_links (d : Dev) (c : ClusterId) (k : StrandIx) (f : Strand → Strand) : (d.modStrand c k f).links = d.links := rfl
@[simp] theorem Dev.modStrand_received (d : Dev) (c : ClusterId) (k : StrandIx) (f : Strand → Strand) : (d.modStrand c k f).received = d.received := rfl
@[simp] theorem Dev.modStrand_performed (d : Dev) (c : ClusterId) (k : StrandIx) (f : Strand → Strand) : (d.modStrand c k f).performed = d.performed := rfl
@[simp] theorem Dev.modStrand_cmapClusters (d : Dev) (c : ClusterId) (k : StrandIx) (f : Strand → Strand) : (d.modStrand c k f).cmapClusters = d.cmapClusters := rfl
@[simp] theorem Dev.modStrand_groups (d : Dev) (c : ClusterId) (k : StrandIx) (f : Strand → Strand) : (d.modStrand c k f).groups = d.groups := rfl
@[simp] theorem Dev.modStrand_pways (d : Dev) (c : ClusterId) (k : StrandIx) (f : Strand → Strand) : (d.modStrand c k f).pways = d.pways := rfl
@[simp] theorem Dev.modStrand_psplit (d : Dev) (c : ClusterId) (k : StrandIx) (f : Strand → Strand) : (d.modStrand c k f).psplit = d.psplit := rfl
@[simp] theorem Dev.modStrand_splitOwner (d : Dev) (c : ClusterId) (k : StrandIx) (f : Strand → Strand) : (d.modStrand c k f).splitOwner = d.splitOwner := rfl
@[simp] theorem Dev.modStrand_splitRetd (d : Dev) (c : ClusterId) (k : StrandIx) (f : Strand → Strand) : (d.modStrand c k f).splitRetd = d.splitRetd := rfl
@[simp] theorem Dev.modStrand_splitRsub (d : Dev) (c : ClusterId) (k : StrandIx) (f : Strand → Strand) : (d.modStrand c k f).splitRsub = d.splitRsub := rfl
@[simp] theorem Dev.modStrand_groupSet (d : Dev) (c : ClusterId) (k : StrandIx) (f : Strand → Strand) : (d.modStrand c k f).groupSet = d.groupSet := rfl
@[simp] theorem Dev.modStrand_bootErr (d : Dev) (c : ClusterId) (k : StrandIx) (f : Strand → Strand) : (d.modStrand c k f).bootErr = d.bootErr := rfl
@[simp] theorem Dev.modStrand_phases (d : Dev) (c : ClusterId) (k : StrandIx) (f : Strand → Strand) : (d.modStrand c k f).phases = d.phases := rfl
@[simp] theorem Dev.modStrand_running (d : Dev) (c : ClusterId) (k : StrandIx) (f : Strand → Strand) : (d.modStrand c k f).running = d.running := rfl
@[simp] theorem Dev.modStrand_snaps (d : Dev) (c : ClusterId) (k : StrandIx) (f : Strand → Strand) : (d.modStrand c k f).snaps = d.snaps := rfl
@[simp] theorem Dev.modStrand_latch (d : Dev) (c : ClusterId) (k : StrandIx) (f : Strand → Strand) : (d.modStrand c k f).latch = d.latch := rfl
@[simp] theorem Dev.modStrand_sent (d : Dev) (c : ClusterId) (k : StrandIx) (f : Strand → Strand) : (d.modStrand c k f).sent = d.sent := rfl
@[simp] theorem Dev.modStrand_stopped (d : Dev) (c : ClusterId) (k : StrandIx) (f : Strand → Strand) : (d.modStrand c k f).stopped = d.stopped := rfl
@[simp] theorem Dev.modStrand_now (d : Dev) (c : ClusterId) (k : StrandIx) (f : Strand → Strand) : (d.modStrand c k f).now = d.now := rfl
@[simp] theorem Dev.modStrand_free (d : Dev) (c : ClusterId) (k : StrandIx) (f : Strand → Strand) : (d.modStrand c k f).free = d.free := rfl
@[simp] theorem Dev.modStrand_remoteNow (d : Dev) (c : ClusterId) (k : StrandIx) (f : Strand → Strand) : (d.modStrand c k f).remoteNow = d.remoteNow := rfl
@[simp] theorem Dev.modStrand_fenceMet (d : Dev) (c : ClusterId) (k : StrandIx) (f : Strand → Strand) : (d.modStrand c k f).fenceMet = d.fenceMet := rfl
@[simp] theorem Dev.modStrand_held (d : Dev) (c : ClusterId) (k : StrandIx) (f : Strand → Strand) : (d.modStrand c k f).held = d.held := rfl
@[simp] theorem Dev.modStrand_seqs (d : Dev) (c : ClusterId) (k : StrandIx) (f : Strand → Strand) : (d.modStrand c k f).seqs = d.seqs := rfl
@[simp] theorem Dev.modStrand_heldPctl (d : Dev) (c : ClusterId) (k : StrandIx) (f : Strand → Strand) : (d.modStrand c k f).heldPctl = d.heldPctl := rfl
@[simp] theorem Dev.modStrand_loadQ (d : Dev) (c : ClusterId) (k : StrandIx) (f : Strand → Strand) : (d.modStrand c k f).loadQ = d.loadQ := rfl
@[simp] theorem Dev.modStrand_counts (d : Dev) (c : ClusterId) (k : StrandIx) (f : Strand → Strand) : (d.modStrand c k f).counts = d.counts := rfl
@[simp] theorem Dev.setPart_clusters (d : Dev) (p : PartId) (x : Partition) : (d.setPart p x).clusters = d.clusters := rfl
@[simp] theorem Dev.setPart_dies (d : Dev) (p : PartId) (x : Partition) : (d.setPart p x).dies = d.dies := rfl
@[simp] theorem Dev.setPart_mem (d : Dev) (p : PartId) (x : Partition) : (d.setPart p x).mem = d.mem := rfl
@[simp] theorem Dev.setPart_poison (d : Dev) (p : PartId) (x : Partition) : (d.setPart p x).poison = d.poison := rfl
@[simp] theorem Dev.setPart_enc (d : Dev) (p : PartId) (x : Partition) : (d.setPart p x).enc = d.enc := rfl
@[simp] theorem Dev.setPart_full (d : Dev) (p : PartId) (x : Partition) : (d.setPart p x).full = d.full := rfl
@[simp] theorem Dev.setPart_lls (d : Dev) (p : PartId) (x : Partition) : (d.setPart p x).lls = d.lls := rfl
@[simp] theorem Dev.setPart_plru (d : Dev) (p : PartId) (x : Partition) : (d.setPart p x).plru = d.plru := rfl
@[simp] theorem Dev.setPart_dramErr (d : Dev) (p : PartId) (x : Partition) : (d.setPart p x).dramErr = d.dramErr := rfl
@[simp] theorem Dev.setPart_refresh (d : Dev) (p : PartId) (x : Partition) : (d.setPart p x).refresh = d.refresh := rfl
@[simp] theorem Dev.setPart_reports (d : Dev) (p : PartId) (x : Partition) : (d.setPart p x).reports = d.reports := rfl
@[simp] theorem Dev.setPart_monitors (d : Dev) (p : PartId) (x : Partition) : (d.setPart p x).monitors = d.monitors := rfl
@[simp] theorem Dev.setPart_links (d : Dev) (p : PartId) (x : Partition) : (d.setPart p x).links = d.links := rfl
@[simp] theorem Dev.setPart_received (d : Dev) (p : PartId) (x : Partition) : (d.setPart p x).received = d.received := rfl
@[simp] theorem Dev.setPart_performed (d : Dev) (p : PartId) (x : Partition) : (d.setPart p x).performed = d.performed := rfl
@[simp] theorem Dev.setPart_cmapClusters (d : Dev) (p : PartId) (x : Partition) : (d.setPart p x).cmapClusters = d.cmapClusters := rfl
@[simp] theorem Dev.setPart_groups (d : Dev) (p : PartId) (x : Partition) : (d.setPart p x).groups = d.groups := rfl
@[simp] theorem Dev.setPart_pways (d : Dev) (p : PartId) (x : Partition) : (d.setPart p x).pways = d.pways := rfl
@[simp] theorem Dev.setPart_psplit (d : Dev) (p : PartId) (x : Partition) : (d.setPart p x).psplit = d.psplit := rfl
@[simp] theorem Dev.setPart_splitOwner (d : Dev) (p : PartId) (x : Partition) : (d.setPart p x).splitOwner = d.splitOwner := rfl
@[simp] theorem Dev.setPart_splitRetd (d : Dev) (p : PartId) (x : Partition) : (d.setPart p x).splitRetd = d.splitRetd := rfl
@[simp] theorem Dev.setPart_splitRsub (d : Dev) (p : PartId) (x : Partition) : (d.setPart p x).splitRsub = d.splitRsub := rfl
@[simp] theorem Dev.setPart_groupSet (d : Dev) (p : PartId) (x : Partition) : (d.setPart p x).groupSet = d.groupSet := rfl
@[simp] theorem Dev.setPart_bootErr (d : Dev) (p : PartId) (x : Partition) : (d.setPart p x).bootErr = d.bootErr := rfl
@[simp] theorem Dev.setPart_phases (d : Dev) (p : PartId) (x : Partition) : (d.setPart p x).phases = d.phases := rfl
@[simp] theorem Dev.setPart_running (d : Dev) (p : PartId) (x : Partition) : (d.setPart p x).running = d.running := rfl
@[simp] theorem Dev.setPart_snaps (d : Dev) (p : PartId) (x : Partition) : (d.setPart p x).snaps = d.snaps := rfl
@[simp] theorem Dev.setPart_latch (d : Dev) (p : PartId) (x : Partition) : (d.setPart p x).latch = d.latch := rfl
@[simp] theorem Dev.setPart_sent (d : Dev) (p : PartId) (x : Partition) : (d.setPart p x).sent = d.sent := rfl
@[simp] theorem Dev.setPart_stopped (d : Dev) (p : PartId) (x : Partition) : (d.setPart p x).stopped = d.stopped := rfl
@[simp] theorem Dev.setPart_now (d : Dev) (p : PartId) (x : Partition) : (d.setPart p x).now = d.now := rfl
@[simp] theorem Dev.setPart_free (d : Dev) (p : PartId) (x : Partition) : (d.setPart p x).free = d.free := rfl
@[simp] theorem Dev.setPart_remoteNow (d : Dev) (p : PartId) (x : Partition) : (d.setPart p x).remoteNow = d.remoteNow := rfl
@[simp] theorem Dev.setPart_fenceMet (d : Dev) (p : PartId) (x : Partition) : (d.setPart p x).fenceMet = d.fenceMet := rfl
@[simp] theorem Dev.setPart_held (d : Dev) (p : PartId) (x : Partition) : (d.setPart p x).held = d.held := rfl
@[simp] theorem Dev.setPart_seqs (d : Dev) (p : PartId) (x : Partition) : (d.setPart p x).seqs = d.seqs := rfl
@[simp] theorem Dev.setPart_heldPctl (d : Dev) (p : PartId) (x : Partition) : (d.setPart p x).heldPctl = d.heldPctl := rfl
@[simp] theorem Dev.setPart_loadQ (d : Dev) (p : PartId) (x : Partition) : (d.setPart p x).loadQ = d.loadQ := rfl
@[simp] theorem Dev.setPart_counts (d : Dev) (p : PartId) (x : Partition) : (d.setPart p x).counts = d.counts := rfl
@[simp] theorem Dev.modPart_clusters (d : Dev) (p : PartId) (f : Partition → Partition) : (d.modPart p f).clusters = d.clusters := rfl
@[simp] theorem Dev.modPart_dies (d : Dev) (p : PartId) (f : Partition → Partition) : (d.modPart p f).dies = d.dies := rfl
@[simp] theorem Dev.modPart_mem (d : Dev) (p : PartId) (f : Partition → Partition) : (d.modPart p f).mem = d.mem := rfl
@[simp] theorem Dev.modPart_poison (d : Dev) (p : PartId) (f : Partition → Partition) : (d.modPart p f).poison = d.poison := rfl
@[simp] theorem Dev.modPart_enc (d : Dev) (p : PartId) (f : Partition → Partition) : (d.modPart p f).enc = d.enc := rfl
@[simp] theorem Dev.modPart_full (d : Dev) (p : PartId) (f : Partition → Partition) : (d.modPart p f).full = d.full := rfl
@[simp] theorem Dev.modPart_lls (d : Dev) (p : PartId) (f : Partition → Partition) : (d.modPart p f).lls = d.lls := rfl
@[simp] theorem Dev.modPart_plru (d : Dev) (p : PartId) (f : Partition → Partition) : (d.modPart p f).plru = d.plru := rfl
@[simp] theorem Dev.modPart_dramErr (d : Dev) (p : PartId) (f : Partition → Partition) : (d.modPart p f).dramErr = d.dramErr := rfl
@[simp] theorem Dev.modPart_refresh (d : Dev) (p : PartId) (f : Partition → Partition) : (d.modPart p f).refresh = d.refresh := rfl
@[simp] theorem Dev.modPart_reports (d : Dev) (p : PartId) (f : Partition → Partition) : (d.modPart p f).reports = d.reports := rfl
@[simp] theorem Dev.modPart_monitors (d : Dev) (p : PartId) (f : Partition → Partition) : (d.modPart p f).monitors = d.monitors := rfl
@[simp] theorem Dev.modPart_links (d : Dev) (p : PartId) (f : Partition → Partition) : (d.modPart p f).links = d.links := rfl
@[simp] theorem Dev.modPart_received (d : Dev) (p : PartId) (f : Partition → Partition) : (d.modPart p f).received = d.received := rfl
@[simp] theorem Dev.modPart_performed (d : Dev) (p : PartId) (f : Partition → Partition) : (d.modPart p f).performed = d.performed := rfl
@[simp] theorem Dev.modPart_cmapClusters (d : Dev) (p : PartId) (f : Partition → Partition) : (d.modPart p f).cmapClusters = d.cmapClusters := rfl
@[simp] theorem Dev.modPart_groups (d : Dev) (p : PartId) (f : Partition → Partition) : (d.modPart p f).groups = d.groups := rfl
@[simp] theorem Dev.modPart_pways (d : Dev) (p : PartId) (f : Partition → Partition) : (d.modPart p f).pways = d.pways := rfl
@[simp] theorem Dev.modPart_psplit (d : Dev) (p : PartId) (f : Partition → Partition) : (d.modPart p f).psplit = d.psplit := rfl
@[simp] theorem Dev.modPart_splitOwner (d : Dev) (p : PartId) (f : Partition → Partition) : (d.modPart p f).splitOwner = d.splitOwner := rfl
@[simp] theorem Dev.modPart_splitRetd (d : Dev) (p : PartId) (f : Partition → Partition) : (d.modPart p f).splitRetd = d.splitRetd := rfl
@[simp] theorem Dev.modPart_splitRsub (d : Dev) (p : PartId) (f : Partition → Partition) : (d.modPart p f).splitRsub = d.splitRsub := rfl
@[simp] theorem Dev.modPart_groupSet (d : Dev) (p : PartId) (f : Partition → Partition) : (d.modPart p f).groupSet = d.groupSet := rfl
@[simp] theorem Dev.modPart_bootErr (d : Dev) (p : PartId) (f : Partition → Partition) : (d.modPart p f).bootErr = d.bootErr := rfl
@[simp] theorem Dev.modPart_phases (d : Dev) (p : PartId) (f : Partition → Partition) : (d.modPart p f).phases = d.phases := rfl
@[simp] theorem Dev.modPart_running (d : Dev) (p : PartId) (f : Partition → Partition) : (d.modPart p f).running = d.running := rfl
@[simp] theorem Dev.modPart_snaps (d : Dev) (p : PartId) (f : Partition → Partition) : (d.modPart p f).snaps = d.snaps := rfl
@[simp] theorem Dev.modPart_latch (d : Dev) (p : PartId) (f : Partition → Partition) : (d.modPart p f).latch = d.latch := rfl
@[simp] theorem Dev.modPart_sent (d : Dev) (p : PartId) (f : Partition → Partition) : (d.modPart p f).sent = d.sent := rfl
@[simp] theorem Dev.modPart_stopped (d : Dev) (p : PartId) (f : Partition → Partition) : (d.modPart p f).stopped = d.stopped := rfl
@[simp] theorem Dev.modPart_now (d : Dev) (p : PartId) (f : Partition → Partition) : (d.modPart p f).now = d.now := rfl
@[simp] theorem Dev.modPart_free (d : Dev) (p : PartId) (f : Partition → Partition) : (d.modPart p f).free = d.free := rfl
@[simp] theorem Dev.modPart_remoteNow (d : Dev) (p : PartId) (f : Partition → Partition) : (d.modPart p f).remoteNow = d.remoteNow := rfl
@[simp] theorem Dev.modPart_fenceMet (d : Dev) (p : PartId) (f : Partition → Partition) : (d.modPart p f).fenceMet = d.fenceMet := rfl
@[simp] theorem Dev.modPart_held (d : Dev) (p : PartId) (f : Partition → Partition) : (d.modPart p f).held = d.held := rfl
@[simp] theorem Dev.modPart_seqs (d : Dev) (p : PartId) (f : Partition → Partition) : (d.modPart p f).seqs = d.seqs := rfl
@[simp] theorem Dev.modPart_heldPctl (d : Dev) (p : PartId) (f : Partition → Partition) : (d.modPart p f).heldPctl = d.heldPctl := rfl
@[simp] theorem Dev.modPart_loadQ (d : Dev) (p : PartId) (f : Partition → Partition) : (d.modPart p f).loadQ = d.loadQ := rfl
@[simp] theorem Dev.modPart_counts (d : Dev) (p : PartId) (f : Partition → Partition) : (d.modPart p f).counts = d.counts := rfl
@[simp] theorem Dev.modDie_clusters (d : Dev) (i : DieId) (f : Die → Die) : (d.modDie i f).clusters = d.clusters := rfl
@[simp] theorem Dev.modDie_parts (d : Dev) (i : DieId) (f : Die → Die) : (d.modDie i f).parts = d.parts := rfl
@[simp] theorem Dev.modDie_mem (d : Dev) (i : DieId) (f : Die → Die) : (d.modDie i f).mem = d.mem := rfl
@[simp] theorem Dev.modDie_poison (d : Dev) (i : DieId) (f : Die → Die) : (d.modDie i f).poison = d.poison := rfl
@[simp] theorem Dev.modDie_enc (d : Dev) (i : DieId) (f : Die → Die) : (d.modDie i f).enc = d.enc := rfl
@[simp] theorem Dev.modDie_full (d : Dev) (i : DieId) (f : Die → Die) : (d.modDie i f).full = d.full := rfl
@[simp] theorem Dev.modDie_lls (d : Dev) (i : DieId) (f : Die → Die) : (d.modDie i f).lls = d.lls := rfl
@[simp] theorem Dev.modDie_plru (d : Dev) (i : DieId) (f : Die → Die) : (d.modDie i f).plru = d.plru := rfl
@[simp] theorem Dev.modDie_dramErr (d : Dev) (i : DieId) (f : Die → Die) : (d.modDie i f).dramErr = d.dramErr := rfl
@[simp] theorem Dev.modDie_refresh (d : Dev) (i : DieId) (f : Die → Die) : (d.modDie i f).refresh = d.refresh := rfl
@[simp] theorem Dev.modDie_reports (d : Dev) (i : DieId) (f : Die → Die) : (d.modDie i f).reports = d.reports := rfl
@[simp] theorem Dev.modDie_monitors (d : Dev) (i : DieId) (f : Die → Die) : (d.modDie i f).monitors = d.monitors := rfl
@[simp] theorem Dev.modDie_links (d : Dev) (i : DieId) (f : Die → Die) : (d.modDie i f).links = d.links := rfl
@[simp] theorem Dev.modDie_received (d : Dev) (i : DieId) (f : Die → Die) : (d.modDie i f).received = d.received := rfl
@[simp] theorem Dev.modDie_performed (d : Dev) (i : DieId) (f : Die → Die) : (d.modDie i f).performed = d.performed := rfl
@[simp] theorem Dev.modDie_cmapClusters (d : Dev) (i : DieId) (f : Die → Die) : (d.modDie i f).cmapClusters = d.cmapClusters := rfl
@[simp] theorem Dev.modDie_groups (d : Dev) (i : DieId) (f : Die → Die) : (d.modDie i f).groups = d.groups := rfl
@[simp] theorem Dev.modDie_pways (d : Dev) (i : DieId) (f : Die → Die) : (d.modDie i f).pways = d.pways := rfl
@[simp] theorem Dev.modDie_psplit (d : Dev) (i : DieId) (f : Die → Die) : (d.modDie i f).psplit = d.psplit := rfl
@[simp] theorem Dev.modDie_splitOwner (d : Dev) (i : DieId) (f : Die → Die) : (d.modDie i f).splitOwner = d.splitOwner := rfl
@[simp] theorem Dev.modDie_splitRetd (d : Dev) (i : DieId) (f : Die → Die) : (d.modDie i f).splitRetd = d.splitRetd := rfl
@[simp] theorem Dev.modDie_splitRsub (d : Dev) (i : DieId) (f : Die → Die) : (d.modDie i f).splitRsub = d.splitRsub := rfl
@[simp] theorem Dev.modDie_groupSet (d : Dev) (i : DieId) (f : Die → Die) : (d.modDie i f).groupSet = d.groupSet := rfl
@[simp] theorem Dev.modDie_bootErr (d : Dev) (i : DieId) (f : Die → Die) : (d.modDie i f).bootErr = d.bootErr := rfl
@[simp] theorem Dev.modDie_phases (d : Dev) (i : DieId) (f : Die → Die) : (d.modDie i f).phases = d.phases := rfl
@[simp] theorem Dev.modDie_running (d : Dev) (i : DieId) (f : Die → Die) : (d.modDie i f).running = d.running := rfl
@[simp] theorem Dev.modDie_snaps (d : Dev) (i : DieId) (f : Die → Die) : (d.modDie i f).snaps = d.snaps := rfl
@[simp] theorem Dev.modDie_latch (d : Dev) (i : DieId) (f : Die → Die) : (d.modDie i f).latch = d.latch := rfl
@[simp] theorem Dev.modDie_sent (d : Dev) (i : DieId) (f : Die → Die) : (d.modDie i f).sent = d.sent := rfl
@[simp] theorem Dev.modDie_stopped (d : Dev) (i : DieId) (f : Die → Die) : (d.modDie i f).stopped = d.stopped := rfl
@[simp] theorem Dev.modDie_now (d : Dev) (i : DieId) (f : Die → Die) : (d.modDie i f).now = d.now := rfl
@[simp] theorem Dev.modDie_free (d : Dev) (i : DieId) (f : Die → Die) : (d.modDie i f).free = d.free := rfl
@[simp] theorem Dev.modDie_remoteNow (d : Dev) (i : DieId) (f : Die → Die) : (d.modDie i f).remoteNow = d.remoteNow := rfl
@[simp] theorem Dev.modDie_fenceMet (d : Dev) (i : DieId) (f : Die → Die) : (d.modDie i f).fenceMet = d.fenceMet := rfl
@[simp] theorem Dev.modDie_held (d : Dev) (i : DieId) (f : Die → Die) : (d.modDie i f).held = d.held := rfl
@[simp] theorem Dev.modDie_seqs (d : Dev) (i : DieId) (f : Die → Die) : (d.modDie i f).seqs = d.seqs := rfl
@[simp] theorem Dev.modDie_heldPctl (d : Dev) (i : DieId) (f : Die → Die) : (d.modDie i f).heldPctl = d.heldPctl := rfl
@[simp] theorem Dev.modDie_loadQ (d : Dev) (i : DieId) (f : Die → Die) : (d.modDie i f).loadQ = d.loadQ := rfl
@[simp] theorem Dev.modDie_counts (d : Dev) (i : DieId) (f : Die → Die) : (d.modDie i f).counts = d.counts := rfl

@[simp] theorem Dev.cl_setCl_same (d : Dev) (c : ClusterId) (x : Cluster) : (d.setCl c x).cl c = x := by
  simp [Dev.cl, Dev.setCl]
theorem Dev.cl_setCl_ne (d : Dev) (c e : ClusterId) (x : Cluster) (h : c ≠ e) : (d.setCl c x).cl e = d.cl e := by
  simp [Dev.cl, Dev.setCl, vget_vset_ne _ _ _ _ h]
@[simp] theorem Dev.cl_modCl_same (d : Dev) (c : ClusterId) (f : Cluster → Cluster) : (d.modCl c f).cl c = f (d.cl c) := by
  simp [Dev.modCl]
theorem Dev.cl_modCl_ne (d : Dev) (c e : ClusterId) (f : Cluster → Cluster) (h : c ≠ e) : (d.modCl c f).cl e = d.cl e := by
  simp [Dev.modCl, Dev.cl_setCl_ne _ _ _ _ h]
@[simp] theorem Dev.cl_modPart (d : Dev) (p : PartId) (f : Partition → Partition) (c : ClusterId) : (d.modPart p f).cl c = d.cl c := rfl
@[simp] theorem Dev.cl_modDie (d : Dev) (i : DieId) (f : Die → Die) (c : ClusterId) : (d.modDie i f).cl c = d.cl c := rfl
@[simp] theorem Dev.part_setPart_same (d : Dev) (p : PartId) (x : Partition) : (d.setPart p x).part p = x := by
  simp [Dev.part, Dev.setPart]
@[simp] theorem Dev.part_modPart_same (d : Dev) (p : PartId) (f : Partition → Partition) : (d.modPart p f).part p = f (d.part p) := by
  simp [Dev.modPart]
theorem Dev.part_modPart_ne (d : Dev) (p q : PartId) (f : Partition → Partition) (h : p ≠ q) :
    (d.modPart p f).part q = d.part q := by
  simp [Dev.modPart, Dev.part, Dev.setPart, vget_vset_ne _ _ _ _ h]
@[simp] theorem Dev.part_setCl (d : Dev) (c : ClusterId) (x : Cluster) (p : PartId) : (d.setCl c x).part p = d.part p := rfl
@[simp] theorem Dev.part_modCl (d : Dev) (c : ClusterId) (f : Cluster → Cluster) (p : PartId) : (d.modCl c f).part p = d.part p := rfl
@[simp] theorem Dev.part_modStrand (d : Dev) (c : ClusterId) (k : StrandIx) (f : Strand → Strand) (p : PartId) :
    (d.modStrand c k f).part p = d.part p := rfl
@[simp] theorem Dev.strand_modStrand_same (d : Dev) (c : ClusterId) (k : StrandIx) (f : Strand → Strand) :
    (d.modStrand c k f).strand c k = f (d.strand c k) := by
  simp [Dev.modStrand, Dev.setStrand, Dev.strand]
theorem Dev.strand_modStrand_ne (d : Dev) (c e : ClusterId) (k j : StrandIx) (f : Strand → Strand) (h : (c, k) ≠ (e, j)) :
    (d.modStrand c k f).strand e j = d.strand e j := by
  by_cases hc : c = e
  · subst hc
    have hk : k ≠ j := fun hk => h (by rw [hk])
    simp [Dev.modStrand, Dev.setStrand, Dev.strand, vget_vset_ne _ _ _ _ hk]
  · simp [Dev.modStrand, Dev.setStrand, Dev.strand, Dev.cl_modCl_ne _ _ _ _ hc]

@[simp] theorem Dev.cl_modStrand_last (d : Dev) (c e : ClusterId) (k : StrandIx) (f : Strand → Strand) :
    ((d.modStrand c k f).cl e).last = (d.cl e).last := by
  by_cases h : c = e
  · subst h; simp [Dev.modStrand, Dev.setStrand]
  · simp [Dev.modStrand, Dev.setStrand, Dev.cl_modCl_ne _ _ _ _ h]
@[simp] theorem Dev.cl_modStrand_ap (d : Dev) (c e : ClusterId) (k : StrandIx) (f : Strand → Strand) :
    ((d.modStrand c k f).cl e).ap = (d.cl e).ap := by
  by_cases h : c = e
  · subst h; simp [Dev.modStrand, Dev.setStrand]
  · simp [Dev.modStrand, Dev.setStrand, Dev.cl_modCl_ne _ _ _ _ h]
@[simp] theorem Dev.cl_modStrand_fpMode (d : Dev) (c e : ClusterId) (k : StrandIx) (f : Strand → Strand) :
    ((d.modStrand c k f).cl e).fpMode = (d.cl e).fpMode := by
  by_cases h : c = e
  · subst h; simp [Dev.modStrand, Dev.setStrand]
  · simp [Dev.modStrand, Dev.setStrand, Dev.cl_modCl_ne _ _ _ _ h]
@[simp] theorem Dev.cl_modStrand_fpFlags (d : Dev) (c e : ClusterId) (k : StrandIx) (f : Strand → Strand) :
    ((d.modStrand c k f).cl e).fpFlags = (d.cl e).fpFlags := by
  by_cases h : c = e
  · subst h; simp [Dev.modStrand, Dev.setStrand]
  · simp [Dev.modStrand, Dev.setStrand, Dev.cl_modCl_ne _ _ _ _ h]
@[simp] theorem Dev.cl_modStrand_fpTrapEn (d : Dev) (c e : ClusterId) (k : StrandIx) (f : Strand → Strand) :
    ((d.modStrand c k f).cl e).fpTrapEn = (d.cl e).fpTrapEn := by
  by_cases h : c = e
  · subst h; simp [Dev.modStrand, Dev.setStrand]
  · simp [Dev.modStrand, Dev.setStrand, Dev.cl_modCl_ne _ _ _ _ h]
@[simp] theorem Dev.cl_modStrand_quantum (d : Dev) (c e : ClusterId) (k : StrandIx) (f : Strand → Strand) :
    ((d.modStrand c k f).cl e).quantum = (d.cl e).quantum := by
  by_cases h : c = e
  · subst h; simp [Dev.modStrand, Dev.setStrand]
  · simp [Dev.modStrand, Dev.setStrand, Dev.cl_modCl_ne _ _ _ _ h]
@[simp] theorem Dev.cl_modStrand_prio (d : Dev) (c e : ClusterId) (k : StrandIx) (f : Strand → Strand) :
    ((d.modStrand c k f).cl e).prio = (d.cl e).prio := by
  by_cases h : c = e
  · subst h; simp [Dev.modStrand, Dev.setStrand]
  · simp [Dev.modStrand, Dev.setStrand, Dev.cl_modCl_ne _ _ _ _ h]
@[simp] theorem Dev.cl_modStrand_deferLimit (d : Dev) (c e : ClusterId) (k : StrandIx) (f : Strand → Strand) :
    ((d.modStrand c k f).cl e).deferLimit = (d.cl e).deferLimit := by
  by_cases h : c = e
  · subst h; simp [Dev.modStrand, Dev.setStrand]
  · simp [Dev.modStrand, Dev.setStrand, Dev.cl_modCl_ne _ _ _ _ h]
@[simp] theorem Dev.cl_modStrand_poisonEn (d : Dev) (c e : ClusterId) (k : StrandIx) (f : Strand → Strand) :
    ((d.modStrand c k f).cl e).poisonEn = (d.cl e).poisonEn := by
  by_cases h : c = e
  · subst h; simp [Dev.modStrand, Dev.setStrand]
  · simp [Dev.modStrand, Dev.setStrand, Dev.cl_modCl_ne _ _ _ _ h]
@[simp] theorem Dev.cl_modStrand_poisonCount (d : Dev) (c e : ClusterId) (k : StrandIx) (f : Strand → Strand) :
    ((d.modStrand c k f).cl e).poisonCount = (d.cl e).poisonCount := by
  by_cases h : c = e
  · subst h; simp [Dev.modStrand, Dev.setStrand]
  · simp [Dev.modStrand, Dev.setStrand, Dev.cl_modCl_ne _ _ _ _ h]
@[simp] theorem Dev.cl_modStrand_spillBase (d : Dev) (c e : ClusterId) (k : StrandIx) (f : Strand → Strand) :
    ((d.modStrand c k f).cl e).spillBase = (d.cl e).spillBase := by
  by_cases h : c = e
  · subst h; simp [Dev.modStrand, Dev.setStrand]
  · simp [Dev.modStrand, Dev.setStrand, Dev.cl_modCl_ne _ _ _ _ h]
@[simp] theorem Dev.cl_modStrand_spillTrapEn (d : Dev) (c e : ClusterId) (k : StrandIx) (f : Strand → Strand) :
    ((d.modStrand c k f).cl e).spillTrapEn = (d.cl e).spillTrapEn := by
  by_cases h : c = e
  · subst h; simp [Dev.modStrand, Dev.setStrand]
  · simp [Dev.modStrand, Dev.setStrand, Dev.cl_modCl_ne _ _ _ _ h]
@[simp] theorem Dev.cl_modStrand_spillUsed (d : Dev) (c e : ClusterId) (k : StrandIx) (f : Strand → Strand) :
    ((d.modStrand c k f).cl e).spillUsed = (d.cl e).spillUsed := by
  by_cases h : c = e
  · subst h; simp [Dev.modStrand, Dev.setStrand]
  · simp [Dev.modStrand, Dev.setStrand, Dev.cl_modCl_ne _ _ _ _ h]
@[simp] theorem Dev.cl_modStrand_spillEntries (d : Dev) (c e : ClusterId) (k : StrandIx) (f : Strand → Strand) :
    ((d.modStrand c k f).cl e).spillEntries = (d.cl e).spillEntries := by
  by_cases h : c = e
  · subst h; simp [Dev.modStrand, Dev.setStrand]
  · simp [Dev.modStrand, Dev.setStrand, Dev.cl_modCl_ne _ _ _ _ h]
@[simp] theorem Dev.cl_modStrand_spillHead (d : Dev) (c e : ClusterId) (k : StrandIx) (f : Strand → Strand) :
    ((d.modStrand c k f).cl e).spillHead = (d.cl e).spillHead := by
  by_cases h : c = e
  · subst h; simp [Dev.modStrand, Dev.setStrand]
  · simp [Dev.modStrand, Dev.setStrand, Dev.cl_modCl_ne _ _ _ _ h]
@[simp] theorem Dev.cl_modStrand_snapUen (d : Dev) (c e : ClusterId) (k : StrandIx) (f : Strand → Strand) :
    ((d.modStrand c k f).cl e).snapUen = (d.cl e).snapUen := by
  by_cases h : c = e
  · subst h; simp [Dev.modStrand, Dev.setStrand]
  · simp [Dev.modStrand, Dev.setStrand, Dev.cl_modCl_ne _ _ _ _ h]
@[simp] theorem Dev.cl_modStrand_snapCmen (d : Dev) (c e : ClusterId) (k : StrandIx) (f : Strand → Strand) :
    ((d.modStrand c k f).cl e).snapCmen = (d.cl e).snapCmen := by
  by_cases h : c = e
  · subst h; simp [Dev.modStrand, Dev.setStrand]
  · simp [Dev.modStrand, Dev.setStrand, Dev.cl_modCl_ne _ _ _ _ h]
@[simp] theorem Dev.cl_modStrand_cmatch (d : Dev) (c e : ClusterId) (k : StrandIx) (f : Strand → Strand) :
    ((d.modStrand c k f).cl e).cmatch = (d.cl e).cmatch := by
  by_cases h : c = e
  · subst h; simp [Dev.modStrand, Dev.setStrand]
  · simp [Dev.modStrand, Dev.setStrand, Dev.cl_modCl_ne _ _ _ _ h]
@[simp] theorem Dev.cl_modStrand_buffer (d : Dev) (c e : ClusterId) (k : StrandIx) (f : Strand → Strand) :
    ((d.modStrand c k f).cl e).buffer = (d.cl e).buffer := by
  by_cases h : c = e
  · subst h; simp [Dev.modStrand, Dev.setStrand]
  · simp [Dev.modStrand, Dev.setStrand, Dev.cl_modCl_ne _ _ _ _ h]
@[simp] theorem Dev.cl_modStrand_inbox (d : Dev) (c e : ClusterId) (k : StrandIx) (f : Strand → Strand) :
    ((d.modStrand c k f).cl e).inbox = (d.cl e).inbox := by
  by_cases h : c = e
  · subst h; simp [Dev.modStrand, Dev.setStrand]
  · simp [Dev.modStrand, Dev.setStrand, Dev.cl_modCl_ne _ _ _ _ h]
@[simp] theorem Dev.cl_modStrand_banks (d : Dev) (c e : ClusterId) (k : StrandIx) (f : Strand → Strand) :
    ((d.modStrand c k f).cl e).banks = (d.cl e).banks := by
  by_cases h : c = e
  · subst h; simp [Dev.modStrand, Dev.setStrand]
  · simp [Dev.modStrand, Dev.setStrand, Dev.cl_modCl_ne _ _ _ _ h]
@[simp] theorem Dev.cl_modStrand_waits (d : Dev) (c e : ClusterId) (k : StrandIx) (f : Strand → Strand) :
    ((d.modStrand c k f).cl e).waits = (d.cl e).waits := by
  by_cases h : c = e
  · subst h; simp [Dev.modStrand, Dev.setStrand]
  · simp [Dev.modStrand, Dev.setStrand, Dev.cl_modCl_ne _ _ _ _ h]
@[simp] theorem Dev.cl_modStrand_reqs (d : Dev) (c e : ClusterId) (k : StrandIx) (f : Strand → Strand) :
    ((d.modStrand c k f).cl e).reqs = (d.cl e).reqs := by
  by_cases h : c = e
  · subst h; simp [Dev.modStrand, Dev.setStrand]
  · simp [Dev.modStrand, Dev.setStrand, Dev.cl_modCl_ne _ _ _ _ h]
@[simp] theorem Dev.cl_modStrand_nextTag (d : Dev) (c e : ClusterId) (k : StrandIx) (f : Strand → Strand) :
    ((d.modStrand c k f).cl e).nextTag = (d.cl e).nextTag := by
  by_cases h : c = e
  · subst h; simp [Dev.modStrand, Dev.setStrand]
  · simp [Dev.modStrand, Dev.setStrand, Dev.cl_modCl_ne _ _ _ _ h]
@[simp] theorem Dev.cl_modStrand_signals (d : Dev) (c e : ClusterId) (k : StrandIx) (f : Strand → Strand) :
    ((d.modStrand c k f).cl e).signals = (d.cl e).signals := by
  by_cases h : c = e
  · subst h; simp [Dev.modStrand, Dev.setStrand]
  · simp [Dev.modStrand, Dev.setStrand, Dev.cl_modCl_ne _ _ _ _ h]
@[simp] theorem Dev.cl_modStrand_memNodes (d : Dev) (c e : ClusterId) (k : StrandIx) (f : Strand → Strand) :
    ((d.modStrand c k f).cl e).memNodes = (d.cl e).memNodes := by
  by_cases h : c = e
  · subst h; simp [Dev.modStrand, Dev.setStrand]
  · simp [Dev.modStrand, Dev.setStrand, Dev.cl_modCl_ne _ _ _ _ h]
@[simp] theorem Dev.cl_modStrand_rimOwn (d : Dev) (c e : ClusterId) (k : StrandIx) (f : Strand → Strand) :
    ((d.modStrand c k f).cl e).rimOwn = (d.cl e).rimOwn := by
  by_cases h : c = e
  · subst h; simp [Dev.modStrand, Dev.setStrand]
  · simp [Dev.modStrand, Dev.setStrand, Dev.cl_modCl_ne _ _ _ _ h]
@[simp] theorem Dev.cl_modStrand_layout (d : Dev) (c e : ClusterId) (k : StrandIx) (f : Strand → Strand) :
    ((d.modStrand c k f).cl e).layout = (d.cl e).layout := by
  by_cases h : c = e
  · subst h; simp [Dev.modStrand, Dev.setStrand]
  · simp [Dev.modStrand, Dev.setStrand, Dev.cl_modCl_ne _ _ _ _ h]
@[simp] theorem Dev.cl_modStrand_eng (d : Dev) (c e : ClusterId) (k : StrandIx) (f : Strand → Strand) :
    ((d.modStrand c k f).cl e).eng = (d.cl e).eng := by
  by_cases h : c = e
  · subst h; simp [Dev.modStrand, Dev.setStrand]
  · simp [Dev.modStrand, Dev.setStrand, Dev.cl_modCl_ne _ _ _ _ h]
@[simp] theorem Dev.cl_modStrand_fab (d : Dev) (c e : ClusterId) (k : StrandIx) (f : Strand → Strand) :
    ((d.modStrand c k f).cl e).fab = (d.cl e).fab := by
  by_cases h : c = e
  · subst h; simp [Dev.modStrand, Dev.setStrand]
  · simp [Dev.modStrand, Dev.setStrand, Dev.cl_modCl_ne _ _ _ _ h]
@[simp] theorem Dev.cl_modStrand_step (d : Dev) (c e : ClusterId) (k : StrandIx) (f : Strand → Strand) :
    ((d.modStrand c k f).cl e).step = (d.cl e).step := by
  by_cases h : c = e
  · subst h; simp [Dev.modStrand, Dev.setStrand]
  · simp [Dev.modStrand, Dev.setStrand, Dev.cl_modCl_ne _ _ _ _ h]

/-! A strand after each of its operations -/

@[simp] theorem Strand.advance_pc (st : Strand) (n : Word) : (st.advance n).pc = st.pc + n := rfl
@[simp] theorem Strand.advance_g (st : Strand) (n : Word) : (st.advance n).g = st.g := rfl
@[simp] theorem Strand.advance_f (st : Strand) (n : Word) : (st.advance n).f = st.f := rfl
@[simp] theorem Strand.advance_dbl (st : Strand) (n : Word) : (st.advance n).dbl = st.dbl := rfl
@[simp] theorem Strand.advance_pie (st : Strand) (n : Word) : (st.advance n).pie = st.pie := rfl
@[simp] theorem Strand.advance_ppriv (st : Strand) (n : Word) : (st.advance n).ppriv = st.ppriv := rfl
@[simp] theorem Strand.advance_ie (st : Strand) (n : Word) : (st.advance n).ie = st.ie := rfl
@[simp] theorem Strand.advance_priv (st : Strand) (n : Word) : (st.advance n).priv = st.priv := rfl
@[simp] theorem Strand.advance_trapCause (st : Strand) (n : Word) : (st.advance n).trapCause = st.trapCause := rfl
@[simp] theorem Strand.advance_trapSub (st : Strand) (n : Word) : (st.advance n).trapSub = st.trapSub := rfl
@[simp] theorem Strand.advance_trapPc (st : Strand) (n : Word) : (st.advance n).trapPc = st.trapPc := rfl
@[simp] theorem Strand.advance_trapVal (st : Strand) (n : Word) : (st.advance n).trapVal = st.trapVal := rfl
@[simp] theorem Strand.advance_trapVec (st : Strand) (n : Word) : (st.advance n).trapVec = st.trapVec := rfl
@[simp] theorem Strand.advance_tscratch (st : Strand) (n : Word) : (st.advance n).tscratch = st.tscratch := rfl
@[simp] theorem Strand.advance_asid (st : Strand) (n : Word) : (st.advance n).asid = st.asid := rfl
@[simp] theorem Strand.advance_ptRoot (st : Strand) (n : Word) : (st.advance n).ptRoot = st.ptRoot := rfl
@[simp] theorem Strand.advance_ptEn (st : Strand) (n : Word) : (st.advance n).ptEn = st.ptEn := rfl
@[simp] theorem Strand.advance_slfsr (st : Strand) (n : Word) : (st.advance n).slfsr = st.slfsr := rfl
@[simp] theorem Strand.advance_roundLen (st : Strand) (n : Word) : (st.advance n).roundLen = st.roundLen := rfl
@[simp] theorem Strand.advance_state (st : Strand) (n : Word) : (st.advance n).state = st.state.resume := rfl
@[simp] theorem Strand.advance_atVector (st : Strand) (n : Word) : (st.advance n).atVector = st.atVector := rfl
@[simp] theorem Strand.advance_ahead (st : Strand) (n : Word) : (st.advance n).ahead = st.ahead := rfl
@[simp] theorem Strand.advance_instance_ (st : Strand) (n : Word) : (st.advance n).instance_ = st.instance_ := rfl
@[simp] theorem Strand.advance_acqTag (st : Strand) (n : Word) : (st.advance n).acqTag = st.acqTag := rfl
@[simp] theorem Strand.advance_relTag (st : Strand) (n : Word) : (st.advance n).relTag = st.relTag := rfl
@[simp] theorem Strand.goto_pc (st : Strand) (t : Word) : (st.goto t).pc = t := rfl
@[simp] theorem Strand.goto_g (st : Strand) (t : Word) : (st.goto t).g = st.g := rfl
@[simp] theorem Strand.goto_f (st : Strand) (t : Word) : (st.goto t).f = st.f := rfl
@[simp] theorem Strand.goto_dbl (st : Strand) (t : Word) : (st.goto t).dbl = st.dbl := rfl
@[simp] theorem Strand.goto_pie (st : Strand) (t : Word) : (st.goto t).pie = st.pie := rfl
@[simp] theorem Strand.goto_ppriv (st : Strand) (t : Word) : (st.goto t).ppriv = st.ppriv := rfl
@[simp] theorem Strand.goto_ie (st : Strand) (t : Word) : (st.goto t).ie = st.ie := rfl
@[simp] theorem Strand.goto_priv (st : Strand) (t : Word) : (st.goto t).priv = st.priv := rfl
@[simp] theorem Strand.goto_trapCause (st : Strand) (t : Word) : (st.goto t).trapCause = st.trapCause := rfl
@[simp] theorem Strand.goto_trapSub (st : Strand) (t : Word) : (st.goto t).trapSub = st.trapSub := rfl
@[simp] theorem Strand.goto_trapPc (st : Strand) (t : Word) : (st.goto t).trapPc = st.trapPc := rfl
@[simp] theorem Strand.goto_trapVal (st : Strand) (t : Word) : (st.goto t).trapVal = st.trapVal := rfl
@[simp] theorem Strand.goto_trapVec (st : Strand) (t : Word) : (st.goto t).trapVec = st.trapVec := rfl
@[simp] theorem Strand.goto_tscratch (st : Strand) (t : Word) : (st.goto t).tscratch = st.tscratch := rfl
@[simp] theorem Strand.goto_asid (st : Strand) (t : Word) : (st.goto t).asid = st.asid := rfl
@[simp] theorem Strand.goto_ptRoot (st : Strand) (t : Word) : (st.goto t).ptRoot = st.ptRoot := rfl
@[simp] theorem Strand.goto_ptEn (st : Strand) (t : Word) : (st.goto t).ptEn = st.ptEn := rfl
@[simp] theorem Strand.goto_slfsr (st : Strand) (t : Word) : (st.goto t).slfsr = st.slfsr := rfl
@[simp] theorem Strand.goto_roundLen (st : Strand) (t : Word) : (st.goto t).roundLen = st.roundLen := rfl
@[simp] theorem Strand.goto_state (st : Strand) (t : Word) : (st.goto t).state = st.state.resume := rfl
@[simp] theorem Strand.goto_atVector (st : Strand) (t : Word) : (st.goto t).atVector = st.atVector := rfl
@[simp] theorem Strand.goto_ahead (st : Strand) (t : Word) : (st.goto t).ahead = st.ahead := rfl
@[simp] theorem Strand.goto_instance_ (st : Strand) (t : Word) : (st.goto t).instance_ = st.instance_ := rfl
@[simp] theorem Strand.goto_acqTag (st : Strand) (t : Word) : (st.goto t).acqTag = st.acqTag := rfl
@[simp] theorem Strand.goto_relTag (st : Strand) (t : Word) : (st.goto t).relTag = st.relTag := rfl
@[simp] theorem Strand.enterTrap_pc (st : Strand) (cause : Cause) (sub : BitVec 8) (val pc : Word) : (st.enterTrap cause sub val pc).pc = st.trapVec.setWidth 64 <<< 2 := rfl
@[simp] theorem Strand.enterTrap_g (st : Strand) (cause : Cause) (sub : BitVec 8) (val pc : Word) : (st.enterTrap cause sub val pc).g = st.g := rfl
@[simp] theorem Strand.enterTrap_f (st : Strand) (cause : Cause) (sub : BitVec 8) (val pc : Word) : (st.enterTrap cause sub val pc).f = st.f := rfl
@[simp] theorem Strand.enterTrap_dbl (st : Strand) (cause : Cause) (sub : BitVec 8) (val pc : Word) : (st.enterTrap cause sub val pc).dbl = st.dbl := rfl
@[simp] theorem Strand.enterTrap_pie (st : Strand) (cause : Cause) (sub : BitVec 8) (val pc : Word) : (st.enterTrap cause sub val pc).pie = st.ie := rfl
@[simp] theorem Strand.enterTrap_ppriv (st : Strand) (cause : Cause) (sub : BitVec 8) (val pc : Word) : (st.enterTrap cause sub val pc).ppriv = st.priv := rfl
@[simp] theorem Strand.enterTrap_ie (st : Strand) (cause : Cause) (sub : BitVec 8) (val pc : Word) : (st.enterTrap cause sub val pc).ie = false := rfl
@[simp] theorem Strand.enterTrap_priv (st : Strand) (cause : Cause) (sub : BitVec 8) (val pc : Word) : (st.enterTrap cause sub val pc).priv = true := rfl
@[simp] theorem Strand.enterTrap_trapCause (st : Strand) (cause : Cause) (sub : BitVec 8) (val pc : Word) : (st.enterTrap cause sub val pc).trapCause = cause.code := rfl
@[simp] theorem Strand.enterTrap_trapSub (st : Strand) (cause : Cause) (sub : BitVec 8) (val pc : Word) : (st.enterTrap cause sub val pc).trapSub = sub := rfl
@[simp] theorem Strand.enterTrap_trapPc (st : Strand) (cause : Cause) (sub : BitVec 8) (val pc : Word) : (st.enterTrap cause sub val pc).trapPc = pc := rfl
@[simp] theorem Strand.enterTrap_trapVal (st : Strand) (cause : Cause) (sub : BitVec 8) (val pc : Word) : (st.enterTrap cause sub val pc).trapVal = val := rfl
@[simp] theorem Strand.enterTrap_trapVec (st : Strand) (cause : Cause) (sub : BitVec 8) (val pc : Word) : (st.enterTrap cause sub val pc).trapVec = st.trapVec := rfl
@[simp] theorem Strand.enterTrap_tscratch (st : Strand) (cause : Cause) (sub : BitVec 8) (val pc : Word) : (st.enterTrap cause sub val pc).tscratch = st.tscratch := rfl
@[simp] theorem Strand.enterTrap_asid (st : Strand) (cause : Cause) (sub : BitVec 8) (val pc : Word) : (st.enterTrap cause sub val pc).asid = st.asid := rfl
@[simp] theorem Strand.enterTrap_ptRoot (st : Strand) (cause : Cause) (sub : BitVec 8) (val pc : Word) : (st.enterTrap cause sub val pc).ptRoot = st.ptRoot := rfl
@[simp] theorem Strand.enterTrap_ptEn (st : Strand) (cause : Cause) (sub : BitVec 8) (val pc : Word) : (st.enterTrap cause sub val pc).ptEn = st.ptEn := rfl
@[simp] theorem Strand.enterTrap_slfsr (st : Strand) (cause : Cause) (sub : BitVec 8) (val pc : Word) : (st.enterTrap cause sub val pc).slfsr = st.slfsr := rfl
@[simp] theorem Strand.enterTrap_roundLen (st : Strand) (cause : Cause) (sub : BitVec 8) (val pc : Word) : (st.enterTrap cause sub val pc).roundLen = st.roundLen := rfl
@[simp] theorem Strand.enterTrap_state (st : Strand) (cause : Cause) (sub : BitVec 8) (val pc : Word) : (st.enterTrap cause sub val pc).state = .trap := rfl
@[simp] theorem Strand.enterTrap_atVector (st : Strand) (cause : Cause) (sub : BitVec 8) (val pc : Word) : (st.enterTrap cause sub val pc).atVector = true := rfl
@[simp] theorem Strand.enterTrap_ahead (st : Strand) (cause : Cause) (sub : BitVec 8) (val pc : Word) : (st.enterTrap cause sub val pc).ahead = st.ahead := rfl
@[simp] theorem Strand.enterTrap_instance_ (st : Strand) (cause : Cause) (sub : BitVec 8) (val pc : Word) : (st.enterTrap cause sub val pc).instance_ = st.instance_ := rfl
@[simp] theorem Strand.enterTrap_acqTag (st : Strand) (cause : Cause) (sub : BitVec 8) (val pc : Word) : (st.enterTrap cause sub val pc).acqTag = st.acqTag := rfl
@[simp] theorem Strand.enterTrap_relTag (st : Strand) (cause : Cause) (sub : BitVec 8) (val pc : Word) : (st.enterTrap cause sub val pc).relTag = st.relTag := rfl
@[simp] theorem Strand.leaveTrap_pc (st : Strand) : st.leaveTrap.pc = st.trapPc := rfl
@[simp] theorem Strand.leaveTrap_g (st : Strand) : st.leaveTrap.g = st.g := rfl
@[simp] theorem Strand.leaveTrap_f (st : Strand) : st.leaveTrap.f = st.f := rfl
@[simp] theorem Strand.leaveTrap_dbl (st : Strand) : st.leaveTrap.dbl = st.dbl := rfl
@[simp] theorem Strand.leaveTrap_pie (st : Strand) : st.leaveTrap.pie = st.pie := rfl
@[simp] theorem Strand.leaveTrap_ppriv (st : Strand) : st.leaveTrap.ppriv = st.ppriv := rfl
@[simp] theorem Strand.leaveTrap_ie (st : Strand) : st.leaveTrap.ie = st.pie := rfl
@[simp] theorem Strand.leaveTrap_priv (st : Strand) : st.leaveTrap.priv = st.ppriv := rfl
@[simp] theorem Strand.leaveTrap_trapCause (st : Strand) : st.leaveTrap.trapCause = st.trapCause := rfl
@[simp] theorem Strand.leaveTrap_trapSub (st : Strand) : st.leaveTrap.trapSub = st.trapSub := rfl
@[simp] theorem Strand.leaveTrap_trapPc (st : Strand) : st.leaveTrap.trapPc = st.trapPc := rfl
@[simp] theorem Strand.leaveTrap_trapVal (st : Strand) : st.leaveTrap.trapVal = st.trapVal := rfl
@[simp] theorem Strand.leaveTrap_trapVec (st : Strand) : st.leaveTrap.trapVec = st.trapVec := rfl
@[simp] theorem Strand.leaveTrap_tscratch (st : Strand) : st.leaveTrap.tscratch = st.tscratch := rfl
@[simp] theorem Strand.leaveTrap_asid (st : Strand) : st.leaveTrap.asid = st.asid := rfl
@[simp] theorem Strand.leaveTrap_ptRoot (st : Strand) : st.leaveTrap.ptRoot = st.ptRoot := rfl
@[simp] theorem Strand.leaveTrap_ptEn (st : Strand) : st.leaveTrap.ptEn = st.ptEn := rfl
@[simp] theorem Strand.leaveTrap_slfsr (st : Strand) : st.leaveTrap.slfsr = st.slfsr := rfl
@[simp] theorem Strand.leaveTrap_roundLen (st : Strand) : st.leaveTrap.roundLen = st.roundLen := rfl
@[simp] theorem Strand.leaveTrap_state (st : Strand) : st.leaveTrap.state = .run := rfl
@[simp] theorem Strand.leaveTrap_atVector (st : Strand) : st.leaveTrap.atVector = st.atVector := rfl
@[simp] theorem Strand.leaveTrap_ahead (st : Strand) : st.leaveTrap.ahead = st.ahead := rfl
@[simp] theorem Strand.leaveTrap_instance_ (st : Strand) : st.leaveTrap.instance_ = st.instance_ := rfl
@[simp] theorem Strand.leaveTrap_acqTag (st : Strand) : st.leaveTrap.acqTag = st.acqTag := rfl
@[simp] theorem Strand.leaveTrap_relTag (st : Strand) : st.leaveTrap.relTag = st.relTag := rfl
@[simp] theorem Strand.setG_pc (st : Strand) (r : GReg) (v : Word) : (st.setG r v).pc = st.pc := by
  unfold Strand.setG; split <;> rfl
@[simp] theorem Strand.setF_pc (st : Strand) (r : FReg) (v : W32) : (st.setF r v).pc = st.pc := rfl
@[simp] theorem Strand.setF_g (st : Strand) (r : FReg) (v : W32) : (st.setF r v).g = st.g := rfl
@[simp] theorem Strand.setG_f (st : Strand) (r : GReg) (v : Word) : (st.setG r v).f = st.f := by
  unfold Strand.setG; split <;> rfl
@[simp] theorem Strand.setG_dbl (st : Strand) (r : GReg) (v : Word) : (st.setG r v).dbl = st.dbl := by
  unfold Strand.setG; split <;> rfl
@[simp] theorem Strand.setF_dbl (st : Strand) (r : FReg) (v : W32) : (st.setF r v).dbl = st.dbl := rfl
@[simp] theorem Strand.setG_pie (st : Strand) (r : GReg) (v : Word) : (st.setG r v).pie = st.pie := by
  unfold Strand.setG; split <;> rfl
@[simp] theorem Strand.setF_pie (st : Strand) (r : FReg) (v : W32) : (st.setF r v).pie = st.pie := rfl
@[simp] theorem Strand.setG_ppriv (st : Strand) (r : GReg) (v : Word) : (st.setG r v).ppriv = st.ppriv := by
  unfold Strand.setG; split <;> rfl
@[simp] theorem Strand.setF_ppriv (st : Strand) (r : FReg) (v : W32) : (st.setF r v).ppriv = st.ppriv := rfl
@[simp] theorem Strand.setG_ie (st : Strand) (r : GReg) (v : Word) : (st.setG r v).ie = st.ie := by
  unfold Strand.setG; split <;> rfl
@[simp] theorem Strand.setF_ie (st : Strand) (r : FReg) (v : W32) : (st.setF r v).ie = st.ie := rfl
@[simp] theorem Strand.setG_priv (st : Strand) (r : GReg) (v : Word) : (st.setG r v).priv = st.priv := by
  unfold Strand.setG; split <;> rfl
@[simp] theorem Strand.setF_priv (st : Strand) (r : FReg) (v : W32) : (st.setF r v).priv = st.priv := rfl
@[simp] theorem Strand.setG_trapCause (st : Strand) (r : GReg) (v : Word) : (st.setG r v).trapCause = st.trapCause := by
  unfold Strand.setG; split <;> rfl
@[simp] theorem Strand.setF_trapCause (st : Strand) (r : FReg) (v : W32) : (st.setF r v).trapCause = st.trapCause := rfl
@[simp] theorem Strand.setG_trapSub (st : Strand) (r : GReg) (v : Word) : (st.setG r v).trapSub = st.trapSub := by
  unfold Strand.setG; split <;> rfl
@[simp] theorem Strand.setF_trapSub (st : Strand) (r : FReg) (v : W32) : (st.setF r v).trapSub = st.trapSub := rfl
@[simp] theorem Strand.setG_trapPc (st : Strand) (r : GReg) (v : Word) : (st.setG r v).trapPc = st.trapPc := by
  unfold Strand.setG; split <;> rfl
@[simp] theorem Strand.setF_trapPc (st : Strand) (r : FReg) (v : W32) : (st.setF r v).trapPc = st.trapPc := rfl
@[simp] theorem Strand.setG_trapVal (st : Strand) (r : GReg) (v : Word) : (st.setG r v).trapVal = st.trapVal := by
  unfold Strand.setG; split <;> rfl
@[simp] theorem Strand.setF_trapVal (st : Strand) (r : FReg) (v : W32) : (st.setF r v).trapVal = st.trapVal := rfl
@[simp] theorem Strand.setG_trapVec (st : Strand) (r : GReg) (v : Word) : (st.setG r v).trapVec = st.trapVec := by
  unfold Strand.setG; split <;> rfl
@[simp] theorem Strand.setF_trapVec (st : Strand) (r : FReg) (v : W32) : (st.setF r v).trapVec = st.trapVec := rfl
@[simp] theorem Strand.setG_tscratch (st : Strand) (r : GReg) (v : Word) : (st.setG r v).tscratch = st.tscratch := by
  unfold Strand.setG; split <;> rfl
@[simp] theorem Strand.setF_tscratch (st : Strand) (r : FReg) (v : W32) : (st.setF r v).tscratch = st.tscratch := rfl
@[simp] theorem Strand.setG_asid (st : Strand) (r : GReg) (v : Word) : (st.setG r v).asid = st.asid := by
  unfold Strand.setG; split <;> rfl
@[simp] theorem Strand.setF_asid (st : Strand) (r : FReg) (v : W32) : (st.setF r v).asid = st.asid := rfl
@[simp] theorem Strand.setG_ptRoot (st : Strand) (r : GReg) (v : Word) : (st.setG r v).ptRoot = st.ptRoot := by
  unfold Strand.setG; split <;> rfl
@[simp] theorem Strand.setF_ptRoot (st : Strand) (r : FReg) (v : W32) : (st.setF r v).ptRoot = st.ptRoot := rfl
@[simp] theorem Strand.setG_ptEn (st : Strand) (r : GReg) (v : Word) : (st.setG r v).ptEn = st.ptEn := by
  unfold Strand.setG; split <;> rfl
@[simp] theorem Strand.setF_ptEn (st : Strand) (r : FReg) (v : W32) : (st.setF r v).ptEn = st.ptEn := rfl
@[simp] theorem Strand.setG_slfsr (st : Strand) (r : GReg) (v : Word) : (st.setG r v).slfsr = st.slfsr := by
  unfold Strand.setG; split <;> rfl
@[simp] theorem Strand.setF_slfsr (st : Strand) (r : FReg) (v : W32) : (st.setF r v).slfsr = st.slfsr := rfl
@[simp] theorem Strand.setG_roundLen (st : Strand) (r : GReg) (v : Word) : (st.setG r v).roundLen = st.roundLen := by
  unfold Strand.setG; split <;> rfl
@[simp] theorem Strand.setF_roundLen (st : Strand) (r : FReg) (v : W32) : (st.setF r v).roundLen = st.roundLen := rfl
@[simp] theorem Strand.setG_state (st : Strand) (r : GReg) (v : Word) : (st.setG r v).state = st.state := by
  unfold Strand.setG; split <;> rfl
@[simp] theorem Strand.setF_state (st : Strand) (r : FReg) (v : W32) : (st.setF r v).state = st.state := rfl
@[simp] theorem Strand.setG_atVector (st : Strand) (r : GReg) (v : Word) : (st.setG r v).atVector = st.atVector := by
  unfold Strand.setG; split <;> rfl
@[simp] theorem Strand.setF_atVector (st : Strand) (r : FReg) (v : W32) : (st.setF r v).atVector = st.atVector := rfl
@[simp] theorem Strand.setG_ahead (st : Strand) (r : GReg) (v : Word) : (st.setG r v).ahead = st.ahead := by
  unfold Strand.setG; split <;> rfl
@[simp] theorem Strand.setF_ahead (st : Strand) (r : FReg) (v : W32) : (st.setF r v).ahead = st.ahead := rfl
@[simp] theorem Strand.setG_instance_ (st : Strand) (r : GReg) (v : Word) : (st.setG r v).instance_ = st.instance_ := by
  unfold Strand.setG; split <;> rfl
@[simp] theorem Strand.setF_instance_ (st : Strand) (r : FReg) (v : W32) : (st.setF r v).instance_ = st.instance_ := rfl
@[simp] theorem Strand.setG_acqTag (st : Strand) (r : GReg) (v : Word) : (st.setG r v).acqTag = st.acqTag := by
  unfold Strand.setG; split <;> rfl
@[simp] theorem Strand.setF_acqTag (st : Strand) (r : FReg) (v : W32) : (st.setF r v).acqTag = st.acqTag := rfl
@[simp] theorem Strand.setG_relTag (st : Strand) (r : GReg) (v : Word) : (st.setG r v).relTag = st.relTag := by
  unfold Strand.setG; split <;> rfl
@[simp] theorem Strand.setF_relTag (st : Strand) (r : FReg) (v : W32) : (st.setF r v).relTag = st.relTag := rfl

/-- Register 0 reads as zero (09 R292). -/
@[simp] theorem Strand.getG_zero (st : Strand) : st.getG 0 = 0 := rfl
/-- A write to register 0 is discarded (09 R292). -/
@[simp] theorem Strand.setG_zero (st : Strand) (v : Word) : st.setG 0 v = st := rfl
@[simp] theorem Strand.getG_advance (st : Strand) (n : Word) (r : GReg) : (st.advance n).getG r = st.getG r := rfl
@[simp] theorem Strand.getG_goto (st : Strand) (t : Word) (r : GReg) : (st.goto t).getG r = st.getG r := rfl
theorem Strand.getG_setG_same (st : Strand) (r : GReg) (v : Word) (h : r.val ≠ 0) : (st.setG r v).getG r = v := by
  simp [Strand.getG, Strand.setG, h]
theorem Strand.getG_setG_ne (st : Strand) (r q : GReg) (v : Word) (h : r ≠ q) : (st.setG r v).getG q = st.getG q := by
  unfold Strand.getG Strand.setG
  by_cases h0 : r.val = 0
  · simp [h0]
  · simp [h0, vget_vset_ne _ _ _ _ h]

/-! The machine after a change of the strand that runs -/

@[simp] theorem State.modMe_curC (s : State) (f : Strand → Strand) : (s.modMe f).curC = s.curC := rfl
@[simp] theorem State.modMe_curK (s : State) (f : Strand → Strand) : (s.modMe f).curK = s.curK := rfl
@[simp] theorem State.modMe_turns (s : State) (f : Strand → Strand) : (s.modMe f).turns = s.turns := rfl
@[simp] theorem State.modMe_mem (s : State) (f : Strand → Strand) : (s.modMe f).dev.mem = s.dev.mem := rfl
@[simp] theorem State.modMe_me (s : State) (f : Strand → Strand) : (s.modMe f).me = f s.me := by
  simp [State.modMe, State.me]

end Sys2Proof.Machine
end

