-- ==== Sys2Proof/Laws/Memory.lean ====
section
/-! SUPPORT. Memory: a read after a write, and every memory operation keeps the canonical form. -/

namespace Sys2Proof.Machine

theorem memWfFrom_le {lo lo' : Nat} {m : Memory} (h : memWfFrom lo m = true) (hl : lo' ≤ lo) : memWfFrom lo' m = true := by
  cases m with
  | nil => rfl
  | cons c t =>
    simp only [memWfFrom, Bool.and_eq_true, decide_eq_true_eq] at h ⊢
    exact ⟨⟨by omega, h.1.2⟩, h.2⟩

/-- A read below every listed address finds nothing. -/
theorem memRead_below {lo a : Nat} {m : Memory} (h : memWfFrom lo m = true) (ha : a < lo) : memRead m a = 0 := by
  induction m generalizing lo with
  | nil => rfl
  | cons c t ih =>
    obtain ⟨k, b⟩ := c
    simp only [memWfFrom, Bool.and_eq_true, decide_eq_true_eq] at h
    have hk : k ≠ a := by omega
    simp only [memRead, hk, if_false]
    exact ih h.2 (by omega)

/-- A byte read after it was written is the byte written. -/
theorem memRead_memWrite_same {lo : Nat} {m : Memory} (a : Nat) (x : Byte) (h : memWfFrom lo m = true) :
    memRead (memWrite m a x) a = x := by
  induction m generalizing lo with
  | nil =>
    unfold memWrite
    split
    · next hx => simp [memRead, hx]
    · simp [memRead]
  | cons c t ih =>
    obtain ⟨k, b⟩ := c
    have h' := h
    simp only [memWfFrom, Bool.and_eq_true, decide_eq_true_eq] at h
    unfold memWrite
    split
    · next hlt =>
      split
      · next hx =>
        subst hx
        have hk : k ≠ a := by omega
        simp only [memRead, hk, if_false]
        exact memRead_below h.2 (by omega)
      · simp [memRead]
    · split
      · next hlt he =>
        subst he
        split
        · next hx =>
          subst hx
          exact memRead_below h.2 (by omega)
        · simp [memRead]
      · next hlt hne =>
        have hk : k ≠ a := fun e => hne e.symm
        simp only [memRead, hk, if_false]
        exact ih h.2

/-- A write leaves every other byte alone. -/
theorem memRead_memWrite_ne (m : Memory) (a q : Nat) (x : Byte) (h : a ≠ q) : memRead (memWrite m a x) q = memRead m q := by
  induction m with
  | nil =>
    unfold memWrite
    split <;> simp [memRead, h]
  | cons c t ih =>
    obtain ⟨k, b⟩ := c
    unfold memWrite
    split
    · split <;> simp [memRead, h]
    · split
      · next he =>
        subst he
        split <;> simp [memRead, h]
      · simp [memRead, ih]

theorem memWrite_wfFrom {lo : Nat} {m : Memory} (a : Nat) (x : Byte) (h : memWfFrom lo m = true) (hlo : lo ≤ a) :
    memWfFrom lo (memWrite m a x) = true := by
  induction m generalizing lo with
  | nil =>
    unfold memWrite
    split
    · rfl
    · next hx =>
      simp only [memWfFrom, Bool.and_eq_true, decide_eq_true_eq]
      exact ⟨⟨hlo, hx⟩, trivial⟩
  | cons c t ih =>
    obtain ⟨k, b⟩ := c
    have h' := h
    simp only [memWfFrom, Bool.and_eq_true, decide_eq_true_eq] at h
    unfold memWrite
    split
    · next hlt =>
      split
      · exact h'
      · next hx =>
        simp only [memWfFrom, Bool.and_eq_true, decide_eq_true_eq]
        exact ⟨⟨hlo, hx⟩, ⟨by omega, h.1.2⟩, h.2⟩
    · split
      · next hlt he =>
        subst he
        split
        · exact memWfFrom_le h.2 (by omega)
        · next hx =>
          simp only [memWfFrom, Bool.and_eq_true, decide_eq_true_eq]
          exact ⟨⟨hlo, hx⟩, h.2⟩
      · next hlt hne =>
        simp only [memWfFrom, Bool.and_eq_true, decide_eq_true_eq]
        exact ⟨h.1, ih h.2 (by omega)⟩

/-- Storing a byte keeps the canonical form. -/
theorem memWrite_wf (m : Memory) (a : Nat) (x : Byte) (h : Memory.wf m = true) : Memory.wf (memWrite m a x) = true :=
  memWrite_wfFrom a x h (Nat.zero_le a)

/-- Storing bytes keeps the canonical form. -/
theorem memWriteN_wf (m : Memory) (a : Nat) (l : List Byte) (h : Memory.wf m = true) : Memory.wf (memWriteN m a l) = true := by
  induction l generalizing m a with
  | nil => exact h
  | cons x t ih => exact ih _ _ (memWrite_wf m a x h)

/-- Storing cells keeps the canonical form. -/
theorem memWriteCells_wf (m : Memory) (l : List Host.Cell) (h : Memory.wf m = true) : Memory.wf (memWriteCells m l) = true := by
  unfold memWriteCells
  induction l generalizing m with
  | nil => exact h
  | cons c t ih => exact ih _ (memWrite_wf m c.1 c.2 h)

theorem memFilter_wfFrom {lo : Nat} {m : Memory} (p : Host.Cell → Bool) (h : memWfFrom lo m = true) :
    memWfFrom lo (m.filter p) = true := by
  induction m generalizing lo with
  | nil => rfl
  | cons c t ih =>
    obtain ⟨k, b⟩ := c
    simp only [memWfFrom, Bool.and_eq_true, decide_eq_true_eq] at h
    rw [List.filter_cons]
    split
    · simp only [memWfFrom, Bool.and_eq_true, decide_eq_true_eq]
      exact ⟨h.1, ih h.2⟩
    · exact ih (memWfFrom_le h.2 (by omega))

/-- Zeroing a range keeps the canonical form. -/
theorem memZeroRange_wf (m : Memory) (lo hi : Nat) (h : Memory.wf m = true) : Memory.wf (memZeroRange m lo hi) = true :=
  memFilter_wfFrom _ h

/-- Bytes outside a stored run are unchanged. -/
theorem memRead_memWriteN_outside (m : Memory) (a q : Nat) (l : List Byte) (h : q < a ∨ a + l.length ≤ q) :
    memRead (memWriteN m a l) q = memRead m q := by
  induction l generalizing m a with
  | nil => rfl
  | cons x t ih =>
    simp only [List.length_cons] at h
    rw [memWriteN, ih _ _ (by omega), memRead_memWrite_ne _ _ _ _ (by omega)]

/-- Bytes that no cell names are unchanged. -/
theorem memRead_memWriteCells_outside (m : Memory) (q : Nat) (l : List Host.Cell) (h : ∀ c ∈ l, c.1 ≠ q) :
    memRead (memWriteCells m l) q = memRead m q := by
  unfold memWriteCells
  induction l generalizing m with
  | nil => rfl
  | cons c t ih =>
    rw [List.foldl_cons, ih _ (fun x hx => h x (List.mem_cons_of_mem c hx)),
      memRead_memWrite_ne _ _ _ _ (h c List.mem_cons_self)]

/-- A turn that has counted no read leaves nothing more when it ends. -/
theorem State.counted_of_none (s : State) (h : s.dev.counts = []) : s.counted = s := by
  simp [State.counted, Dev.flushCounts, h]

end Sys2Proof.Machine
end

