-- ==== Sys2Proof/Laws/Strand.lean ====
section
/-! SUPPORT. What the shared operations of strands do: an instruction that writes one register, one that goes to an address, a
trap, a wait, and a strand's program as a whole. -/

namespace Sys2Proof.Machine

theorem OthersSame.refl (s : State) : OthersSame s s :=
  ⟨rfl, rfl, rfl, fun _ _ _ => rfl, fun _ => rfl, rfl, fun _ => rfl⟩

/-- A change of the strand that runs leaves everything else alone. -/
theorem othersSame_modMe (s : State) (f : Strand → Strand) : OthersSame s (s.modMe f) := by
  refine ⟨rfl, rfl, rfl, fun c k h => Dev.strand_modStrand_ne _ _ _ _ _ _ (Ne.symm h), fun c => ?_, rfl, fun _ => rfl⟩
  by_cases hc : s.curC = c
  · subst hc
    simp [State.modMe, Dev.modStrand, Dev.setStrand]
  · simp [State.modMe, Dev.modStrand, Dev.setStrand, Dev.cl_modCl_ne _ _ _ _ hc]

/-- What an instruction that writes one register and changes the program counter does. -/
theorem modMe_setG_to (s : State) (d : GReg) (v p : Word) :
    WritesGTo d v p s (s.modMe (fun st => (st.setG d v).goto p)) := by
  refine ⟨⟨by simp, by simp, ?_, ?_, ?_⟩, othersSame_modMe s _⟩
  · by_cases hd : d = 0
    · subst hd; simp [State.g]
    · have : d.val ≠ 0 := fun h => hd (Fin.ext h)
      simp [State.g, hd, Strand.getG_setG_same _ _ _ this]
  · intro r hr
    simp [State.g, Strand.getG_setG_ne _ _ _ _ (Ne.symm hr)]
  · simp only [State.modMe_me]
    unfold Strand.setG Strand.goto
    split <;> rfl

/-- What an instruction that writes one register does, whatever its length. -/
theorem modMe_setG_advance (s : State) (d : GReg) (v n : Word) :
    WritesG d v n s (s.modMe (fun st => (st.setG d v).advance n)) := by
  have e : s.modMe (fun st => (st.setG d v).advance n) = s.modMe (fun st => (st.setG d v).goto (s.me.pc + n)) := by
    simp [State.modMe, Dev.modStrand, Strand.advance, Strand.goto, State.me]
  rw [e]
  exact modMe_setG_to s d v _

/-- What an instruction that only writes one register does. -/
theorem writeG_spec (s : State) (d : GReg) (v : Word) : WritesG d v 4 s (s.writeG d v) := modMe_setG_advance s d v 4

/-- What a taken branch does. -/
theorem modMe_goto (s : State) (p : Word) : GoesTo p s (s.modMe (fun st => st.goto p)) :=
  ⟨⟨by simp, by simp, fun r => by simp [State.g], by simp [Strand.goto]⟩, othersSame_modMe s _⟩

/-- What an instruction that writes nothing does. -/
theorem modMe_advance (s : State) (n : Word) : GoesTo (s.me.pc + n) s (s.modMe (fun st => st.advance n)) :=
  ⟨⟨by simp, by simp, fun r => by simp [State.g], by simp [Strand.advance]⟩, othersSame_modMe s _⟩

theorem trapVec_address (x : BitVec 62) : (x.setWidth 64 <<< 2 : Word) = BitVec.ofNat 64 (4 * x.toNat) := by
  apply BitVec.eq_of_toNat_eq
  have := x.isLt
  simp only [BitVec.toNat_shiftLeft, BitVec.toNat_setWidth, BitVec.toNat_ofNat, Nat.shiftLeft_eq]
  omega

/-- What a trap does. -/
theorem modMe_enterTrap (s : State) (c : Cause) (sub : BitVec 8) (v p : Word) :
    Traps c sub v p s (s.modMe (fun st => st.enterTrap c sub v p)) := by
  refine ⟨?_, ?_, ?_, ?_, ?_, ?_, ?_, ?_, ?_, ?_, ?_, fun r => ?_, ?_, ?_, ?_, ?_, ?_, ?_, ?_, ?_, ?_, othersSame_modMe s _⟩ <;>
    simp [trapVec_address, State.g, Strand.getG]

/-- What a synchronous trap does. -/
theorem trapHere_spec (s : State) (c : Cause) (sub : BitVec 8) (v : Word) :
    Traps c sub v s.me.pc s (s.trapHere c sub v) := by
  have h : s.trapHere c sub v = s.modMe (fun st => st.enterTrap c sub v s.me.pc) := by
    simp [State.trapHere, State.modMe, Dev.modStrand, State.me]
  rw [h]; exact modMe_enterTrap s c sub v s.me.pc

/-- What a wait does. -/
theorem modMe_waiting (s : State) (w : WaitFor) :
    Waits w s (s.modMe (fun st => { st with state := st.state.waiting w })) :=
  ⟨by simp, othersSame_modMe s _⟩

/-- A strand's program always answers a next state: it completes, traps or waits. -/
theorem runM_next (s : State) (p : M Next) : ∃ t, s.runM p = .next t := by
  unfold State.runM
  split <;> exact ⟨_, rfl⟩

/-- A completed program advances the program counter by 4 on the device that it left. -/
theorem runM_ok {s : State} {p : M Next} {d : Dev} (h : p s.dev = (.ok none, d)) :
    s.runM p = .next ((s.after d).modMe (fun st => st.advance 4)) := by
  simp only [State.runM, h, State.after, State.modMe]

/-- A program that traps does so on the device that it left. -/
theorem runM_trap {s : State} {p : M Next} {d : Dev} {c : Cause} {sub : BitVec 8} {v : Word}
    (h : p s.dev = (.error (.trap c sub v), d)) : s.runM p = .next ((s.after d).trapHere c sub v) := by
  simp only [State.runM, h, State.after, State.trapHere, State.modMe]

/-- A program that waits does so on the device that it left. -/
theorem runM_wait {s : State} {p : M Next} {d : Dev} {w : WaitFor} (h : p s.dev = (.error (.wait w), d)) :
    s.runM p = .next ((s.after d).modMe (fun st => { st with state := st.state.waiting w })) := by
  simp only [State.runM, h, State.after, State.modMe]

end Sys2Proof.Machine
end

