-- ==== Sys2Proof/Laws/Programs.lean ====
section
/-! SUPPORT. How programs run (accesses, and the programs of strands): what each way of building one answers on a device. Later proofs
rewrite with these and unfold no monad. -/

namespace Sys2Proof.Machine

section
variable {ε α β : Type}

theorem run_pure (x : α) (d : Dev) : (pure x : ExceptT ε (StateM Dev) α) d = (.ok x, d) := rfl
theorem run_throw (e : ε) (d : Dev) : (throw e : ExceptT ε (StateM Dev) α) d = (.error e, d) := rfl
theorem run_get (d : Dev) : (get : ExceptT ε (StateM Dev) Dev) d = (.ok d, d) := rfl
theorem run_set (e d : Dev) : (set e : ExceptT ε (StateM Dev) PUnit) d = (.ok ⟨⟩, e) := rfl
theorem run_modify (f : Dev → Dev) (d : Dev) : (modify f : ExceptT ε (StateM Dev) PUnit) d = (.ok ⟨⟩, f d) := rfl
theorem run_bind (m : ExceptT ε (StateM Dev) α) (f : α → ExceptT ε (StateM Dev) β) (d : Dev) :
    (m >>= f) d = (match m d with
      | (.ok v, e) => f v e
      | (.error x, e) => (.error x, e)) := by
  show (ExceptT.bind m f) d = _
  simp only [ExceptT.bind, ExceptT.mk, bind, StateT.bind]
  rcases m d with ⟨_ | _, _⟩ <;> rfl
theorem run_bind_ok {m : ExceptT ε (StateM Dev) α} {f : α → ExceptT ε (StateM Dev) β} {d e : Dev} {v : α} (h : m d = (.ok v, e)) :
    (m >>= f) d = f v e := by
  rw [run_bind, h]
theorem run_bind_error {m : ExceptT ε (StateM Dev) α} {f : α → ExceptT ε (StateM Dev) β} {d e : Dev} {x : ε} (h : m d = (.error x, e)) :
    (m >>= f) d = (.error x, e) := by
  rw [run_bind, h]
theorem run_ite (c : Prop) [Decidable c] (m n : ExceptT ε (StateM Dev) α) (d : Dev) :
    (if c then m else n) d = if c then m d else n d := by
  split <;> rfl

end

theorem run_trapM {α : Type} (c : Cause) (v : Word) (d : Dev) : (trapM c v : M α) d = (.error (.trap c 0 v), d) := rfl
theorem run_retryM {α : Type} (d : Dev) : (retryM : M α) d = (.error .again, d) := rfl
theorem run_regM (c : ClusterId) (k : StrandIx) (r : GReg) (d : Dev) : regM c k r d = (.ok ((d.strand c k).getG r), d) := rfl
theorem run_setRegM (c : ClusterId) (k : StrandIx) (r : GReg) (v : Word) (d : Dev) :
    setRegM c k r v d = (.ok ⟨⟩, d.modStrand c k (fun st => st.setG r v)) := rfl

/-- An access that succeeds inside a strand's program. -/
theorem run_liftAcc_ok {α : Type} {ga : Word} {a : Acc α} {d e : Dev} {x : α} (h : a d = (.ok x, e)) : liftAcc ga a d = (.ok x, e) := by
  unfold liftAcc; rw [run_bind_ok (run_get d)]; simp only [h]; rfl
/-- An access that fails inside a strand's program. -/
theorem run_liftAcc_error {α : Type} {ga : Word} {a : Acc α} {d e : Dev} {x : XFault} (h : a d = (.error x, e)) :
    liftAcc ga a d = (.error (x.toErr ga), e) := by
  unfold liftAcc; rw [run_bind_ok (run_get d)]; simp only [h]; rfl
theorem run_tryAcc_ok {α : Type} {ga : Word} {a : Acc α} {d e : Dev} {x : α} (h : a d = (.ok x, e)) : tryAcc ga a d = (.ok (some x), e) := by
  unfold tryAcc; rw [run_bind_ok (run_get d)]; simp only [h]; rfl
theorem run_tryAcc_refused {α : Type} {ga : Word} {a : Acc α} {d e : Dev} (h : a d = (.error .refused, e)) :
    tryAcc ga a d = (.ok none, e) := by
  unfold tryAcc; rw [run_bind_ok (run_get d)]; simp only [h]; rfl
theorem run_tryAcc_error {α : Type} {ga : Word} {a : Acc α} {d e : Dev} {x : XFault} (h : a d = (.error x, e)) (hx : x ≠ .refused) :
    tryAcc ga a d = (.error (x.toErr ga), e) := by
  unfold tryAcc; rw [run_bind_ok (run_get d)]; cases x <;> simp only [h] <;> first | rfl | exact absurd rfl hx

/-- No signal operation of a strand waits where its cluster has none. -/
theorem signalWaits_none {d : Dev} {x : Ctx} {t : Target} (h : (d.cl x.c).signals = []) : d.signalWaits x t = false := by
  unfold Dev.signalWaits
  split <;> simp [h]

/-- A read of scratchpad in a bank that admits the cluster. -/
theorem readT_scratch {x : Ctx} {ga : Word} {c : ClusterId} {o n : Nat} {d : Dev} (h : d.bankCheck (d.partOf c) c o = none)
    (hs : d.signalWaits x (.scratch c o) = false) :
    readT x ga (.scratch c o) n false d =
      (.ok (memReadN d.mem (d.scratchKeyOf c o) n, smem d.poison (d.scratchKeyOf c o / 64)), d) := by
  unfold readT; rw [run_bind_ok (run_get d)]; simp only [h, hs]; rfl

/-- A load that finds its word in scratchpad writes it and does nothing else. -/
theorem loadM_scratch {g : GReg} {ga : Word} {n : Nat} {sg : Bool} {c : ClusterId} {k : StrandIx} {x : Ctx} {h : ClusterId} {o : Nat} {d : Dev}
    (hm : ga.toNat % n = 0) (hr : resolve x ga .read d = (.ok (.scratch h o), d)) (hb : d.bankCheck (d.partOf h) h o = none)
    (hs : d.signalWaits x (.scratch h o) = false) (hp : smem d.poison (d.scratchKeyOf h o / 64) = false) :
    loadM g ga n sg false c k x d = (.ok none, d.modStrand c k (fun st => st.setG g (extend n sg (leNat (memReadN d.mem (d.scratchKeyOf h o) n))))) := by
  unfold loadM
  have e : (ga.toNat % n != 0) = false := by simp [hm]
  simp only [e, Bool.false_eq_true, if_false]
  rw [run_bind_ok (run_tryAcc_ok hr)]
  simp only
  rw [run_bind_ok (run_liftAcc_ok (readT_scratch hb hs))]
  simp only [hp, Bool.false_eq_true, if_false]
  unfold loadM.loaded
  simp only [Bool.false_eq_true, if_false]
  rfl

/-- An access through the LOCAL window (01 R14, R17) changes nothing and reaches what its offset names. -/
theorem resolve_local {x : Ctx} {ga : Word} {kind : AccKind} {off : Nat} {t : Target} {d : Dev}
    (h : x.ap.decode ga.toNat = some (1, off)) (ht : localTarget x.c off = .ok t) : resolve x ga kind d = (.ok t, d) := by
  unfold resolve
  rw [run_bind_ok (run_get d)]
  simp only [h, ht]
  simp [run_pure]

/-- An access through the MMIO window at supervisor privilege to a block granted to the partition. -/
theorem resolve_mmio {x : Ctx} {ga : Word} {kind : AccKind} {off : Nat} {d : Dev} (h : x.ap.decode ga.toNat = some (6, off))
    (hk : kind ≠ .fetch) (hs : x.id.sup = true) (hg : d.mmioGranted (d.partOf x.c) off = true) :
    resolve x ga kind d = (.ok (.mmio off), d) := by
  unfold resolve
  rw [run_bind_ok (run_get d)]
  simp only [h, hs, hg]
  simp [hk, run_pure]

theorem localTarget_scratch {c : ClusterId} {o : Nat} (h : o < 0xC00000) : localTarget c o = .ok (.scratch c o) := by
  simp [localTarget, h]

/-- A presence operation through the LOCAL window. -/
theorem presenceTarget_local {x : Ctx} {ga : Word} {o : Nat} {d : Dev} (ha : ga.toNat % 8 = 0) (h : x.ap.decode ga.toNat = some (1, o))
    (ho : o < 0xC00000) (hb : d.bankCheck (d.partOf x.c) x.c o = none) : presenceTarget x ga d = (.ok (x.c, o), d) := by
  have hr := resolve_local (kind := .read) (d := d) h (localTarget_scratch ho)
  unfold presenceTarget
  have e : (ga.toNat % 8 != 0) = false := by simp [ha]
  simp only [e, h, Bool.false_eq_true, if_false]
  simp only [show ((1 : Nat) != 1 && (1 : Nat) != 2) = false from rfl, Bool.false_eq_true, if_false]
  show (resolve x ga .read >>= _) d = _
  rw [run_bind_ok hr]
  simp only
  rw [run_bind_ok (run_get d)]
  simp only [hb]
  rfl

/-- A barrier step through the LOCAL window. -/
theorem barrierTarget_local {x : Ctx} {ga : Word} {o : Nat} {d : Dev} (ha : ga.toNat % 16 = 0) (h : x.ap.decode ga.toNat = some (1, o))
    (ho : o < 0xC00000) (hb : d.bankCheck (d.partOf x.c) x.c o = none) : barrierTarget x ga d = (.ok (d.scratchKeyOf x.c o), d) := by
  have hr := resolve_local (kind := .write) (d := d) h (localTarget_scratch ho)
  unfold barrierTarget
  have e : (ga.toNat % 16 != 0) = false := by simp [ha]
  simp only [e, h, Bool.false_eq_true, if_false]
  simp only [show ((1 : Nat) != 1 && (1 : Nat) != 2) = false from rfl, Bool.false_eq_true, if_false]
  show (resolve x ga .write >>= _) d = _
  rw [run_bind_ok hr]
  simp only
  rw [run_bind_ok (run_get d)]
  simp only [hb]
  rfl

theorem atGa_ok {α : Type} {ga : Word} {wr : Bool} {a : Acc α} {d e : Dev} {x : α} (h : a d = (.ok x, e)) : atGa ga wr a d = (.ok x, e) := by
  unfold atGa
  rw [run_bind_ok (run_get d)]
  simp only [h]
  rfl

/-- An engine's access through the LOCAL window. -/
theorem uResolve_local {x : Ctx} {ga : Word} {kind : AccKind} {n o : Nat} {d : Dev} (h : x.ap.decode ga.toNat = some (1, o))
    (ho : o < 0xC00000) (hb : d.bankCheck (d.partOf x.c) x.c o = none) : uResolve x kind (ga, n) d = (.ok (.scratch x.c o), d) := by
  have hr := resolve_local (kind := kind) (d := d) h (localTarget_scratch ho)
  unfold uResolve
  apply atGa_ok
  simp only
  rw [run_bind_ok hr]
  simp only
  rw [run_bind_ok (run_get d)]
  simp only [hb]
  rfl

/-- An image's address through the LOCAL window. -/
theorem imageAddrM_local {x : Ctx} {ga : Word} {o : Nat} {d : Dev} (ha : ga.toNat % 64 = 0) (h : x.ap.decode ga.toNat = some (1, o)) :
    imageAddrM x ga d = (.ok (), d) := by
  unfold imageAddrM
  have e : (ga.toNat % 64 != 0) = false := by simp [ha]
  simp only [e, h, Bool.false_eq_true, if_false]
  rfl

/-- A selector that names the strand's own cluster. -/
theorem selectorM_own {c : ClusterId} {sel : Word} {d : Dev} {r : RegionIx} {n : Fin 4} (h : bits sel.toNat 10 4 = 127)
    (hr : rIx (bits sel.toNat 3 2) = r) (hn : bits sel.toNat 1 0 % 4 = n.val) (hl : r.val < layoutRegions (d.cl c).layout.toNat) :
    selectorM c sel d = (.ok (c, r, n), d) := by
  have hc : clusterM c (bits sel.toNat 10 4) sel d = (.ok c, d) := by
    unfold clusterM
    rw [run_bind_ok (run_get d)]
    simp only [h]
    rfl
  unfold selectorM
  rw [run_bind_ok hc, run_bind_ok (run_get d)]
  simp only [hr, Nat.not_le.mpr hl, if_false, hn]
  rfl

end Sys2Proof.Machine
end

