-- ==== Sys2Proof/Tests/Slice0.lean ====
section
/-! SUPPORT. Tests of the control core, and for each statement about its instructions a state and operands that meet its hypotheses. Expected
values are worked out from the rules named. -/

namespace Sys2Proof.Tests

set_option maxRecDepth 100000
set_option Elab.async false

open Sys2Proof Sys2Proof.Machine

/-! ### Helpers -/

/-- Cluster 0, with all its banks, in partition 0; its strand 0 runs at LOCAL offset 0, with the registers of a list. -/
def start (l : List (GReg × Word)) : State :=
  let s := State.reset.withFetchWord 32 0
  { s with dev := s.dev.modCl 0 (fun cl => { cl with
    banks := Vector.replicate 32 ⟨0, false, 0, 0, 0⟩
    strands := cl.strands.map (fun st => l.foldl (fun st e => st.setG e.1 e.2) st) }) }

/-- A state with cluster 0 changed. -/
def withCl (f : Cluster → Cluster) (s : State) : State := { s with dev := s.dev.modCl 0 f }
/-- A state with strand 0 of cluster 0 changed. -/
def withMe (f : Strand → Strand) (s : State) : State := { s with dev := s.dev.modStrand 0 0 f }
/-- A state with bytes stored from a storage key on. -/
def withBytes (key : Nat) (bs : List Byte) (s : State) : State := { s with dev := { s.dev with mem := memWriteN s.dev.mem key bs } }
/-- At user privilege. -/
def user (s : State) : State := withMe (fun st => { st with priv := false }) s
/-- GLOBAL window at 0x1000_0000, page 0 of it mapped, readable and writable, to class 0 offset 0. -/
def paged (s : State) : State :=
  let d := s.dev.modCl 0 (fun cl => { cl with
    ap := { base := cl.ap.base.set 2 0x10, limit := cl.ap.limit.set 2 0x10 }
    strands := cl.strands.map (fun st => { st with ptEn := true }) })
  let d := d.modPart 0 (fun p => { p with mb := { p.mb with cmap := [0] } })
  { s with dev := d.modDie 0 (fun x => { x with tlb := [⟨0, 0, 0, 0, 0, 0, 0, 0xBF⟩] }) }
/-- An answer is the value given. -/
def okIs {ε α : Type} [DecidableEq α] (m : Except ε α) (x : α) : Bool :=
  match m with
  | .ok y => decide (y = x)
  | .error _ => false
theorem ok_of {ε α δ : Type} [DecidableEq α] {m : Except ε α × δ} {x : α} (h : okIs m.1 x = true) : ∃ d, m = (.ok x, d) := by
  obtain ⟨e, d⟩ := m
  cases e <;> simp_all [okIs]
/-- An access answers this error. -/
def errIs {ε α : Type} [DecidableEq ε] (m : Except ε α) (x : ε) : Bool :=
  match m with
  | .ok _ => false
  | .error y => decide (y = x)
theorem err_of {ε α δ : Type} [DecidableEq ε] {m : Except ε α × δ} {x : ε} (h : errIs m.1 x = true) : ∃ d, m = (.error x, d) := by
  obtain ⟨e, d⟩ := m
  cases e <;> simp_all [errIs]
theorem ok_then {ε α δ : Type} {m : Except ε α × δ} {f : α → δ → Bool}
    (h : (match m with | (.ok x, d) => f x d | _ => false) = true) : ∃ x d, m = (.ok x, d) ∧ f x d = true := by
  obtain ⟨e, d⟩ := m
  cases e
  · simp at h
  · exact ⟨_, _, rfl, h⟩
/-- The state that exec answers, of which a test asks. -/
def run (i : Instr) (s : State) (f : State → Bool) : Bool :=
  match exec i s with
  | .next t => f t
  | _ => false

/-! ### Well-formedness: an ill-formed term for each check -/

theorem test_wf_scope : (Instr.lda 1 2 6 true).wf = false ∧ (Instr.stl 1 2 7 false).wf = false ∧ (Instr.amoAdd 1 2 3 6 0 true).wf = false ∧
    (Instr.cas 1 2 3 7 0 true).wf = false ∧ (Instr.put 1 2 6).wf = false ∧ (Instr.fence 7 0).wf = false ∧ (Instr.binit 1 2 6).wf = false ∧
    (Instr.sigst 1 2 false 6).wf = false ∧ (Instr.msgsend 1 2 3 7).wf = false ∧ (Instr.msgrecv 1 6).wf = false := by decide
theorem test_wf_fields : (Instr.acvtTo 1 2 7).wf = false ∧ (Instr.acvtFrom 1 2 7).wf = false ∧ (Instr.enq 1 2 7).wf = false ∧
    (Instr.enqs 1 2 7).wf = false ∧ (Instr.qstat 1 7).wf = false ∧ (Instr.fadd 1 2 3 7).wf = false ∧ (Instr.fsqrt 1 2 7).wf = false ∧
    (Instr.fcvt 1 16 0 0).wf = false ∧ (Instr.fcvt 16 1 2 0).wf = false ∧ (Instr.fcvt 1 1 0 7).wf = false := by decide
theorem test_wf_registers : (Instr.sigst 31 2 false 0).wf = false ∧ (Instr.sigst 1 31 false 0).wf = false ∧ (Instr.msgsend 1 2 30 0).wf = false ∧
    (Instr.msgrecv 29 0).wf = false := by decide
theorem test_wf_lengths : (Instr.mnChunkWrite 0 0 0 [1] false).wf = false ∧ (Instr.bar4Write 0 0 []).wf = false := by decide
theorem test_wf_good : (Instr.lda 1 2 5 true).wf = true ∧ (Instr.fcvt 31 15 5 6).wf = true ∧ (Instr.msgsend 1 2 29 5).wf = true := by decide

/-! ### Words written out from the encodings (07 R230 to R236): major opcode [31:26], d [25:21], a [20:16], b [15:11], fn [10:0] -/

theorem test_decode_opr : decode 0x04642800 0 = .ok (.add 3 4 5) := rfl
theorem test_decode_imm : decode 0x0860FFFF 0 = .ok (.addi 3 0 0xFFFF) := rfl
theorem test_decode_load : decode 0x34640010 0 = .ok (.ldd 3 4 16) := rfl
theorem test_decode_store : decode 0x5083FFF8 0 = .ok (.std 4 3 0xFFF8) := rfl
theorem test_decode_atomic : decode 0x5465209D 0 = .ok (.amoAdd 3 5 4 3 2 true) := rfl
theorem test_decode_presence : decode 0x5405331D 0 = .ok (.put 5 6 3) := rfl
theorem test_decode_branch : decode 0x58220003 0 = .ok (.beq 1 2 3) := rfl
theorem test_decode_jump : decode 0x73FFFFFF 0 = .ok (.jal 0x3FFFFFF) := rfl
theorem test_decode_system : decode 0x78000221 0 = .ok (.trap 0x21) := rfl
theorem test_decode_acvt : decode 0x7C640003 0 = .ok (.acvtTo 3 4 3) := rfl
theorem test_decode_fabric : decode 0x800A5900 0 = .ok (.krun 10 11) := rfl
theorem test_decode_engine : decode 0x85880000 0 = .ok (.enq 12 8 0) := rfl
theorem test_decode_barrier : decode 0x892A5B08 0 = .ok (.bwait 9 10 11 1) := rfl
theorem test_decode_float : decode 0x902218C0 0 = .ok (.ffma 1 2 3 0) := rfl
theorem test_decode_li64 : decode 0xFC03C000 0x12345678 = .ok (.li64 7 true 0x12345678) := rfl
theorem test_decode_refuses : (decode 0 0).toOption = none ∧ (decode 0x04642818 0).toOption = none ∧ (decode 0x7C640007 0).toOption = none := by
  decide +kernel

/-! ### Steps of one instruction -/

/-- 09 R301: ADD wraps modulo 2^64. -/
theorem test_add_wraps : run (.add 3 4 5) (start [(4, 0xFFFFFFFFFFFFFFFF), (5, 2)]) (fun t => t.g 3 = 1 ∧ t.me.pc = 0x01000004) = true := by
  decide +kernel
/-- 09 R301: a source that is also the destination; g0 discards. -/
theorem test_sub_self : run (.sub 4 4 4) (start [(4, 7)]) (fun t => t.g 4 = 0) = true ∧ run (.addi 0 0 5) (start []) (fun t => t.g 0 = 0) = true := by
  decide +kernel
/-- 09 R301: DIV of the least number by -1; REM of it is 0; DIVU by 0 is all ones. -/
theorem test_div_corners : run (.div 3 4 5) (start [(4, 0x8000000000000000), (5, 0xFFFFFFFFFFFFFFFF)]) (fun t => t.g 3 = 0x8000000000000000) = true ∧
    run (.rem 3 4 5) (start [(4, 0x8000000000000000), (5, 0xFFFFFFFFFFFFFFFF)]) (fun t => t.g 3 = 0) = true ∧
    run (.divu 3 4 0) (start [(4, 9)]) (fun t => t.g 3 = 0xFFFFFFFFFFFFFFFF) = true := by decide +kernel
/-- 09 R301: the shift amount is y[5:0]; SRA copies the sign. -/
theorem test_sra_amount : run (.sra 3 4 5) (start [(4, 0x8000000000000000), (5, 0x7F)]) (fun t => t.g 3 = 0xFFFFFFFFFFFFFFFF) = true := by
  decide +kernel
/-- 09 R301: CLZ of 0 is 64, MULHU of all ones squared is all ones but bit 0. -/
theorem test_counts : run (.clz 3 0) (start []) (fun t => t.g 3 = 64) = true ∧
    run (.mulhu 3 4 4) (start [(4, 0xFFFFFFFFFFFFFFFF)]) (fun t => t.g 3 = 0xFFFFFFFFFFFFFFFE) = true := by decide +kernel
/-- 09 R302: LI64 sign-extends; with H it leaves the low half. -/
theorem test_li64 : run (.li64 3 false 0x80000000) (start []) (fun t => t.g 3 = 0xFFFFFFFF80000000 ∧ t.me.pc = 0x01000008) = true ∧
    run (.li64 3 true 7) (start [(3, 0x123456789)]) (fun t => t.g 3 = 0x723456789) = true := by decide +kernel
/-- 09 R308: JALR reads g[a] before it writes g[d]. -/
theorem test_jalr : run (.jalr 4 4 4) (start [(4, 0x01000100)]) (fun t => t.me.pc = 0x01000104 ∧ t.g 4 = 0x01000004) = true := by decide +kernel
/-- 09 R303, 00 R4: a byte stored and read back with its sign. -/
theorem test_store_load : run (.stb 4 5 0) (start [(4, 0x01000103), (5, 0x1FF)]) (fun t =>
    memRead t.dev.mem (t.dev.scratchKeyOf 0 0x103) = 0xFF ∧ run (.ldb 6 4 0) t (fun u => u.g 6 = 0xFFFFFFFFFFFFFFFF)) = true := by decide +kernel
/-- 09 R305: AMO.MAX is signed, AMO.MAXU is not; both answer the old value. -/
theorem test_amo : run (.amoMax 3 4 5 0 0 true) (start [(4, 0x01000100), (5, 0xFFFFFFFFFFFFFFFF)]) (fun t => t.g 3 = 0 ∧
      memRead t.dev.mem (t.dev.scratchKeyOf 0 0x100) = 0) = true ∧
    run (.amoMaxu 3 4 5 0 0 true) (start [(4, 0x01000100), (5, 0xFFFFFFFFFFFFFFFF)]) (fun t => t.g 3 = 0 ∧
      memRead t.dev.mem (t.dev.scratchKeyOf 0 0x100) = 0xFF) = true := by decide +kernel
/-- 04 R138, R141: a PUT fills its word, a second traps with PRESENCE_DOUBLE_PUT (0x06). -/
theorem test_put_twice : run (.put 4 5 0) (start [(4, 0x01000100), (5, 9)]) (fun t => run (.prb 6 4) t (fun u => u.g 6 = 1) &&
    run (.put 4 5 0) t (fun u => u.me.trapCause = 0x06 ∧ u.me.trapVal = 0x01000100)) = true := by decide +kernel
/-- 09 R298, R300: TRAP enters at TRAPVEC with the next instruction saved; RTE comes back. -/
theorem test_trap_rte : run (.trap 0x21) (withMe (fun st => { st with trapVec := 0x400, ie := true, priv := false }) (start [])) (fun t =>
    t.me.pc = 0x1000 ∧ t.me.trapCause = 0x10 ∧ t.me.trapVal = 0x21 ∧ t.me.priv = true ∧ t.me.ie = false ∧
    run .rte t (fun u => u.me.pc = 0x01000004 ∧ u.me.priv = false ∧ u.me.ie = true) = true) = true := by decide +kernel
/-- 09 R320: 1.0 + 1.0 is 2.0; 1.0 / 0 sets DZ (bit 1). -/
theorem test_float : run (.fadd 1 2 2 0) (withMe (fun st => st.setF 2 0x3F800000) (start [])) (fun t => t.me.getF 1 = 0x40000000) = true ∧
    run (.fdiv 1 2 3 0) (withMe (fun st => st.setF 2 0x3F800000) (start [])) (fun t => t.me.getF 1 = 0x7F800000 ∧
      fpByte (t.dev.cl 0).fpFlags 4 = 2) = true := by decide +kernel
/-- A step fetches, decodes and executes the word placed: ADDI g3, g0, 5. -/
theorem test_step_runs : (match step (State.reset.withFetchWord 32 0x08600005) with
    | .next t => decide (t.g 3 = 5 ∧ t.me.pc = 0x01000004)
    | _ => false) = true := by decide +kernel
/-- 14 R425: a word that decodes to nothing traps with ILLEGAL (0x01), TRAPVAL the word. -/
theorem test_step_illegal : (match step (State.reset.withFetchWord 32 0x94000001) with
    | .next t => decide (t.me.trapCause = 0x01 ∧ t.me.trapVal = 0x94000001 ∧ t.me.trapPc = 0x01000000)
    | _ => false) = true := by decide +kernel
/-- 01 R32: a load through a window with PTROOT.EN = 0 traps with PAGE_FAULT (0x03), SUB 1. -/
theorem test_not_present : run (.ldd 3 4 0) (withMe (fun st => { st with ptEn := false }) (paged (start [(4, 0x10000000)])))
    (fun t => t.me.trapCause = 0x03 ∧ t.me.trapSub = 1 ∧ t.me.trapVal = 0x10000000) = true := by decide +kernel
/-- 04 R123: a store through a page waits in the buffer, and the strand's own load sees it. -/
theorem test_buffered_store : run (.std 4 5 0) (paged (start [(4, 0x10000040), (5, 0x1122)])) (fun t => (t.dev.cl 0).buffer.length = 1 ∧
    t.dev.mem = [] ∧ run (.ldd 6 4 0) t (fun u => u.g 6 = 0x1122) = true) = true := by decide +kernel

/-- 03 R102: the block cipher of AES-XTS-256 with a 256-bit key, forward and backward; the block is the example of FIPS 197, C.3. -/
theorem test_aes_block : let ks := roundKeys (List.range 32)
    let ct := [0x8E, 0xA2, 0xB7, 0xCA, 0x51, 0x67, 0x45, 0xBF, 0xEA, 0xFC, 0x49, 0x90, 0x4B, 0x49, 0x60, 0x89]
    blockSeal ks ((List.range 16).map (· * 0x11)) = ct ∧ blockOpen ks ct = (List.range 16).map (· * 0x11) := by decide +kernel

/-! ### Witnesses: states and operands that meet the hypotheses of the statements -/

/-- Registers 4 and 5 name LOCAL offsets 0x100 and 0x200. -/
def sLoc : State := start [(4, 0x01000100), (5, 0x01000200), (6, 3)]
/-- The same at the last word of the last bank. -/
def sEnd : State := start [(4, 0x01BFFFF8), (5, 0x01BFFFF8)]

theorem bank_ok : sLoc.dev.bankCheck (sLoc.dev.partOf 0) 0 0x100 = none := by decide +kernel
theorem bank_end : sEnd.dev.bankCheck (sEnd.dev.partOf 0) 0 0xBFFFF8 = none := by decide +kernel
theorem loc_resolves (k : AccKind) : resolve sLoc.ctx (sLoc.g 4) k sLoc.dev = (.ok (.scratch 0 0x100), sLoc.dev) :=
  resolve_local (x := sLoc.ctx) (off := 0x100) (by decide +kernel) (localTarget_scratch (by decide))
theorem end_resolves (k : AccKind) : resolve sEnd.ctx (sEnd.g 4) k sEnd.dev = (.ok (.scratch 0 0xBFFFF8), sEnd.dev) :=
  resolve_local (x := sEnd.ctx) (off := 0xBFFFF8) (by decide +kernel) (localTarget_scratch (by decide))

/-- Jumps: a target that is a multiple of 4 and one that is not. -/
theorem witness_Jumps : (sLoc.g 4 + BitVec.ofInt 64 (8 : BitVec 16).toInt).toNat % 4 = 0 ∧
    (sLoc.g 4 + BitVec.ofInt 64 (0xFFFF : BitVec 16).toInt).toNat % 4 ≠ 0 := by decide +kernel
theorem witness_ReturnFromTrap : sLoc.me.priv = true ∧ (user sLoc).me.priv = false := by decide +kernel
theorem witness_SystemRegisterRead : sysRegOf 0x00 = some .status ∧ sysRegOf 0x51 = some .poisoncnt ∧ sysRegOf 0x76 = some (.aplimit 5) ∧
    sysRegOf 0x51 = some .poisoncnt ∧ sLoc.me.priv = true ∧ SysReg.tscratch.user = false ∧ SysReg.fpmode.user = true := by decide +kernel
theorem witness_SystemRegisterTraps : sysRegOf 0x77 = none ∧ sysRegOf (256 * 31 + 255) = none ∧ sysRegOf 0x05 = some .tscratch ∧
    (user sLoc).me.priv = false ∧ SysReg.tscratch.user = false := by decide +kernel
/-- Every register that SWR writes is reached, by a supervisor. -/
theorem witness_SystemRegisterWrite : ∀ n ∈ [0x00, 0x01, 0x02, 0x03, 0x04, 0x05, 0x06, 0x07, 0x10, 0x11, 0x20, 0x21, 0x22, 0x23, 0x30, 0x40, 0x41,
    0x50, 0x51, 0x52, 0x53, 0x54, 0x61, 0x66, 0x71, 0x76], (sysRegOf n).isSome = true ∧ sLoc.me.priv = true := by decide +kernel
theorem witness_ScratchpadLoads : (∀ n ∈ [1, 2, 4, 8], (sEnd.g 4).toNat % n = 0) ∧
    resolve sEnd.ctx (sEnd.g 4) .read sEnd.dev = (.ok (.scratch 0 0xBFFFF8), sEnd.dev) ∧
    sEnd.dev.bankCheck (sEnd.dev.partOf 0) 0 0xBFFFF8 = none ∧ smem sEnd.dev.poison (sEnd.dev.scratchKeyOf 0 0xBFFFF8 / 64) = false ∧
    sEnd.dev.signalWaits sEnd.ctx (.scratch 0 0xBFFFF8) = false :=
  ⟨by decide +kernel, end_resolves _, bank_end, by decide +kernel, by decide +kernel⟩
/-- Register 4 names GLOBAL offset 0x40, mapped to class 0 offset 0x40. -/
def sPage : State := paged (start [(4, 0x10000040), (5, 7)])
theorem witness_TranslatedLoads : (sPage.g 4).toNat % 8 = 0 ∧ ∃ t d1, resolve sPage.ctx (sPage.g 4) .read sPage.dev = (.ok t, d1) ∧
    (decide (t = .phys 0 0x40 0 false) && okIs (readT sPage.ctx (sPage.g 4) t 8 false d1).1 (List.replicate 8 0, false)) = true :=
  ⟨by decide +kernel, ok_then (by decide +kernel)⟩
theorem witness_AccessesLeaveClusters : (Target.scratch 0 0x100) ≠ .peer 0 0 := by decide
theorem witness_ScratchpadStores : (∀ n ∈ [1, 2, 4, 8], (sEnd.g 4).toNat % n = 0) ∧
    resolve sEnd.ctx (sEnd.g 4) .write sEnd.dev = (.ok (.scratch 0 0xBFFFF8), sEnd.dev) ∧
    sEnd.dev.bankCheck (sEnd.dev.partOf 0) 0 0xBFFFF8 = none ∧ Memory.wf sEnd.dev.mem = true ∧
    sEnd.dev.signalWaits sEnd.ctx (.scratch 0 0xBFFFF8) = false ∧ sEnd.dev.remoteNow = [] ∧
    sEnd.dev.scratchKeyOf 0 0xBFFFF8 ∈ ({ sEnd.dev with remoteNow := [sEnd.dev.scratchKeyOf 0 0xBFFFF8] } : Dev).remoteNow :=
  ⟨by decide +kernel, end_resolves _, bank_end, by decide +kernel, by decide +kernel, by decide +kernel, by decide +kernel⟩
/-- A release at SYSTEM scope with an empty buffer goes through (so the stores of STL at every scope have a state). -/
theorem witness_ScratchpadStores_release : ∃ u d, releaseBy 0 0 5 sEnd.dev = (.ok u, d) ∧
    (decide (d.bankCheck (d.partOf 0) 0 0xBFFFF8 = none) && Memory.wf d.mem && !d.signalWaits sEnd.ctx (.scratch 0 0xBFFFF8)) = true :=
  ok_then (by decide +kernel)
theorem witness_TranslatedStores : (sPage.g 4).toNat % 8 = 0 ∧ ∃ t d1, resolve sPage.ctx (sPage.g 4) .write sPage.dev = (.ok t, d1) ∧
    (decide (t = .phys 0 0x40 0 false) && (match releaseBy 0 0 5 d1 with
      | (.ok _, d2) => !d2.signalWaits sPage.ctx (.phys 0 0x40 0 false)
      | _ => false)) = true := ⟨by decide +kernel, ok_then (by decide +kernel)⟩
/-- A signal operation of strand 0 that waits. -/
def sSigOp : State := withCl (fun cl => { cl with signals := [⟨0, 0x01000100, .scratch 0 0x100, 1, false, [7], none⟩] }) sLoc
theorem witness_ReleaseDrainsBuffer : (∀ r ∈ ((sLoc.dev.drain 0).cl 0).reqs, r.kind ≠ .store) ∧ (sLoc.dev.cl 0).buffer = [] ∧ NoSignals sLoc.dev 0 0 ∧
    ¬NoSignals sSigOp.dev 0 0 := by
  refine ⟨by decide +kernel, by decide +kernel, ?_, ?_⟩ <;> unfold NoSignals <;> decide +kernel

/-- The checks of an access (01 R14, R17, R30; 04 R137; 02 R61), each at a state. -/
theorem witness_AccessTraps : (sLoc.g 6 + 0).toNat % 8 ≠ 0 ∧
    (∃ d, resolve (start [(4, 8)]).ctx 8 .read (start [(4, 8)]).dev = (.error .aperture, d)) ∧
    (∃ d, resolve (withMe (fun st => { st with ptEn := false }) sPage).ctx (sPage.g 4) .read (withMe (fun st => { st with ptEn := false }) sPage).dev =
      (.error (.walk 1 3), d)) ∧
    (∃ d, resolve sLoc.ctx 0x01C00000 .read sLoc.dev = (.ok (.node 0 0 0), d)) ∧
    (∃ d, resolve sLoc.ctx 0x01C00000 .write sLoc.dev = (.ok (.node 0 0 0), d)) :=
  ⟨by decide +kernel, err_of (by decide +kernel), err_of (by decide +kernel), ok_of (by decide +kernel), ok_of (by decide +kernel)⟩
/-- MMIO window at 0x2000_0000, offsets of the cluster's own block. -/
def sMmio : State := withCl (fun cl => { cl with ap := { base := cl.ap.base.set 5 0x20, limit := cl.ap.limit.set 5 0x20 } }) (start [(4, 0x20000000)])
theorem witness_AccessTraps_mmio : (∃ d, resolve sMmio.ctx (sMmio.g 4) .read sMmio.dev = (.ok (.mmio 0), d)) ∧
    (∃ d, resolve (user sMmio).ctx (sMmio.g 4) .read (user sMmio).dev = (.error .protection, d)) :=
  ⟨ok_of (by decide +kernel), err_of (by decide +kernel)⟩
/-- The bank of LOCAL offset 0x100 BUSY, or of another partition. -/
def sBank (busy : Bool) : State := withCl (fun cl => { cl with banks := Vector.replicate 32 ⟨0, busy, if busy then 0 else 1, 0, 0⟩ }) sLoc
theorem witness_AccessTraps_bank : (∃ d, resolve (sBank true).ctx ((sBank true).g 4) .write (sBank true).dev = (.ok (.scratch 0 0x100), d)) ∧
    (sBank true).dev.bankCheck ((sBank true).dev.partOf 0) 0 0x100 = some .bankMoved ∧
    (∃ d, resolve (sBank false).ctx ((sBank false).g 4) .write (sBank false).dev = (.ok (.scratch 0 0x100), d)) ∧
    (sBank false).dev.bankCheck ((sBank false).dev.partOf 0) 0 0x100 = some .protection ∧
    (sBank true).dev.signalWaits (sBank true).ctx (.scratch 0 0x100) = false ∧ (sBank false).dev.signalWaits (sBank false).ctx (.scratch 0 0x100) = false :=
  ⟨ok_of (by decide +kernel), by decide +kernel, ok_of (by decide +kernel), by decide +kernel, by decide +kernel, by decide +kernel⟩
/-- LOCAL offset 0x100 poisoned. -/
theorem witness_AccessTraps_poison : let s := { sLoc with dev := { sLoc.dev with poison := [sLoc.dev.scratchKeyOf 0 0x100 / 64] } }
    (∃ d, resolve s.ctx (s.g 4) .read s.dev = (.ok (.scratch 0 0x100), d)) ∧ s.dev.bankCheck (s.dev.partOf 0) 0 0x100 = none ∧
    smem s.dev.poison (s.dev.scratchKeyOf 0 0x100 / 64) = true ∧ s.dev.signalWaits s.ctx (.scratch 0 0x100) = false :=
  ⟨ok_of (by decide +kernel), by decide +kernel, by decide +kernel, by decide +kernel⟩
/-- PEER window at 0x1_0000_0000; member 0 is partition 0 itself, whose exports are off. -/
def sPeer : State :=
  let s := withCl (fun cl => { cl with ap := { base := cl.ap.base.set 4 0x100, limit := cl.ap.limit.set 4 0x1FFFF } }) (start [(4, 0x100000000)])
  { s with dev := s.dev.modPart 0 (fun p => { p with state := .ready, pf := { p.pf with domMap := 1 } }) }
theorem witness_RefusedPeerAccesses : (sPeer.g 4).toNat % 8 = 0 ∧
    (∃ d, resolve sPeer.ctx (sPeer.g 4) .read sPeer.dev = (.error .refused, d)) ∧
    (∃ d, resolve sPeer.ctx (sPeer.g 4) .write sPeer.dev = (.error .refused, d)) :=
  ⟨by decide +kernel, err_of (by decide +kernel), err_of (by decide +kernel)⟩
theorem witness_RegisterAccesses : (sMmio.g 4).toNat % 8 = 0 ∧ resolve sMmio.ctx (sMmio.g 4) .read sMmio.dev = (.ok (.mmio 0), sMmio.dev) ∧
    resolve sMmio.ctx (sMmio.g 4) .write sMmio.dev = (.ok (.mmio 0), sMmio.dev) ∧ 0 % 0x10000 ≠ 0x4028 := by
  refine ⟨by decide +kernel, resolve_mmio (x := sMmio.ctx) ?_ ?_ ?_ ?_, resolve_mmio (x := sMmio.ctx) ?_ ?_ ?_ ?_, by decide⟩ <;> decide +kernel
theorem sLoc_released : Released sLoc.dev 0 0 5 := by unfold Released NoSignals Quiet; decide +kernel
theorem witness_ScratchpadAtomics : (sLoc.g 4).toNat % 8 = 0 ∧ resolve sLoc.ctx (sLoc.g 4) .write sLoc.dev = (.ok (.scratch 0 0x100), sLoc.dev) ∧
    sLoc.dev.bankCheck (sLoc.dev.partOf 0) 0 0x100 = none ∧ smem sLoc.dev.poison (sLoc.dev.scratchKeyOf 0 0x100 / 64) = false ∧
    Memory.wf sLoc.dev.mem = true ∧ Released sLoc.dev 0 0 5 ∧ sLoc.dev.signalWaits sLoc.ctx (.scratch 0 0x100) = false :=
  ⟨by decide +kernel, loc_resolves _, bank_ok, by decide +kernel, by decide +kernel, sLoc_released, by decide +kernel⟩
/-- AMO.ADD at a home, acquire and release, SYSTEM scope: every stage goes through. -/
theorem witness_HomeAtomics : (sPage.g 4).toNat % 8 = 0 ∧ ∃ t d1, resolve sPage.ctx (sPage.g 4) .write sPage.dev = (.ok t, d1) ∧
    (match readT sPage.ctx (sPage.g 4) t 8 false d1 with
      | (.ok (_, po), d2) => !po && (match releaseBy 0 0 5 d2 with
        | (.ok _, d3) => (match rmwT sPage.ctx t 8 (fun x => some (amoFn .add 8 x 7)) false none d3 with
          | (.ok (old, _), _) => decide (old = 0 ∧ t = .phys 0 0x40 0 false)
          | _ => false)
        | _ => false)
      | _ => false) = true := ⟨by decide +kernel, ok_then (by decide +kernel)⟩
/-- LOCAL offset 0x100 is full. -/
def sFull : State := { sLoc with dev := { sLoc.dev with full := [sLoc.dev.scratchKeyOf 0 0x100 / 8] } }
theorem witness_PresenceOperations : presenceTarget sLoc.ctx (sLoc.g 4) sLoc.dev = (.ok (0, 0x100), sLoc.dev) ∧
    presenceTarget sFull.ctx (sFull.g 4) sFull.dev = (.ok (0, 0x100), sFull.dev) ∧ Memory.wf sFull.dev.mem = true ∧
    smem sLoc.dev.full (sLoc.dev.scratchKeyOf 0 0x100 / 8) = false ∧ smem sFull.dev.full (sFull.dev.scratchKeyOf 0 0x100 / 8) = true ∧
    Released sFull.dev 0 0 5 ∧ (sLoc.dev.cl 0).waits = [] ∧ smem sFull.dev.poison (sFull.dev.scratchKeyOf 0 0x100 / 64) = false ∧
    smem ({ sFull.dev with poison := [sFull.dev.scratchKeyOf 0 0x100 / 64] } : Dev).poison (sFull.dev.scratchKeyOf 0 0x100 / 64) = true := by
  refine ⟨presenceTarget_local (x := sLoc.ctx) ?_ ?_ ?_ ?_, presenceTarget_local (x := sFull.ctx) ?_ ?_ ?_ ?_, ?_, ?_, ?_, sLoc_released, ?_, ?_, ?_⟩ <;>
    decide +kernel
/-- A barrier at LOCAL offset 0x100: ARR = 1, EXP = 1. -/
def sBar : State := withBytes (sLoc.dev.scratchKeyOf 0 0x100) [0, 0, 0, 0, 0, 0, 1, 0, 1] sLoc
theorem witness_BarrierSteps : barrierTarget sLoc.ctx (sLoc.g 4) sLoc.dev = (.ok (sLoc.dev.scratchKeyOf 0 0x100), sLoc.dev) ∧
    barrierTarget sBar.ctx (sBar.g 4) sBar.dev = (.ok (sBar.dev.scratchKeyOf 0 0x100), sBar.dev) ∧ Memory.wf sBar.dev.mem = true ∧
    Released sBar.dev 0 0 5 ∧ leNat (memReadN sLoc.dev.mem (sLoc.dev.scratchKeyOf 0 0x100) 8) / 2 ^ 48 % 2 ^ 15 = 0 ∧
    leNat (memReadN sBar.dev.mem (sBar.dev.scratchKeyOf 0 0x100) 8) / 2 ^ 48 % 2 ^ 15 = 1 ∧
    leNat (memReadN sBar.dev.mem (sBar.dev.scratchKeyOf 0 0x100) 8) / 2 ^ 63 % 2 ≠ (sBar.g 6).toNat % 2 ∧
    leNat (memReadN sBar.dev.mem (sBar.dev.scratchKeyOf 0 0x100) 8) / 2 ^ 63 % 2 = (sBar.g 4).toNat % 2 := by
  refine ⟨barrierTarget_local (x := sLoc.ctx) ?_ ?_ ?_ ?_, barrierTarget_local (x := sBar.ctx) ?_ ?_ ?_ ?_, ?_, by unfold Released NoSignals Quiet; decide +kernel, ?_, ?_, ?_, ?_⟩ <;>
    decide +kernel
/-- A monitor of the strand, triggered or not, and a report for it. -/
def sMon (trig : Bool) : State := { sLoc with dev := { sLoc.dev with monitors := [⟨0, 0, 5, trig⟩] } }
def sRep : State := { sLoc with dev := { sLoc.dev with reports := [⟨.peer 0 0, 0, 0, .protection, 0xFF, 0⟩] } }
/-- Register 4 names an export of member 5 of the domain, on another device. -/
def sFar : State :=
  let s := withCl (fun cl => { cl with ap := { base := cl.ap.base.set 4 0x100, limit := cl.ap.limit.set 4 0x6FFFF } }) (start [(4, 0x50100000000)])
  { s with dev := s.dev.modPart 0 (fun p => { p with state := .ready, pf := { p.pf with domMap := 32 } }) }
theorem witness_FencesAndWaits_peer : (∃ d, resolve sFar.ctx (sFar.g 4) .read sFar.dev = (.ok (.peer 5 0), d)) ∧
    (match resolve sFar.ctx (sFar.g 4) .read sFar.dev with | (_, d) => decide (d = sFar.dev)) = true := ⟨ok_of (by decide +kernel), by decide +kernel⟩
theorem witness_FencesAndWaits : Released sLoc.dev 0 0 5 ∧ resolve sLoc.ctx (sLoc.g 4) .read sLoc.dev = (.ok (.scratch 0 0x100), sLoc.dev) ∧
    sLoc.dev.bankCheck (sLoc.dev.partOf 0) 0 0x100 = none ∧ (∀ m ∈ (sMon true).dev.monitors, m.triggered = true) ∧
    (∃ m ∈ (sMon false).dev.monitors, m.c = 0 ∧ m.k = 0) ∧ (∀ m ∈ (sMon false).dev.monitors, m.triggered = false) ∧
    (sMon false).dev.pending 0 0 = none ∧ (sRep.dev.pending 0 0).isSome = true ∧ (sLoc.ctx.ap.decode (sLoc.g 4).toNat).map (·.1) = some 1 :=
  ⟨sLoc_released, loc_resolves _, bank_ok, by decide +kernel, by decide +kernel, by decide +kernel, by decide +kernel, by decide +kernel, by decide +kernel⟩
theorem witness_ApertureConversions : (6 : BitVec 3).toNat < 7 ∧ sLoc.me.priv = true ∧ (user sLoc).me.priv = false ∧ (3 : BitVec 3).toNat ≠ 6 := by
  decide +kernel
/-- f2 = 1.0, f3 = 0, f4 = infinity, f5 = a NaN, f6 = -1.0, f7 = -infinity. -/
def sF : State := withMe (fun st => ((((((st.setF 2 0x3F800000).setF 4 0x7F800000).setF 5 0x7FC00001).setF 6 0xBF800000).setF 7 0xFF800000))) sLoc
def sFT : State := withCl (fun cl => { cl with fpTrapEn := 0x1F00000000 }) sF
theorem witness_FloatResults : (6 : BitVec 3).toNat < 7 ∧ BitVec.ofNat 5 (fpByte (sF.dev.cl 0).fpTrapEn 4) = 0 := by decide +kernel
/-- 1.0 / 0 raises DZ, which is enabled. -/
theorem witness_FloatTraps : (0 : BitVec 3).toNat < 7 ∧ BitVec.ofNat 5 (fpByte (sFT.dev.cl 0).fpTrapEn 4) &&&
    (fvDiv .f32 ⟨0, false, bit sFT.fpMode 3, lfsrStep sFT.me.slfsr⟩ (sFT.fv 2) (sFT.fv 3)).2 ≠ 0 := by decide +kernel
theorem witness_FloatSpecialCases : (sF.dev.cl 0).fpTrapEn = 0 ∧ sF.fv 5 = .nan ∧ sF.fv 4 = .inf false ∧ sF.fv 7 = .inf true ∧
    (match sF.fv 3 with | .num false 0 _ => true | _ => false) = true ∧ (match sF.fv 2 with | .num false (_ + 1) _ => true | _ => false) = true ∧
    (match sF.fv 6 with | .num true (_ + 1) _ => true | _ => false) = true := by decide +kernel

/-! ### Fabric, engine and message instructions -/

/-- A header of an image of one cluster with no records, 64 bytes, LOADID 0x1122 (07 R242), at LOCAL offset 0x100. -/
def header : List Byte := [0x46, 0x4D, 0x4E, 0x4C, 1, 0, 1, 0, 64, 0, 0, 0, 0, 0, 0, 0, 0x22, 0x11]
/-- Register 4 names the image, register 5 the own cluster (127) as base; a region may wait for a switch. -/
def sLoad (waits : Bool) : State :=
  let s := withBytes ((start []).dev.scratchKeyOf 0 0x100) header (start [(4, 0x01000100), (5, 127)])
  if waits then withCl (fun cl => cl.modReg 0 (fun r => { r with token := some (1, 1) })) s else s
theorem witness_FabricLoad : ∀ waits ∈ [false, true], imageAddrM (sLoad waits).ctx ((sLoad waits).g 4) (sLoad waits).dev = (.ok (), (sLoad waits).dev) ∧
    ∃ hd d1, imageM (sLoad waits).ctx ((sLoad waits).g 4) 64 ((sLoad waits).dev.enterLoad 0 0 ((List.finRange 72).filter (fun h => decide (0 ≤ h.val)))) = (.ok hd, d1) ∧
    (headerOk hd && (match ((List.range (leNat ((hd.drop 6).take 2))).mapM
        (fun i => clusterM 0 (if 0 + i = 127 then 126 else 0 + i) ((sLoad waits).g 5)) : M (List ClusterId)) d1 with
      | (.ok cs, d2) => !d2.loading cs && d2.loadQ.all (fun e => e.of 0 0) && (match loadTurnM 0 0 cs d2 with
        | (.ok _, d2) => (match imageM (sLoad waits).ctx ((sLoad waits).g 4) (headerLength hd) d2 with
        | (.ok img, d3) => (match parseLoad img with
          | .ok l => okIs (loadChecksM 0 l 0 cs true d3).1 () && decide (cs = [0] ∧ l.loadId = 0x1122) &&
              decide ((((cs.zipIdx.foldl (fun d i => d.modCl i.1 (fun cl => cl.beginLoad l (l.of i.2))) (d3.acquire 0 0)).switching cs).isEmpty) = !waits)
          | .error _ => false)
        | _ => false)
        | _ => false)
      | _ => false)) = true := by
  intro w hw
  have hw : w = false ∨ w = true := by cases w <;> simp
  rcases hw with rfl | rfl
  · exact ⟨imageAddrM_local (x := (sLoad false).ctx) (o := 0x100) (by decide +kernel) (by decide +kernel), ok_then (by decide +kernel)⟩
  · exact ⟨imageAddrM_local (x := (sLoad true).ctx) (o := 0x100) (by decide +kernel) (by decide +kernel), ok_then (by decide +kernel)⟩

/-- While strand 1 still loads cluster 0, another load of it waits. -/
theorem witness_FabricLoad_loading :
    let l : FabLoad := ⟨1, 5, 0, []⟩
    let s := withCl (fun cl => { cl with strands := vmod cl.strands 1 (fun st => { st with state := .wait (.sync 3 ⟨l, 0, none, []⟩ [0]) false }) }) (sLoad false)
    s.dev.loading [0] = true ∧ errIs (loadTurnM 0 0 [0] s.dev).1 .again = true := by decide +kernel

/-- Kernel 0 of region 0 of cluster 0, with one slot in a wheel of one and drain scope 0; selector 0x7F0 in register 4. -/
def kcfg : KernCfg := ⟨1, 0, 1, 0, 0, 0⟩
def sKern (st : RState) (kst was : KState) : State :=
  withCl (fun cl => cl.modReg 0 (fun r => { r with
    configured := true
    st := st
    kernels := vset r.kernels 0 { Kernel.reset with cfg := some kcfg, st := kst, was := was } })) (start [(4, 0x7F0), (5, 0), (6, 0x01000100)])
theorem kern_selects : (∀ x : State, x = sKern .idle .loaded .loaded ∨ x = sKern .running .retired .loaded ∨ x = sKern .stopped .stopped .running →
    selectorM 0 (x.g 4) x.dev = (.ok (0, 0, 0), x.dev)) := by
  rintro x (rfl | rfl | rfl)
  · exact selectorM_own (sel := (sKern .idle .loaded .loaded).g 4) (by decide +kernel) (by decide +kernel) (by decide +kernel) (by decide +kernel)
  · exact selectorM_own (sel := (sKern .running .retired .loaded).g 4) (by decide +kernel) (by decide +kernel) (by decide +kernel) (by decide +kernel)
  · exact selectorM_own (sel := (sKern .stopped .stopped .running).g 4) (by decide +kernel) (by decide +kernel) (by decide +kernel) (by decide +kernel)
theorem witness_KernelRun : ∀ s ∈ [sKern .idle .loaded .loaded, sKern .running .retired .loaded], s.me.instance_ = none ∧
    (vget (s.dev.region 0 0).kernels 0).cfg = some kcfg ∧
    ((vget (s.dev.region 0 0).kernels 0).st = .loaded ∨ (vget (s.dev.region 0 0).kernels 0).st = .retired) ∧
    (s.dev.region 0 0).st ≠ .stopped ∧ (s.dev.region 0 0).st ≠ .faulted ∧ 1 ≤ s.me.roundLen.toNat ∧ s.me.roundLen.toNat ≤ 65536 ∧ kcfg.rlen = 0 ∧
    (s.dev.region 0 0).slotConflict 0 = false ∧ (s.dev.cl 0).buffer = [] ∧ (s.dev.region 0 0).w = kcfg.wm1 + 1 ∧ (s.dev.region 0 0).roundLen = s.me.roundLen.toNat ∧ (s.dev.cl 0).krunFits 0 0 (kcfg.wm1 + 1) 1 = true := by
  decide +kernel
theorem witness_StopSaveRestoreStatus_stop :
    let s0 := sKern .idle .loaded .loaded
    let s1 := sKern .running .running .loaded
    s0.me.instance_ = none ∧ (s0.dev.region 0 0).configured = true ∧ s0.me.priv = true ∧ (s0.dev.region 0 0).ctxs = [] ∧
    (s0.dev.region 0 0).busy = false ∧ (s0.dev.region 0 0).st ≠ .faulted ∧ (s0.dev.region 0 0).st ≠ .stopping ∧ (s1.dev.region 0 0).busy = true ∧ (s1.dev.region 0 0).st = .running ∧
    s1.dev.gangIds 0 0 = [] ∧ (user s0).me.priv = false ∧ (vget (s0.dev.region 0 0).kernels 0).cfg.isSome = true := by decide +kernel
theorem witness_StopSaveRestoreStatus_image :
    let s := sKern .stopped .stopped .running
    (s.dev.region 0 0).st = .stopped ∧ s.me.priv = true ∧ s.g 5 = 0 ∧ (s.dev.region 0 0).tied = [] ∧ (s.dev.region 0 0).tiedCmds = [] ∧
    (∀ k ∈ (s.dev.region 0 0).kernels.toList, k.recorded ≠ .retiring) ∧
    (∃ k ∈ (s.dev.region 0 0).kernels.toList, k.cfg.isSome = true ∧ k.recorded ≠ .loaded ∧ k.recorded ≠ .retired) ∧
    (∀ k ∈ (s.dev.region 0 0).kernels.toList, k.recorded ≠ .starting) ∧
    imageAddrM s.ctx (s.g 6) s.dev = (.ok (), s.dev) ∧
    (∃ u d1, uaM (writeBytes s.ctx (s.g 6) (s.dev.weirImage 0 0) false) s.dev = (.ok u, d1) ∧ okIs (release 0 3 d1).1 () = true) := by
  refine ⟨by decide +kernel, by decide +kernel, by decide +kernel, by decide +kernel, by decide +kernel, by decide +kernel, by decide +kernel, by decide +kernel,
    imageAddrM_local (o := 0x100) (by decide +kernel) (by decide +kernel), ok_then (by decide +kernel)⟩

/-- A queue of the dispatcher with 64 tokens. -/
def sQ64 : State := { start [(4, 0x01000100)] with dev := (start [(4, 0x01000100)]).dev.modDie 0 (fun x =>
  { x with datas := List.replicate 64 ⟨Vector.replicate 8 0, 0, 0, .strand 0 0, 0⟩ }) }
theorem witness_GraphLaunch : ∀ s ∈ [sLoc, sQ64], ∃ u d1, releaseBy 0 0 3 s.dev = (.ok u, d1) ∧ (match imageM s.ctx (s.g 4) 64 d1 with
    | (.ok bs, d2) => decide (bs.length = 64 ∧ d2.partOf 0 = some 0)
    | _ => false) = true := by
  intro s hs
  have hs : s = sLoc ∨ s = sQ64 := by simpa using hs
  rcases hs with rfl | rfl <;> exact ok_then (by decide +kernel)
theorem witness_GraphLaunch_address : imageAddrM sLoc.ctx (sLoc.g 4) sLoc.dev = (.ok (), sLoc.dev) ∧
    imageAddrM sQ64.ctx (sQ64.g 4) sQ64.dev = (.ok (), sQ64.dev) ∧ 64 ≤ (sQ64.dev.die 0).queueLen 0 :=
  ⟨imageAddrM_local (o := 0x100) (by decide +kernel) (by decide +kernel), imageAddrM_local (o := 0x100) (by decide +kernel) (by decide +kernel),
    by decide +kernel⟩

/-- The full queue of ce0. -/
def sQFull : State := withCl (fun cl => { cl with eng := vset cl.eng 0 { (vget cl.eng 0) with
  cmds := List.replicate 16 (Cmd.fresh (Vector.replicate 8 0) 1 false Ident.reset ⟨0, 0, none⟩ 0 none) } }) (start [(8, 0x01000100)])
theorem witness_EngineQueueInstructions : (0 : BitVec 3).toNat = (0 : QueueIx).val ∧ (28 : GReg).val + 4 ≤ 32 ∧ ((sLoc.g 8).getLsbD 48) = false ∧
    (sLoc.dev.queue 0 0).cmds.length < 16 ∧ 16 ≤ (sQFull.dev.queue 0 0).cmds.length ∧ 32 < (29 : GReg).val + 4 ∧ (sLoc.g 4).toNat % 32 = 0 ∧
    (∃ lo d1, read32 sLoc.ctx 0 (sLoc.g 4) sLoc.dev = (.ok lo, d1) ∧ (!(lo.getD 0 0).getLsbD 48 && decide ((d1.queue 0 0).cmds.length < 16 ∧
      (d1.strand 0 0).ident = sLoc.me.ident)) = true) ∧ (sLoc.g 6).toNat % 32 ≠ 0 ∧ (sQFull.dev.queue 0 0).cmds.length ≤ 16 :=
  ⟨by decide, by decide, by decide +kernel, by decide +kernel, by decide +kernel, by decide, by decide +kernel, ok_then (by decide +kernel),
    by decide +kernel, by decide +kernel⟩

/-- Two words of scratchpad in registers 4 and 5: a signalled store. -/
theorem witness_SignalledStore : (4 : GReg).val < 31 ∧ (6 : GReg).val < 31 ∧ (sLoc.g 4).toNat % 8 = 0 ∧ (sLoc.g (gPlus 4 1)).toNat % 8 = 0 ∧
    resolve sLoc.ctx (sLoc.g 4) .write sLoc.dev = (.ok (.scratch 0 0x100), sLoc.dev) ∧
    resolve sLoc.ctx (sLoc.g (gPlus 4 1)) .write sLoc.dev = (.ok (.scratch 0 0x200), sLoc.dev) ∧
    sLoc.dev.bankCheck (sLoc.dev.partOf 0) 0 0x100 = none ∧ sLoc.dev.bankCheck (sLoc.dev.partOf 0) 0 0x200 = none ∧ Memory.wf sLoc.dev.mem = true ∧
    (sLoc.dev.scratchKeyOf 0 0x200 + 8 ≤ sLoc.dev.scratchKeyOf 0 0x100 ∨ sLoc.dev.scratchKeyOf 0 0x100 + 8 ≤ sLoc.dev.scratchKeyOf 0 0x200) ∧
    Quiet sLoc.dev 0 ∧ (sLoc.dev.cl 0).signals = [] ∧ sLoc.dev.fenceMet = false ∧ sLoc.dev.remoteNow = [] ∧ sLoc.dev.behindFence 0 0 = false ∧
    smem sLoc.dev.full (sLoc.dev.scratchKeyOf 0 0x200 / 8) = false ∧ (sLoc.dev.cl 0).waits = [] ∧
    smem ({ sLoc.dev with full := [sLoc.dev.scratchKeyOf 0 0x200 / 8] } : Dev).full (sLoc.dev.scratchKeyOf 0 0x200 / 8) = true :=
  ⟨by decide, by decide, by decide +kernel, by decide +kernel, loc_resolves _,
    resolve_local (x := sLoc.ctx) (off := 0x200) (by decide +kernel) (localTarget_scratch (by decide)), by decide +kernel, by decide +kernel,
    by decide +kernel, by decide +kernel, sLoc_released.2.2 (by decide), by decide +kernel, by decide +kernel, by decide +kernel, by decide +kernel, by decide +kernel,
    by decide +kernel, by decide +kernel⟩

/-- A message, the queue of cluster 0 with n of them, and strand 0 between attempts to send. -/
def sMsg (n : Nat) : State := withCl (fun cl => { cl with inbox := List.replicate n ⟨Vector.replicate 4 7, none⟩ }) (start [(4, 0)])
def sTries (n tries : Nat) : State := withMe (fun st => { st with state := .wait (.msgsend tries 0 3 0 (Vector.replicate 4 7)) false }) (sMsg n)
theorem witness_Messages : ((sMsg 63).dev.cl 0).spillUsed = 0 ∧ ((sMsg 63).dev.cl 0).inbox.length < 64 ∧ ((sMsg 64).dev.cl 0).inbox.length = 64 ∧
    ((sMsg 64).dev.cl 0).spillUsed = 0 ∧ ((sMsg 64).dev.cl 0).spillEntries = 0 ∧ ((sMsg 64).dev.cl 0).spillTrapEn = false ∧
    ((sMsg 64).g 4).toNat % 128 = (0 : ClusterId).val ∧ (sMsg 64).dev.partOf 0 = some 0 ∧ (29 : GReg).val < 30 ∧ Released (sMsg 63).dev 0 0 5 ∧ Released (sMsg 64).dev 0 0 5 ∧
    ((sTries 63 3).dev.strand 0 0).state = .wait (.msgsend 3 0 3 0 (Vector.replicate 4 7)) false ∧ 0 ≤ (sTries 63 3).dev.now ∧
    ((sTries 64 15).dev.strand 0 0).state = .wait (.msgsend 15 0 3 0 (Vector.replicate 4 7)) false ∧
    ((sMsg 1).dev.cl 0).inbox = [⟨Vector.replicate 4 7, none⟩] ∧ (28 : GReg).val < 29 ∧ ((sMsg 0).dev.cl 0).inbox = [] := by
  refine ⟨?_, ?_, ?_, ?_, ?_, ?_, ?_, ?_, ?_, by unfold Released NoSignals Quiet; decide +kernel, by unfold Released NoSignals Quiet; decide +kernel, ?_, ?_, ?_, ?_, ?_, ?_⟩ <;> decide +kernel

/-- An outstanding request of strand 0 under tag 9. -/
def sReq (r : Req) (full : Bool) : State :=
  let s := withCl (fun cl => { cl with reqs := [r] }) sLoc
  if full then { s with dev := { s.dev with full := [s.dev.scratchKeyOf 0 0x100 / 8] } } else s
def reqOf (who : Who) (k : ReqKind) : Req :=
  { tag := 9, who := who, kind := k, addr := 0x100000000, first := 0, limit := 0, reissue := none, reply := none, member := 5, port := none, act := some (.read 8) }
def reqLoad : Req := reqOf (.strand 0) (.load 3 8 false)
def reqTake : Req := { reqOf (.strand 0) (.presence true 0 0x100 3) with addr := 0x01000100, limit := 1, reissue := some 0, act := none }
theorem witness_OutstandingRequests :
    let s := sReq reqLoad false
    let u := { sReq reqTake true with dev := { (sReq reqTake true).dev with now := 1 } }
    ((s.dev.cl 0).reqs.find? (fun x => x.tag = 9)) = some reqLoad ∧ reqLoad.who = .strand 0 ∧ reqLoad.kind = .load 3 8 false ∧ reqLoad.act.isSome = true ∧
    reqLoad.reply = none ∧ reqLoad.port = none ∧ s.dev.freePort = none ∧ ((u.dev.cl 0).reqs.find? (fun x => x.tag = 9)) = some reqTake ∧
    reqTake.kind = .presence true 0 0x100 3 ∧ reqTake.reissue = some 0 ∧ 0 ≤ u.dev.now ∧ smem u.dev.full (u.dev.scratchKeyOf 0 0x100 / 8) = true ∧
    reqTake.limit ≠ 0 ∧ reqTake.reply = none ∧ reqTake.first + reqTake.limit ≤ u.dev.now ∧ (s.dev.cl 0).signals = [] ∧
    u.dev.bankCheck (u.dev.partOf 0) 0 0x100 = none ∧ smem u.dev.poison (u.dev.scratchKeyOf 0 0x100 / 64) = false ∧
    ({ u with dev := u.dev.modCl 0 (fun cl => { cl with banks := Vector.replicate 32 ⟨0, true, 0, 0, 0⟩ }) } : State).dev.bankCheck
      (({ u with dev := u.dev.modCl 0 (fun cl => { cl with banks := Vector.replicate 32 ⟨0, true, 0, 0, 0⟩ }) } : State).dev.partOf 0) 0 0x100 = some .bankMoved := by
  decide +kernel
theorem witness_AsynchronousEntry :
    let s := withMe (fun st => { st with ie := true }) sRep
    let r : Report := ⟨.peer 0 0, 0, 0, .protection, 0xFF, 0⟩
    (s.dev.strand 0 0).ie = true ∧ s.dev.pending 0 0 = some r ∧ (s.dev.strand 0 0).state = .run ∧
    (withMe (fun st => { st with state := .trap }) s).dev.pending 0 0 = some r ∧
    (withMe (fun st => { st with state := .wait .wfi true }) s).dev.pending 0 0 = some r ∧
    (withMe (fun st => { st with state := .wait (.retry Apertures.reset) false }) s).dev.pending 0 0 = some r ∧
    (sMon true).dev.monitors.find? (fun x => x.c = 0 && x.k = 0) = some ⟨0, 0, 5, true⟩ ∧
    ((withMe (fun st => { st with state := .wait .monwait false }) (sMon true)).dev.strand 0 0).state = .wait .monwait false := by decide +kernel
theorem witness_AsynchronousEntry_source : ∀ g x, (⟨.peer 0 0, 0, 0, .protection, 0xFF, 0⟩ : Report).src ≠ .region g x := by intro g x h; cases h
/-- Requests of a strand for an atomic and of a generator for a presence word, and a full wait table. -/
def reqAmo : Req := reqOf (.strand 0) (.atomic 3 8)
def reqGen : Req := { reqTake with who := .gen 0 0 0, limit := 0 }
def sWaits : State := withCl (fun cl => { cl with waits := List.replicate 64 ⟨((sLoc.dev.cl 0).bankMap 0x100).1, 5, true, 0, 1⟩ }) (sReq reqTake false)
theorem witness_LaunchesAndEndsOfWaits :
    (sLoc.g 4).toNat % 64 = 0 ∧ sLoc.ctx.ap.decode (sLoc.g 4).toNat = some (1, 0x100) ∧ sLoc.dev.partOf 0 = some 0 ∧
    sLoc.dev.bankCheck (some 0) 0 0x100 = none ∧ smem sLoc.dev.poison (sLoc.dev.scratchKeyOf 0 0x100 / 64) = false ∧
    ((sReq reqAmo false).dev.cl 0).reqs.find? (fun x => x.tag = 9) = some reqAmo ∧ (sReq reqAmo false).dev.freePort = none ∧
    ((sReq (reqOf (.strand 0) .store) false).dev.cl 0).reqs.find? (fun x => x.tag = 9) = some (reqOf (.strand 0) .store) ∧
    ((sReq reqGen true).dev.cl 0).reqs.find? (fun x => x.tag = 9) = some reqGen ∧ reqGen.who = .gen 0 0 0 ∧ reqGen.reissue = some 0 ∧
    (sReq reqGen true).dev.bankCheck ((sReq reqGen true).dev.partOf 0) 0 0x100 = none ∧
    smem (sReq reqGen true).dev.full ((sReq reqGen true).dev.scratchKeyOf 0 0x100 / 8) = true ∧
    smem sWaits.dev.full (sWaits.dev.scratchKeyOf 0 0x100 / 8) = false ∧ (sWaits.dev.cl 0).reqs.find? (fun x => x.tag = 9) = some reqTake ∧
    64 ≤ ((sWaits.dev.cl 0).waits.filter (fun w => w.bank = ((sWaits.dev.cl 0).bankMap 0x100).1)).length ∧
    sWaits.dev.bankCheck (sWaits.dev.partOf 0) 0 0x100 = none := by decide +kernel
theorem witness_LaunchesAndEndsOfWaits_released : Released sLoc.dev 0 0 3 := by unfold Released NoSignals Quiet; decide +kernel
/-- A strand with IE = 1 that waits for its presence word, or at a MONWAIT, and a report for it. -/
theorem witness_LaunchesAndEndsOfWaits_async :
    let rep : Report := ⟨.peer 0 0, 0, 0, .protection, 0xFF, 0⟩
    let s := withMe (fun st => { st with ie := true, state := .wait (.presence 9) false }) { sReq reqTake false with dev := { (sReq reqTake false).dev with reports := [rep] } }
    let u := withMe (fun st => { st with ie := true, state := .wait .monwait false }) { sMon false with dev := { (sMon false).dev with reports := [rep] } }
    (s.dev.strand 0 0).ie = true ∧ s.dev.pending 0 0 = some rep ∧ (s.dev.strand 0 0).state = .wait (.presence reqTake.tag) false ∧
    u.dev.pending 0 0 = some rep ∧ (u.dev.strand 0 0).state = .wait .monwait false ∧
    u.dev.monitors.find? (fun x => x.c = 0 && x.k = 0) = some ⟨0, 0, 5, false⟩ := by decide +kernel

/-! ### Homes, translation, partitions, platform -/

/-- A buffered write of 1 byte to class 0 offset 0x40. -/
def pend0 : Pending := { dest := .phys 0 0 false, cells := [(0x40, 7)], poison := false, who := .strand 0, addr := 0x10000040 }
/-- The two whole atoms of one line. -/
def pendA (at_ : Nat) : Pending :=
  { dest := .phys 0 0 false, cells := (List.range 64).map (fun i => (at_ + i, 7)), poison := false, who := .strand 0, addr := 0x10000000, tag := at_ }
def sMates : State := withCl (fun cl => { cl with buffer := [pendA 0, pendA 64] }) sPage
def sBuf : State := withCl (fun cl => { cl with buffer := [pend0] }) sPage
theorem witness_HomesAndRefresh : (sBuf.dev.cl 0).buffer[0]? = some pend0 ∧ sBuf.dev.pendingHeld 0 0 pend0 = false ∧ sBuf.dev.mateOf 0 0 pend0 = none ∧
    (sMates.dev.cl 0).buffer[0]? = some (pendA 0) ∧ sMates.dev.pendingHeld 0 0 (pendA 0) = false ∧ sMates.dev.mateOf 0 0 (pendA 0) = some (1, pendA 64) ∧ sPage.dev.partOf 0 = some 0 ∧
    sPage.dev.walkIdent 0 (.strand 0) = some (⟨true, 0, 0, true⟩, none) ∧
    (match (sPage.dev.translate (dieOf 0) 0 ⟨true, 0, 0, true⟩ false .read 0x40).1 with | .ok pa _ => decide (pa = 0x40) | _ => false) = true ∧
    ((tget sPage.dev.refresh 0).getD 0 < 7) ∧ List.Pairwise (· < ·) (sPage.dev.refresh.map (·.1)) ∧
    (tget ({ sPage.dev with refresh := [(0, 7)] } : Dev).refresh 0).getD 0 = 7 ∧ List.Pairwise (· < ·) ([((0 : Nat), 7)].map (·.1)) := by decide +kernel
/-- Memory node 0 filled by n chunks a buffer, of two buffers of 4 KiB, with one chunk waiting. -/
def sNode (fillu : BitVec 13) : State := withCl (fun cl => { cl with
  memNodes := vset cl.memNodes 0 { (vget cl.memNodes 0) with fillu := fillu, bufu := 1, nb := 2, wait := [⟨32, List.replicate 32 5, false, .drain 0 0⟩] } }) sLoc
theorem node_at (f : BitVec 13) : vget ((sNode f).dev.cl 0).memNodes 0 =
    { MemNode.reset with fillu := f, bufu := 1, nb := 2, wait := [⟨32, List.replicate 32 5, false, .drain 0 0⟩] } := rfl
/-- One chunk completes a buffer of one, not of two. -/
theorem witness_NodeChunks : (∀ f ∈ [(1 : BitVec 13), 2], let x : MemNode := { MemNode.reset with fillu := f, bufu := 1, nb := 2 }
    x.nb ≠ 0 ∧ x.full.getLsbD x.fptr.toNat = false ∧ nodeKey 0 0 (x.fptr.toNat * (x.bufu.toNat * 4096) + 32) % 64 + 32 ≤ 64 ∧
    (x.fcnt + 1 = x.fillu ↔ f = 1)) ∧ (List.replicate 32 (5 : Byte)).length = 32 ∧ Memory.wf (sNode 1).dev.mem = true ∧
    smem (sNode 1).dev.poison (nodeKey 0 0 32 / 64) = false := by decide +kernel
/-- The fault queue of partition 0 enabled. -/
def sFq : State := { sLoc with dev := sLoc.dev.modTr 0 (fun t => { t with fqEn := true }) }
theorem witness_FaultQueueRegisters : (sLoc.dev.part 0).tr.fqEn = false ∧ (64 : Word).getLsbD 63 = false ∧ (64 : Word).toNat / 2 ^ 56 % 32 ≠ (sLoc.dev.part 0).tr.fqLog2.toNat ∧
    (sFq.dev.part 0).tr.fqEn = true ∧ (1 : Word).getLsbD 0 = true ∧ sLoc.dev.partOf 0 = some 0 ∧ (∀ r, (sLoc.dev.region 0 r).st ≠ .faulted) ∧
    (sLoc.dev.queue 0 0).held = false := by decide +kernel
theorem witness_InvalidationAndAccessCounts : let s := { sPage with dev := sPage.dev.modTr 0 (fun t => { t with invals := [⟨2, 0, 0⟩] }) }
    (s.dev.part 0).tr.invals ≠ [] ∧ (∀ c, s.dev.partOf c = some 0 → s.dev.pagesInUse c = false) ∧ (1 : Word).getLsbD 0 = true := by decide +kernel
/-- Pseudo-channel 0 in the map, channel group 1 (8 to 15) a spare of partition 0. -/
def sRet (on : Bool) : State :=
  let d := { sPage.dev with groups := sPage.dev.groups.set 1 0x10 }
  { sPage with dev := if on then d.modMb 0 (fun m => { m with retiring := some (0, 8) }) else d }
theorem witness_ChannelRetirement : let v : Word := 0x8000000000080000
    v.getLsbD 63 = true ∧ ((sRet false).dev.part 0).mb.retiring = none ∧ v.toNat % 2 ^ 11 ∈ ((sRet false).dev.part 0).mb.cmap ∧
    (sRet false).dev.isSpare 0 (v.toNat / 2 ^ 16 % 2 ^ 11) = true ∧ v.toNat / 2 ^ 16 % 2 ^ 11 ∉ ((sRet false).dev.part 0).mb.cmap ∧
    ((sRet false).dev.part 0).mb.pieces = [] ∧ ((sRet true).dev.part 0).mb.retiring = some (0, 8) ∧ (0 : Nat) ≠ 8 := by decide +kernel
/-- Bring-up over, cluster 0 and channel group 0 owned by partition 0, in the state given. -/
def sPart (st : PartState) : State :=
  let d := { sLoc.dev with phases := 0x1F, groups := sLoc.dev.groups.set 0 0, pways := sLoc.dev.pways.set 0 1 }
  { sLoc with dev := d.modPart 0 (fun p => { p with state := st, after := .ready }) }
theorem witness_PartitionCommands : (sPart .off).dev.phases.getLsbD 1 = true ∧ ((sPart .off).dev.part 0).state = .off ∧ (sPart .off).dev.setupErr 0 = 0 ∧
    (∀ q, q ≠ 0 → ((sPart .off).dev.part q).state = .off) ∧ ((sPart .ready).dev.part 0).state = .ready ∧ ((sPart .setting).dev.part 0).state = .setting ∧
    ((sPart .setting).dev.part 0).heldCmds = [] ∧ ((sPart .resetting).dev.part 0).state = .resetting ∧ ((sPart .resetting).dev.part 0).after = .ready ∧
    ((sPart .resetting).dev.part 0).heldCmds = [] ∧ ((sPart .ready).dev.part 0).d3hot = false ∧
    (0x8000012300000000 : Word).getLsbD 63 = true ∧ (0x8000012300000000 : Word).getLsbD 62 = false ∧ (0x8000012300000000 : Word).getLsbD 61 = false := by
  decide +kernel
def sDog (t : Nat) : State := { sLoc with dev := { sLoc.dev.modDb 0 (fun b => { b with wdEn := true, wdLimit := 1 }) with now := t } }
theorem witness_Watchdog : ((sDog 0).dev.part 0).db.wdEn = true ∧ ((sDog 0).dev.part 0).db.wdLimit ≠ 0 ∧
    (sDog (2 ^ 20)).dev.now = ((sDog (2 ^ 20)).dev.part 0).db.wdFrom + ((sDog (2 ^ 20)).dev.part 0).db.wdLimit.toNat * 2 ^ 20 ∧
    (sDog (2 ^ 21)).dev.now = ((sDog (2 ^ 21)).dev.part 0).db.wdFrom + 2 * ((sDog (2 ^ 21)).dev.part 0).db.wdLimit.toNat * 2 ^ 20 ∧
    ((sDog 0).dev.part 0).db.wdTcl.toNat = (0 : ClusterId).val ∧ ((sDog 0).dev.part 0).db.wdAction = 0 ∧ (1 : Word).getLsbD 0 = true := by decide +kernel
def sSnap : State := { sLoc with dev := (sLoc.dev.modPf 0 (fun p => { p with snArm := true })).modCl 0 (fun cl => { cl with snapCmen := true }) }
theorem witness_Snapshots : (sSnap.dev.part 0).pf.snArm = true ∧ sSnap.dev.latch = none ∧ sSnap.me.priv = true ∧ sSnap.dev.partOf 0 = some 0 ∧
    (sSnap.dev.cl 0).snapCmen = true ∧ sSnap.dev.now % 2 ^ 48 = (sSnap.dev.cl 0).cmatch.toNat ∧ (0x8400000000000000 : Word).getLsbD 58 = true ∧
    (0x8400000000000000 : Word).getLsbD 63 = true ∧ (user sSnap).me.priv = false ∧ ((user sSnap).dev.cl 0).snapUen = false ∧
    (∀ q, (sLoc.dev.part q).pf.snPin = false) ∧ ({ sSnap.dev with latch := some ⟨0, [(0, 3, 0)], false⟩ } : Dev).latch = some ⟨0, [(0, 3, 0)], false⟩ := by decide +kernel
theorem witness_HostRegisterAccess : let d := (sPart .ready).dev
    d.functionUp (PartId.func 0) = true ∧ (d.part 0).state ≠ .resetting ∧ (d.part 0).d3hot = false ∧ d.bar0 (PartId.func 0) 0x4000 = some 0x1004000 ∧
    d.functionUp 0 = true ∧ (sPart .resetting).dev.functionUp (PartId.func 0) = true ∧ ((sPart .resetting).dev.part 0).state = .resetting := by decide +kernel
theorem witness_Links : (8 * 5 + 0, 9) ∈ ({ sLoc.dev with performed := [(40, 9)] } : Dev).performed ∧ (7, 9) ∈ ({ sLoc.dev with received := [(7, 9)] } : Dev).received ∧ (7, 9) ∉ sLoc.dev.received ∧
    (vget ({ sLoc.dev with links := sLoc.dev.links.set 0 ⟨0, 8, 2⟩ } : Dev).links 0).state = 2 := by decide +kernel
/-- Partition 0 exports its scratchpad; a member 5 of the domain may reach it. -/
def sExp : State := { sPart .ready with dev := (sPart .ready).dev.modPf 0 (fun p => { p with expEn := true, expWr := true, expSp := true, domMap := 32 }) }
theorem witness_ExportedAccess : Memory.wf sExp.dev.mem = true ∧ (0x100 : Nat) % 64 + 8 ≤ 64 ∧ sExp.dev.functionUp (PartId.func 0) = true ∧
    sExp.dev.exportAt 0 none 0xF000000100 8 true = some (.scratch 0 0x100) ∧ sExp.dev.exportAt 0 none 0xF000000100 8 false = some (.scratch 0 0x100) ∧
    sExp.dev.exportAt 0 none 0xE000000000 8 true = none ∧ sExp.dev.exportAt 0 (some 5) 0xF000000100 8 false = some (.scratch 0 0x100) ∧
    sExp.dev.exportAt 0 (some 6) 0xF000000100 8 false = none ∧ (∀ i < 8, smem sExp.dev.poison (sExp.dev.scratchKeyOf 0 (0x100 + i) / 64) = false) ∧
    (sExp.dev.cl 0).waits = [] ∧ smem sExp.dev.full (sExp.dev.scratchKeyOf 0 0x100 / 8) = false ∧
    smem ({ sExp.dev with full := [sExp.dev.scratchKeyOf 0 0x100 / 8] } : Dev).full (sExp.dev.scratchKeyOf 0 0x100 / 8) = true := by decide +kernel
theorem witness_PlatformEvents : let d := (sPart .ready).dev.modPart 0 (fun p => { p with kpol := 1, reported := [3] })
    d.functionUp (PartId.func 0) = true ∧ (d.part 0).state = .ready ∧ (d.part 0).kpol = 1 ∧ (d.part 0).key = none ∧ 3 ∈ (d.part 0).reported ∧
    4 ∉ (d.part 0).reported ∧ State.reset.dev.phases.getLsbD 0 = false ∧ phaseNeeds 0 = [] ∧ State.reset.dev.running = true := by decide +kernel

/-! ### Regions, nodes and engines -/

/-- Kernel 0 runs in region 0 of cluster 0, at slot 0, with a stage and no work, its trips endless or one. -/
def sRun (st : RState) (weir : WeirPart) : State := withCl (fun cl => cl.modReg 0 (fun r => { r with
  st := st
  weir := weir
  kernels := vset r.kernels 0 { (vget r.kernels 0) with noTrip := false, trips := 2 } })) (sKern .running .running .loaded)
/-- The same with a load that its generator must deliver in slot 0 and has not run ahead. -/
def blkWord : Word := 0x0010000000000000
def blk0 : AgBlock := ⟨vset (vset (vset (Vector.replicate 8 0) 0 blkWord) 1 0x01000100) 2 0x0001000100010001, AgPos.zero, AgPos.zero, [], AgPos.zero⟩
def sStall (st : RState) : State :=
  let ag : Agen := { Agen.reset with region := some 0, blocks := vset Agen.reset.blocks 0 (some blk0) }
  let s := withCl (fun cl => cl.modReg 0 (fun r => { r with
    ap := cl.ap
    kernels := vset r.kernels 0 { (vget r.kernels 0) with sp := 1 } })) (sRun st .none)
  withCl (fun cl => { cl with fab := { cl.fab with agens := vset cl.fab.agens 0 ag } }) s
theorem witness_RegionSteps : ∀ st ∈ [RState.running, .frozen], let s := sRun st .none
    let (l, d0) := s.dev.passWeir 0 0
    let (p, d1) := d0.planSlot 0 0
    let (_, fs) := d1.takeStores 0 0 (moveRim (d0.region 0 0).rim) p.stores
    l = [] ∧ (d0.region 0 0).weir = .none ∧ (d0.region 0 0).st = st ∧ (d1.region 0 0).st = st ∧ ((s.dev.region 0 0).busy && s.dev.preemptDue 0 0) = false ∧
    p.stalls = [] ∧ firstFault (p.faults ++ fs) = none ∧ (s.dev.region 0 0).weir = .none := by decide +kernel
theorem witness_RegionSteps_stall : ∀ st ∈ [RState.running, .frozen], let s := sStall st
    let (l, d0) := s.dev.passWeir 0 0
    let (p, d1) := d0.planSlot 0 0
    l = [] ∧ (d0.region 0 0).weir = .none ∧ (d1.region 0 0).st = st ∧ ((s.dev.region 0 0).busy && s.dev.preemptDue 0 0) = false ∧ p.stalls ≠ [] ∧
    firstFault p.walked = none ∧ ((d1.region 0 0).busy && d1.preemptDue 0 0) = false := by decide +kernel
theorem witness_RegionSteps_wrap : let k := vget ((sRun .running .none).dev.region 0 0).kernels 0
    k.cfg = some kcfg ∧ k.st = .running ∧ k.exit_ = false ∧ k.noTrip = false ∧ k.trips ≠ 0 ∧ 1 ≤ kcfg.s ∧ kcfg.s ≤ 8 := by decide +kernel
theorem witness_RegionSteps_stop : let s := withCl (fun cl => cl.modReg 0 (fun r => { r with stop := true })) (sRun .stopping .wrap)
    (s.dev.region 0 0).st = .stopping ∧ (s.dev.region 0 0).weir = .wrap ∧ (s.dev.region 0 0).stop = true ∧ (s.dev.region 0 0).commit = none ∧
    (s.dev.region 0 0).drain = none ∧ s.dev.nodeBusy 0 0 = false ∧ s.dev.tiedBusy 0 0 = false ∧ (vget (s.dev.region 0 0).kernels 0).cfg.isSome = true ∧
    (∀ e ∈ (s.dev.cl 0).step.entries.toList, e.tiedTo 0 = false) := by decide +kernel
/-- A half that drains, of the granules given, to LOCAL offset 0x100. -/
def sDrain (l : List Granule) : State := withCl (fun cl => cl.modReg 0 (fun r => { r with drain := some ⟨l, 0, 3, sLoc.ctx.ap⟩ })) sLoc
def gran0 : Granule := ⟨0x01000100, 0xF, 0, 0x04030201, false, 0, false⟩
theorem witness_DrainsAndStreams_write : let s := sDrain [gran0]
    let cx : Ctx := ⟨0, .drain 0, (vget (s.dev.region 0 0).kernels 0).id, sLoc.ctx.ap⟩
    (s.dev.region 0 0).drain = some ⟨[gran0], 0, 3, sLoc.ctx.ap⟩ ∧ gran0.waiting = false ∧ gran0.plain ≠ 0 ∧ gran0.puts = 0 ∧ gran0.poison = false ∧
    uResolve cx .write (gran0.addr, 64) s.dev = (.ok (.scratch 0 0x100), s.dev) ∧ s.dev.bankCheck (s.dev.partOf 0) 0 0x100 = none ∧ (0x100 : Nat) % 64 = 0 ∧
    s.dev.scratchKeyOf 0 0x100 % 64 = 0 ∧ smem s.dev.poison (s.dev.scratchKeyOf 0 0x100 / 64) = false ∧ Memory.wf s.dev.mem = true ∧
    s.dev.olderWrites 0 0 0 = (false, s.dev) := by
  refine ⟨by decide +kernel, by decide, by decide, by decide, by decide, ?_, by decide +kernel, by decide, by decide +kernel, by decide +kernel, by decide +kernel, by decide +kernel⟩
  exact uResolve_local (x := ⟨0, .drain 0, (vget ((sDrain [gran0]).dev.region 0 0).kernels 0).id, sLoc.ctx.ap⟩) (by decide +kernel) (by decide) (by decide +kernel)
theorem witness_DrainsAndStreams_complete : let s := sDrain []
    (s.dev.region 0 0).drain = some ⟨[], 0, 3, sLoc.ctx.ap⟩ ∧ (∀ m ∈ (s.dev.cl 0).memNodes.toList, m.wait = []) ∧ okIs (release 0 3 s.dev).1 () = true ∧ s.dev.halfChunks 0 0 = false := by decide +kernel
/-- The loader of sStall, below its LEAD, with a first vector to issue. -/
theorem witness_DrainsAndStreams_ahead : let s := sStall .running
    (match vget (s.dev.agen 0 0).blocks 0 with
      | some b => decide ((s.dev.agen 0 0).region = some 0 ∧ ((s.dev.region 0 0).kernelOf b) = some 0 ∧ b.store = false ∧
          (s.dev.cl 0).isIndexSource 0 0 0 = false ∧ b.ahead.length < b.lead ∧ b.ahead.length < (s.dev.region 0 0).firingsLeft b) &&
        (match loadVector 0 (s.dev.region 0 0) 0 0 b (s.dev.indexBlock 0 b) (agCtx 0 (s.dev.region 0 0) 0 0 b b.issue.ord) b.issue s.dev with
          | (.ok _, d1) => decide (vget (d1.agen 0 0).blocks 0 = some b)
          | _ => false)
      | none => false) = true := by decide +kernel
def inPort : PortCfg := ⟨false, false, false, false, 0, 0, 0⟩
def outPort : PortCfg := ⟨true, false, false, false, 0, 0, 1⟩
def pack0 : Packet := ⟨packetHdr 0 0 0 1, [7], 0⟩
def sPorts : State := withCl (fun cl =>
  let a := { (vget cl.fab.ports 0) with cfg := some inPort, peer := some (0, 1) }
  let b := { (vget cl.fab.ports 1) with cfg := some outPort, peer := some (0, 0), ready := [pack0] }
  { cl with fab := { cl.fab with ports := vset (vset cl.fab.ports 0 a) 1 b } }) sLoc
theorem witness_DrainsAndStreams_packet : (vget (sPorts.dev.cl 0).fab.ports 0).cfg = some inPort ∧ inPort.out = false ∧
    (vget (sPorts.dev.cl 0).fab.ports 0).peer = some (0, 1) ∧ (vget (sPorts.dev.cl 0).fab.ports 1).peer = some (0, 0) ∧
    (vget (sPorts.dev.cl 0).fab.ports 1).ready = [pack0] ∧ (vget (sPorts.dev.cl 0).fab.ports 0).roomFor pack0 = true ∧ pack0.bad = false ∧ pack0.kind ≠ 3 := by decide +kernel
/-- Node 0 with an instance at its head, all operand buffers full, and node 1 the same; cycle 100. -/
def sMx (e : Word) (began : Option (Nat × Nat)) (p : Nat) : State :=
  let q : MInst := ⟨e, p, 0, 0, 0, began, 0, 0, 0⟩
  let s := withCl (fun cl =>
    let nodes := vmod (vmod cl.fab.nodes 0 (fun m => { m with queue := [q] })) 1 (fun m => { m with queue := [q] })
    { cl with
      memNodes := cl.memNodes.map (fun m => { m with full := 0xFFFF, nb := 2, bufu := 1, fillu := 64 })
      fab := { cl.fab with nodes := nodes } }) sLoc
  { s with dev := { s.dev with now := 100 } }
/-- An entry: operation, formats 7 (int8), KCH, ZERO. -/
def mxE (op kch : Nat) : Word := BitVec.ofNat 64 (op * 2 ^ 59 + 7 * 2 ^ 52 + 7 * 2 ^ 48 + kch * 2 ^ 30 + 2 ^ 16)
theorem witness_MatrixOperations_start : ∀ op ∈ [1, 2, 3, 4, 8, 9], let s := sMx (mxE op 1) none 0
    mxMop (mxE op 1) = op ∧ s.dev.nodeStarts 0 0 = true ∧ (0 : Nat) < s.dev.now ∧ (s.dev.node 0 0).lastDone < s.dev.now ∧ s.dev.mxBuffersFull 0 0 (mxE op 1) = true := by decide +kernel
theorem witness_MatrixOperations_chunk : ∀ op ∈ [1, 2], let s := sMx (mxE op 1) (some (0, 0)) 0
    s.dev.nodeRuns 0 0 = true ∧ (0 : Nat) < mxQ (mxE op 1) ∧ 0 + 16 + (0 + 1 - 0) * mxChunkTime (mxE op 1) ≤ s.dev.now + 1 ∧ mxSemi (mxE op 1) = 0 ∧ mxAfmt (mxE op 1) = 7 := by decide +kernel
theorem witness_MatrixOperations_end : mxQ (mxE 1 1) ≤ 1 ∧ mxMop (mxE 1 1) ≤ 2 ∧ (sMx (mxE 1 1) (some (0, 0)) 1).dev.nodeRuns 0 0 = true ∧ (0 : Nat) + 1 ≤ 100 + 1 ∧
    mxMop (mxE 3 1) = 3 ∧ mxMop (mxE 4 1) = 4 ∧ mxMop (mxE 9 1) = 9 ∧ 0 + mxCycles (mxE 4 1) ≤ (sMx (mxE 4 1) (some (0, 0)) 0).dev.now + 1 := by decide +kernel
theorem witness_MatrixOperations_gang : let s := sMx (mxE 10 2) none 0
    mxMop (mxE 10 2) = 10 ∧ mxKch (mxE 10 2) = 2 ∧ s.dev.nodeStarts 0 0 = true ∧ (s.dev.node 0 1).queue.length = 1 ∧ s.dev.gangOf 0 (mxE 10 2) 0 = [(0, 0), (0, 1)] := by decide +kernel

/-- A command in a queue of cluster 0: W0, W1, W2, started or not. -/
def cmd0 (w0 w1 w2 : Word) (active : Bool) : Cmd :=
  let k := Cmd.fresh (vset (vset (vset (Vector.replicate 8 0) 0 w0) 1 w1) 2 w2) 1 false Ident.reset ⟨0, 0, none⟩ 0 none
  if active then { k with state := .active, ap := sLoc.ctx.ap } else k
def sCmd (q : QueueIx) (k : Cmd) : State := withCl (fun cl => { cl with eng := vset cl.eng q { (vget cl.eng q) with cmds := [k] } }) sLoc
/-- Each start row has a command of its kind that may start, at every queue of it. -/
theorem witness_CommandStarts : ∀ x ∈ ([(0x01, 0), (0x02, 1), (0x03, 2), (0x04, 3), (0x05, 0), (0x06, 1), (0x07, 2), (0x08, 3), (0x09, 0), (0x0A, 0), (0x0B, 0), (0x10, 0),
    (0x11, 0), (0x12, 0), (0x13, 0), (0x20, 0), (0x21, 0), (0x22, 0), (0x23, 0), (0x24, 0), (0x25, 0), (0x26, 0), (0x30, 4), (0x31, 5), (0x40, 6), (0x41, 6),
    (0x42, 6), (0x43, 6)] : List (Nat × QueueIx)), let k := cmd0 (BitVec.ofNat 64 (x.1 * 2 ^ 56 + 64)) 0 0 false
    ((sCmd x.2 k).dev.queue 0 x.2).oldest = some k ∧ k.refused = false ∧ k.kind = cmdKind x.1 ∧ k.kind.isSome = true ∧ (sCmd x.2 k).dev.mayStart 0 x.2 k = true ∧
    pkRel k.w = false := by decide +kernel
theorem witness_CommandStarts_held : let k := cmd0 0x0100000000000040 0 0 false
    let s := withCl (fun cl => { cl with eng := vset cl.eng 0 { (vget cl.eng 0) with hold := true } }) (sCmd 0 k)
    (s.dev.queue 0 0).oldest = some k ∧ s.dev.mayStart 0 0 k = false ∧ okIs (release 0 3 (sCmd 0 k).dev).1 () = true := by decide +kernel
/-- COPY of 64 bytes from LOCAL 0x200 to 0x100. -/
def kCopy : Cmd := cmd0 0x0100000000000040 0x01000200 0x01000100 true
theorem witness_SectorsFramesGroups_copy : let s := sCmd 0 kCopy
    s.dev.cmd 0 0 0 = some kCopy ∧ kCopy.key = 0 ∧ kCopy.state = .active ∧ kCopy.finish = none ∧ (s.dev.queue 0 0).hold = false ∧ pkCk kCopy.w ≠ 1 ∧ kCopy.kind = some .copy ∧
    kCopy.next = 0 ∧ kCopy.done = 0 ∧ kCopy.digest = none ∧ kCopy.shared = [] ∧ s.dev.chunksWait 0 0 kCopy.key = false ∧ 0 < pkCount kCopy.w ∧
    0x01000100 % 64 + pkCount kCopy.w ≤ 64 ∧ 0x100 % 64 + 64 ≤ 64 ∧ Memory.wf s.dev.mem = true ∧
    uResolve (kCopy.ctx 0 0) .write (0x01000100, 64) s.dev = (.ok (.scratch 0 0x100), s.dev) ∧ s.dev.bankCheck (s.dev.partOf 0) 0 0x100 = none ∧
    uResolve (kCopy.ctx 0 0) .read (0x01000200, 64) s.dev = (.ok (.scratch 0 0x200), s.dev) ∧ s.dev.bankCheck (s.dev.partOf 0) 0 0x200 = none := by
  refine ⟨?_, ?_, ?_, ?_, ?_, ?_, ?_, ?_, ?_, ?_, ?_, ?_, ?_, ?_, ?_, ?_, uResolve_local (x := kCopy.ctx 0 0) ?_ ?_ ?_, ?_, uResolve_local (x := kCopy.ctx 0 0) ?_ ?_ ?_, ?_⟩ <;> decide +kernel
/-- ROWFILL of one frame: stack 0's row share in a ROW window at 0x4000_0000. -/
def sRow (k : Cmd) : State :=
  let s := sCmd 0 k
  let d := s.dev.modCl 0 (fun cl => { cl with ap := { base := cl.ap.base.set 3 0x40, limit := cl.ap.limit.set 3 0x40 } })
  let d := { d with splitOwner := d.splitOwner.set 0 0, splitRsub := d.splitRsub.set 0 1 }
  { s with dev := d.modDie 0 (fun x => { x with tlb := (List.range 2).map (fun i => (⟨i, 0, 0, 0, 0, 0, i, BitVec.ofNat 64 (0x2BF + i * 65536 + 2 ^ 48)⟩ : TlbEntry)) }) }
def kRow (dst : Word) : Cmd := let k := cmd0 0x2100000000000001 0x55 dst true
  { k with id := ⟨true, 0, 0, true⟩, ap := { base := k.ap.base.set 3 0x40, limit := k.ap.limit.set 3 0x40 } }
theorem witness_SectorsFramesGroups_row : (kRow 0x40000000).kind = some .rowfill ∧ CmdKind.rowfill.isRow = true ∧ (kRow 0x40000000).next < pkCount (kRow 0x40000000).w ∧
    (sRow (kRow 0x40000000)).dev.cmd 0 0 0 = some (kRow 0x40000000) ∧
    (∃ path d1, rowFrame 0 0 (kRow 0x40000000) .rowfill (sRow (kRow 0x40000000)).dev = (.ok path, d1) ∧ (decide (path < 2)) = true) ∧
    (match (rowFrame 0 0 (kRow 0x40000040) .rowfill (sRow (kRow 0x40000040)).dev).1 with
      | .error e => decide (e.1 = .refused)
      | .ok _ => false) = true := by
  refine ⟨by decide +kernel, by decide +kernel, by decide +kernel, by decide +kernel, ok_then (by decide +kernel), by decide +kernel⟩
/-- Entry 0 of the step table: one tile of 1,024 bytes, K = 1. -/
def step0 : StepEntry := ⟨true, vset (vset (vset (vset (vset (vset (Vector.replicate 8 0) 0 0x01001000) 1 0x01002000) 3 0x01003000) 4 0x01003100) 5 0x01003200) 6
  (BitVec.ofNat 64 (2 ^ 48 + 2 * 2 ^ 45 + 2 * 2 ^ 42)), 0, 0⟩
def kSig : Cmd := cmd0 0x4100000000000000 0 0 true
def sSig : State := withCl (fun cl => { cl with step := { cl.step with entries := cl.step.entries.set 0 step0 } }) (sCmd 6 kSig)
theorem witness_SectorsFramesGroups_sig : kSig.kind = some .sigcmp ∧ pkCount kSig.w < 16 ∧ kSig.next < (sSig.dev.stepEntry 0 kSig).tiles ∧
    (sSig.dev.queue 0 6).hold = false ∧
    (∃ w d1, sigcmpGroup sSig.dev 0 kSig sSig.dev = (.ok w, d1) ∧ (decide (d1.cmd 0 6 0 = some kSig)) = true) := by
  refine ⟨by decide +kernel, by decide +kernel, by decide +kernel, by decide +kernel, ok_then (by decide +kernel)⟩
/-- UPDATE of one token at LOCAL 0x200 over targets from LOCAL 0x100. -/
def kUpd : Cmd := cmd0 0x3000000000000001 0x01000200 0x01000100 true
def grp0 : MergeGroup := ⟨0x01000100, 0, false, 0x100, 0, false, 0, 0, 0, [⟨0, 0, 0, 5, 0⟩], none⟩
theorem witness_MergeUnits : let s := sCmd 4 kUpd
    (s.dev.queue 0 4).hold = false ∧ (s.dev.queue 0 4).groups = [] ∧ (s.dev.queue 0 4).entering = some kUpd ∧ mgQueue 0 = 4 ∧
    (∃ r d1, readToken (kUpd.ctx 0 4) kUpd s.dev = (.ok r, d1) ∧ (decide (d1.queue 0 4 = s.dev.queue 0 4) && decide (r.2.2.1 = .scratch 0 0x100)) = true) := by
  refine ⟨by decide +kernel, by decide +kernel, by decide +kernel, by decide, ok_then (by decide +kernel)⟩
theorem witness_MergeUnits_issue : let s := withCl (fun cl => { cl with eng := vset cl.eng 4 { (vget cl.eng 4) with groups := [grp0] } }) (sCmd 4 kUpd)
    (s.dev.queue 0 4).groups[0]? = some grp0 ∧ s.dev.partOf 0 = some 0 ∧ grp0.phys = false ∧ s.dev.bankCheck (s.dev.partOf 0) 0 0x100 = none ∧
    Memory.wf s.dev.mem = true ∧ 0 < redSize grp0.fmt.toNat ∧ s.dev.scratchKeyOf 0 0x100 % 64 + 4 ≤ 64 ∧ (s.dev.cmd 0 4 0).map (fun y => pw y.w 4) = some 0 := by decide +kernel
/-- A copy that is done, with a stamp at LOCAL 0x300; a refused command. -/
def kDone : Cmd := { cmd0 0x0102020000000040 0x01000200 0x01000100 true with w := vset (cmd0 0x0102020000000040 0x01000200 0x01000100 true).w 3 0x01000300, next := 1 }
def kPlain : Cmd := { cmd0 0x0102000000000040 0x01000200 0x01000100 true with next := 1 }
def kBad : Cmd := { cmd0 0 0 0 false with refused := true }
theorem witness_CompletionsHoldsTransfers_refused : let s := sCmd 0 kBad
    s.dev.cmd 0 0 0 = some kBad ∧ kBad.refused = true ∧ (s.dev.queue 0 0).oldest = some kBad ∧ (s.dev.queue 0 0).hold = false ∧ (s.dev.queue 0 0).errTrap = true := by decide +kernel
theorem witness_CompletionsHoldsTransfers_done : ∀ k ∈ [kPlain, kDone], let s := sCmd 0 k
    s.dev.cmd 0 0 0 = some k ∧ k.key = 0 ∧ k.refused = false ∧ s.dev.bodyCode 0 0 k = some 0 ∧ s.dev.unacked 0 0 0 = false ∧ s.dev.refusedStore 0 0 0 = false ∧ k.pub = none ∧
    pkScope k.w = 1 ∧ (k.kind.any CmdKind.isRow) = false ∧ s.dev.remoteNow = [] ∧ (s.dev.cl 0).buffer = [] ∧ (pkCk k.w = 0 ↔ k = kPlain) ∧ (pkCk k.w = 2 ↔ k = kDone) ∧ k.digest = none ∧ pw k.w 3 % 8 = 0 ∧ Memory.wf s.dev.mem = true ∧
    s.dev.scratchKeyOf 0 0x300 % 8 = 0 := by decide +kernel
theorem witness_CompletionsHoldsTransfers_address : let k := { kPlain with finish := some 10 }
    (sCmd 0 k).dev.cmd 0 0 0 = some k ∧ (sCmd 0 k).dev.bodyCode 0 0 k = some 10 ∧ (sCmd 0 k).dev.unacked 0 0 0 = false ∧ k.pub = none := by decide +kernel
theorem witness_CompletionsHoldsTransfers_stamp : let s := sCmd 0 kDone
    let d0 := s.dev.modCl 0 (fun cl => { cl with reqs := cl.reqs.filter (fun r => r.who != .queue 0 0) })
    uResolve (kDone.ctx 0 0) .write (BitVec.ofNat 64 (pw kDone.w 3), 8) d0 = (.ok (.scratch 0 0x300), d0) ∧ s.dev.bankCheck (s.dev.partOf 0) 0 0x300 = none :=
  ⟨uResolve_local (x := kDone.ctx 0 0) (by decide +kernel) (by decide) (by decide +kernel), by decide +kernel⟩
theorem witness_CompletionsHoldsTransfers_hold : let s := withCl (fun cl => { cl with eng := vset cl.eng 0 { (vget cl.eng 0) with hold := true, xfer := { (vget cl.eng 0).xfer with busy := true } } }) sLoc
    (s.dev.queue 0 0).hold = true ∧ (s.dev.queue 0 0).held = false ∧ s.dev.inFlight 0 0 = false ∧ (s.dev.queue 0 0).xfer.busy = true ∧ (s.dev.engxfer 0 0).1 < 8 ∧
    (sLoc.dev.queue 0 0).xfer.busy = false ∧ (0x9000000000000000 : Word).getLsbD 63 = true ∧ (0x9000000000000000 : Word).toNat / 2 ^ 60 % 4 = (1 : BitVec 2).toNat ∧
    (0xA000000000000000 : Word).toNat / 2 ^ 60 % 4 = (2 : BitVec 2).toNat ∧ (1 : Word).getLsbD 0 = true ∧ (4 : Word).getLsbD 0 = false := by decide +kernel

/-! ### Tokens, instances, the region scheduler -/

/-- Words as bytes. -/
def wordsB (l : List Nat) : List Byte := l.flatMap (leBytes 8)
/-- Graph 0 of partition 0 at class 0 offset 0, its version record at 0x1000, an image with no records at 0x2000; window 0 holds the tokens given. -/
def sGraph (l : List (Vector Word 8)) : State :=
  let s := paged (sPart .ready)
  let d := (s.dev.physWriteN 0 3 0 (wordsB [0x10001, 1, 0x1000, 1])).physWriteN 0 3 0x1000 (wordsB [0x112200000003, 0x2000, 0x3000, 0x8000])
  let d := d.physWriteN 0 3 0x2000 header
  { s with dev := d.modDb 0 (fun b => { b with gtSize := 1, windows := vset b.windows 0 { (vget b.windows 0) with en := true, kmask := 15, pmax := 3, fifo := l } }) }
def tok0 (w0 : Word) : Vector Word 8 := vset (Vector.replicate 8 0) 0 w0
theorem witness_IngressWindows : let good := (vget ((sGraph []).dev.part 0).db.windows 0).en = true ∧ ((sGraph []).dev.part 0).state = .ready
    (sGraph []).dev.functionUp (PartId.func 0) = true ∧ good ∧ (vget ((sGraph (List.replicate 7 (tok0 1))).dev.part 0).db.windows 0).fifo.length < 8 ∧
    8 ≤ (vget ((sGraph (List.replicate 8 (tok0 1))).dev.part 0).db.windows 0).fifo.length ∧ (vget (sLoc.dev.part 0).db.windows 0).en = false ∧
    (vget ((sGraph [tok0 1]).dev.part 0).db.windows 0).fifo = [tok0 1] ∧ ((sGraph [tok0 1]).dev.die (vget ((sGraph [tok0 1]).dev.part 0).db.windows 0).die).hand = none ∧
    tokKind (tok0 1) = 1 ∧ tokKind (tok0 2) = 2 ∧ ((sGraph [tok0 1]).dev.die 0).queueLen (Nat.min (tokPrio (tok0 1)) 3) < 64 := by decide +kernel
/-- The dispatcher of die 0 with a token in hand, and an instance. -/
def inst0 (st : InstState) (met : BitVec 2) : Instance :=
  ⟨5, 0, 0, tok0 0x100000001, words8 (wordsB [0x10001, 1, 0x1000, 1, 0, 0, 0, 0]), words8 (wordsB [0x112200000003, 0x2000, 0x3000, 0x8000, 0, 0, 0, 0]), 1, 0, .window 0 0, 0, met,
    some 0, st, 0, 0, false, false, #v[none, none], false⟩
def sHand (w0 : Word) (l : List Instance) : State :=
  { sGraph [] with dev := (sGraph []).dev.modDie 0 (fun x => { x with hand := some ⟨tok0 w0, 0, .window 0 0, 3, 15, false⟩, insts := l }) }
def tokH (w0 : Word) : HandTok := ⟨tok0 w0, 0, .window 0 0, 3, 15, false⟩
theorem witness_Tokens_launch : let s := sHand 0x100000001 []
    let d0 := s.dev.modDie 0 (fun x => { x with hand := none })
    (s.dev.die 0).hand = some (tokH 0x100000001) ∧ tokKind (tok0 0x100000001) = 1 ∧ (match d0.admitToken (tokH 0x100000001) with
      | (.ok ge, d1) => (match d1.versionRec 0 ge 1 with
        | (some vr, d2) => (match d2.tokAddrsOk 0 0 ge (tok0 0x100000001) vr with
          | (true, d3) => (d3.inst 0 (nextCount (d3.die 0).bindCount).toNat).isNone
          | _ => false)
        | _ => false)
      | _ => false) = true ∧ pw (tok0 0x100000001) 2 = 0 ∧ pw (tok0 0x100000001) 4 = 0 := by decide +kernel
theorem witness_Tokens_edit : let s := sHand 0x100000003 []
    tokKind (tok0 0x100000003) = 3 ∧ (match (s.dev.modDie 0 (fun x => { x with hand := none })).admitToken (tokH 0x100000003) with
      | (.ok ge, d1) => (d1.versionRec 0 ge 1).1.isSome
      | _ => false) = true := by decide +kernel
theorem witness_Tokens_preempt : ∀ l ∈ [[], [inst0 .running 3]], let s := sHand 0xFFFF000000000002 l
    tokKind (tok0 0xFFFF000000000002) = 2 ∧ (match (s.dev.modDie 0 (fun x => { x with hand := none })).admitToken (tokH 0xFFFF000000000002) with
      | (.ok _, d1) => decide ((d1.instances 0).filter (fun i => i.state != .waiting && i.tagged 0 0xFFFF) = l) && decide (d1.ctxRegions 0 5 = [])
      | _ => false) = true := by decide +kernel
/-- A DATA token of one element for index 0 of the running instance, whose port 0 of cluster 0 is an input. -/
def data0 : DataTok := ⟨vset (tok0 0xFFFF000000000004) 1 0x100000, 0, 0, .window 0 0, 9⟩
def sData : State :=
  let s := sHand 2 [inst0 .running 3]
  withCl (fun cl => { cl with fab := { cl.fab with ports := vset cl.fab.ports 0 { (vget cl.fab.ports 0) with cfg := some inPort } } })
    { s with dev := s.dev.modDie 0 (fun x => { x with datas := [data0] }) }
theorem witness_Tokens_data : [3, 2, 1, 0].findSome? (fun q => sData.dev.pickData (sData.dev.die 0) ((sData.dev.die 0).datas.filter (fun t => t.prio.toNat = q)) []) =
      some (data0, some (0, 0)) ∧ (vget (sData.dev.cl 0).fab.ports 0).cfg = some inPort ∧ (dataTokPacket data0.token 0).bad = false ∧ (dataTokPacket data0.token 0).kind ≠ 3 := by decide +kernel
theorem witness_Tokens_dependences : let s := sHand 2 [inst0 .waiting 0]
    s.dev.inst 0 5 = some (inst0 .waiting 0) ∧ (inst0 .waiting 0).met ≠ 3 ∧ (s.dev.die 0).insts.map (·.id) = [5] ∧ (inst0 .waiting 0).depFault = false ∧ (match s.dev.depRead (inst0 .waiting 0) 0 with
      | (.met, d1) => (match d1.depRead (inst0 .waiting 0) 1 with | (.met, d2) => decide (d2.inst 0 5 = some (inst0 .waiting 0)) | _ => false)
      | _ => false) = true := by decide +kernel
theorem witness_InstanceLife_placement : let s := sHand 2 [inst0 .waiting 3]
    s.dev.inst 0 5 = some (inst0 .waiting 3) ∧ s.dev.choosePlacement 0 [3, 2, 1, 0] = some (inst0 .waiting 3, 0) ∧
    (s.dev.readyAt 0 (inst0 .waiting 3).prio.toNat).head? = some (inst0 .waiting 3) ∧ 0 + 2 ^ 20 ≤ ({ s.dev with now := 2 ^ 20 } : Dev).now := by decide +kernel
theorem witness_InstanceLife_load : let s := sHand 2 [inst0 .placed 3]
    let i := inst0 .placed 3
    s.dev.inst 0 5 = some i ∧ (match s.dev.loadAt 0 i.loadSrc with
      | (.ok l, d1) => decide (l.loadId.toNat = vrLoadId i.vrec ∧ l.ncl = vrNcl i.vrec ∧ loadLayout (d1.cl 0) (l.of 0) = (d1.cl 0).layout.toNat) &&
        (match loadChecksM 0 l 0 (placed 0 1) true d1 with | (.ok _, d2) => decide (d2.inst 0 5 = some i) | _ => false)
      | _ => false) = true := by decide +kernel
theorem witness_InstanceLife_wake : let s := sHand 2 [inst0 .loaded 3]
    s.dev.inst 0 5 = some (inst0 .loaded 3) ∧ (∀ r ∈ (s.dev.cl 0).fab.regions.toList, r.token = none) ∧ s.dev.wakeables 0 = [1, 2, 3] := by decide +kernel
theorem witness_InstanceLife_retire : let s := withMe (fun st => { st with state := .wait .wfi false, priv := false, instance_ := some 5 }) (sHand 2 [inst0 .running 3])
    s.dev.inst 0 5 = some (inst0 .running 3) ∧ (s.dev.strand 0 0).state = .wait .wfi false ∧ (s.dev.strand 0 0).priv = false ∧ (s.dev.strand 0 0).instance_ = some 5 ∧
    (s.dev.cl 0).buffer = [] ∧ (s.dev.cl 0).reqs = [] ∧ (∀ c ∈ s.dev.clustersOf 0, (s.dev.cl c).doneWith 5 = true) ∧ pw (inst0 .running 3).token 6 = 0 := by decide +kernel
/-- Contexts of two instances on region 0, the first running. -/
def ctxA (base waited : Nat) (run : Bool) : RegCtx := ⟨if run then 5 else 6, 1, 0, none, base, 0, waited, 0, none, false, false, run, false, 3⟩
def sCtx (base : Nat) (pin : Bool) : State :=
  let s := withCl (fun cl => cl.modReg 0 (fun r => { r with
    ctxs := [ctxA 1 0 true, ctxA base 8 false]
    quantumLen := 1
    pin := pin })) (sKern .running .running .loaded)
  { s with dev := { s.dev with now := 1024 } }
theorem witness_RegionScheduler : let x := (sCtx 1 false).dev.region 0 0
    x.runner = some (ctxA 1 0 true) ∧ x.rotate = false ∧ x.quantumLen ≠ 0 ∧ x.quantumFrom + x.quantumLen.toNat * 1024 ≤ (sCtx 1 false).dev.now ∧
    x.nextCtx = some (ctxA 1 8 false) ∧ x.effOf (ctxA 1 8 false) = x.effOf (ctxA 1 0 true) ∧ x.pin = false ∧ x.st = .running ∧ x.busy = true ∧
    (sCtx 1 false).dev.gangIds 0 0 = [] ∧ ((sCtx 1 true).dev.region 0 0).pin = true ∧ (sCtx 1 false).dev.partOf 0 = some 0 ∧
    ((sCtx 2 false).dev.region 0 0).nextCtx = some (ctxA 2 8 false) ∧ ((sCtx 2 false).dev.region 0 0).effOf (ctxA 1 0 true) < ((sCtx 2 false).dev.region 0 0).effOf (ctxA 2 8 false) ∧
    x.ctxs[(1 : Fin 4).val]? = some (ctxA 1 8 false) ∧ 8 ≤ (ctxA 1 8 false).waited := by decide +kernel
/-- A waiting context whose weir image, of a stopped region, lies in slot 0. -/
def sSwitch : State :=
  let s := sKern .stopped .stopped .running
  let img := s.dev.weirImage 0 0
  let d := ((s.dev.modMb 0 (fun m => { m with cmap := [0] })).modDb 0 (fun b => { b with ctxCnt := 1, ctxUsed := [0] })).physWriteN 0 (img.length / 64 + 2) 0 img
  withCl (fun cl => cl.modReg 0 (fun r => { r with
    ctxs := [{ ctxA 1 0 false with loadId := 0, slot := some 0 }]
    st := .idle
    kernels := vset r.kernels 0 { (vget r.kernels 0) with st := .loaded } })) { s with dev := d }
theorem witness_RegionScheduler_switch : let x := sSwitch.dev.region 0 0
    let w : RegCtx := { ctxA 1 0 false with loadId := 0, slot := some 0 }
    x.runner = none ∧ x.live = false ∧ x.nextCtx = some w ∧ sSwitch.dev.partOf 0 = some 0 ∧ w.pre = false ∧ (match sSwitch.dev.takeSlot 0 w with
      | (some b, d1) => (d1.restoreContext 0 0 0 w b).1
      | _ => false) = true := by decide +kernel

/-! ### Steps and encodings -/

theorem witness_StepRunsDecoded : let s := State.reset.withFetchWord 32 0x08600005
    s.dev.stopped = false ∧ s.turns = [.core 0] ∧ s.dev.pick 0 = some 0 ∧ (s.dev.pending 0 0).isSome = false ∧
    (∃ w d1, fetchPair 0 0 s.dev = (.ok w, d1) ∧ (decide (w = (0x08600005, 0)) && okIs (decode w.1 w.2) (.addi 3 0 5)) = true) ∧
    resolve (s.dev.strandCtx 0 0) (s.dev.strand 0 0).pc .fetch s.dev = (.ok (.scratch 0 0), s.dev) ∧ s.dev.bankCheck (s.dev.partOf 0) 0 0 = none ∧
    smem s.dev.poison (s.dev.scratchKeyOf 0 0 / 64) = false ∧ leNat (memReadN s.dev.mem (s.dev.scratchKeyOf 0 0) 4) / 2 ^ 26 ≠ 0x3F ∧
    s.dev.signalWaits (s.dev.strandCtx 0 0) (.scratch 0 0) = false ∧ run (.addi 3 0 5) s (fun u => !u.dev.fenceMet) = true := by
  refine ⟨by decide +kernel, rfl, by decide +kernel, by decide +kernel, ok_then (by decide +kernel), ?_, by decide +kernel, by decide +kernel, by decide +kernel, by decide +kernel, by decide +kernel⟩
  exact resolve_local (x := (State.reset.withFetchWord 32 0x08600005).dev.strandCtx 0 0) (off := 0) (by decide +kernel) (localTarget_scratch (by decide))
theorem witness_StepRunsDecoded_retry : let s := { withMe (fun st => { st with state := .wait (.retry (State.reset.withFetchWord 32 0).ctx.ap) false }) (State.reset.withFetchWord 32 0x08600005) with turns := [.retry 0 0] }
    s.turns = [.retry 0 0] ∧ s.dev.retries 0 0 = true ∧ (∃ w d1, fetchPair 0 0 s.dev = (.ok w, d1) ∧ (decide (w = (0x08600005, 0))) = true) :=
  ⟨rfl, by decide +kernel, ok_then (by decide +kernel)⟩
/-- A load of strand 0 (LDD g6, g4, 0) whose page's pseudo-channel is being replaced meets the map fence. -/
theorem witness_StepRunsDecoded_fence :
    let s := withBytes (sPage.dev.scratchKeyOf 0 0) (leBytes 4 0x34C40000) { sPage with turns := [.core 0], dev := sPage.dev.modMb 0 (fun m => { m with retiring := some (0, 8) }) }
    s.behind (.core 0) = false ∧ (match ({ s with turns := [] } : State).turn (.core 0) with
      | .next u => u.dev.fenceMet
      | _ => false) = true := by decide +kernel
/-- An access from outside that waits behind one that a map fence holds. -/
theorem witness_StepRunsDecoded_held :
    let s : State := { sPeer with turns := [.event (.bar4Read 0 0 8)], dev := { sPeer.dev with held := [.event (.bar4Read 0 0 8)] } }
    s.behind (.event (.bar4Read 0 0 8)) = true ∧ s.behind (.core 0) = false := by decide +kernel
theorem witness_StepRunsDecoded_refused : (decode 0x94000001 0).toOption = none ∧
    (∃ w d1, fetchPair 0 0 (State.reset.withFetchWord 32 0x94000001).dev = (.ok w, d1) ∧ (decide (w = (0x94000001, 0))) = true) :=
  ⟨by decide +kernel, ok_then (by decide +kernel)⟩
theorem witness_FetchFaults : let s := withMe (fun st => { st with pc := 0x7000 }) sLoc
    let u := withMe (fun st => { st with atVector := true }) s
    (withMe (fun st => { st with pc := 0x01000002 }) sLoc).me.pc.toNat % 4 ≠ 0 ∧ sLoc.me.atVector = false ∧ s.me.atVector = false ∧ u.me.atVector = true ∧
    (match fetchPair 0 0 s.dev with | (.error e, d1) => decide (e = (.aperture, 0x7000)) && decide ((s.after d1).me = s.me) | _ => false) = true ∧
    (match fetchPair 0 0 u.dev with | (.error e, d1) => decide (e = (.aperture, 0x7000)) && decide ((u.after d1).me = u.me) | _ => false) = true := by decide +kernel
/-- A fetch from a word for which a signal operation of the strand waits. -/
theorem witness_FetchFaults_again : let s := withMe (fun st => { st with pc := 0x01000100 }) sSigOp
    (match fetchPair 0 0 s.dev with | (.error e, d1) => decide (e = (.wait, 0x01000100)) && decide ((s.after d1).me = s.me) | _ => false) = true ∧
    XFault.wait.toErr 0x01000100 = .again := by decide +kernel
theorem witness_EveryStepAnswers : State.reset.dev.stopped = false ∧ ({ State.reset with dev := { Dev.reset with stopped := true } } : State).turns = [] ∧
    ({ State.reset with turns := [.event .perst] } : State).turns = .event .perst :: [] := by decide +kernel
theorem witness_StepKeepsMemoryForm : State.reset.memoryOk ∧ (match step (State.reset.withFetchWord 32 0x08600005) with | .next _ => true | _ => false) = true ∧
    (State.reset.withFetchWord 32 0x08600005).memoryOk := ⟨by unfold State.memoryOk; decide +kernel, by decide +kernel, by unfold State.memoryOk; decide +kernel⟩
theorem witness_DecodeEncode : (Instr.li64 7 true 0x12345678).wf = true ∧ encode (.li64 7 true 0x12345678) = some (0xFC03C000, 0x12345678) ∧
    (Instr.ffma 1 2 3 0).wf = true ∧ encode (.ffma 1 2 3 0) = some (0x902218C0, 0) := by decide
theorem witness_EncodeDecode : decode 0xFC03C000 0x12345678 = .ok (.li64 7 true 0x12345678) ∧ decode 0xFFFFFFFF 0 = decode 0xFFFFFFFF 0 := ⟨rfl, rfl⟩

/-! ### Witnesses of the further clauses -/

/-- Atomics and presence operations: MISALIGNED, MMIO, a node window, a poisoned line, an address outside LOCAL and CLUSTER. -/
def sNodeAt : State := start [(4, 0x01C00000)]
theorem witness_AccessTraps_atomic : (sLoc.g 6).toNat % 4 ≠ 0 ∧ (sLoc.g 6).toNat % 8 ≠ 0 ∧ (sNodeAt.g 4).toNat % 8 = 0 ∧
    (∃ d, resolve sMmio.ctx (sMmio.g 4) .write sMmio.dev = (.ok (.mmio 0), d)) ∧
    (∃ d, resolve sNodeAt.ctx (sNodeAt.g 4) .write sNodeAt.dev = (.ok (.node 0 0 0), d)) ∧
    (∃ d, resolve sNodeAt.ctx (sNodeAt.g 4) .read sNodeAt.dev = (.ok (.node 0 0 0), d)) ∧
    sNodeAt.ctx.ap.decode (sNodeAt.g 4).toNat = some (1, 0xC00000) ∧ sPage.ctx.ap.decode (sPage.g 4).toNat = some (3, 0x40) ∧
    (∃ d, resolve (sBank true).ctx ((sBank true).g 4) .read (sBank true).dev = (.ok (.scratch 0 0x100), d)) :=
  ⟨by decide +kernel, by decide +kernel, by decide +kernel, ok_of (by decide +kernel), ok_of (by decide +kernel), ok_of (by decide +kernel),
    by decide +kernel, by decide +kernel, ok_of (by decide +kernel)⟩
/-- A strand whose release fence stands before a store of another strand that another device has not acknowledged. -/
def sBehind : State := withMe (fun st => { st with relTag := 10 })
  (withCl (fun cl => { cl with reqs := [reqOf (.strand 1) .store] }) sLoc)
theorem witness_ReleaseDrainsBuffer_fence : sBehind.dev.behindFence 0 0 = true ∧ NoSignals sBehind.dev 0 0 ∧ sLoc.dev.behindFence 0 0 = false ∧
    (∀ r ∈ ((sBehind.dev.drain 0).cl 0).reqs, r.kind = .store → r.reply = none → r.who ≠ .strand 0) ∧
    (∃ r ∈ ((sBehind.dev.drain 0).cl 0).reqs, r.kind = .store ∧ r.reply = none ∧ r.who = .strand 1) := by
  refine ⟨by decide +kernel, ?_, by decide +kernel, by decide +kernel, by decide +kernel⟩
  unfold NoSignals; decide +kernel
/-- 04 R139: an RDF of strand 1 and a TAKE of strand 2 wait for the word of register 4. -/
def reqFor (tag : Nat) (k : StrandIx) (take : Bool) (g : GReg) : Req :=
  { tag := tag, who := .strand k, kind := .presence take 0 0x100 g, addr := 0x01000100, first := 0, limit := 0, reissue := none, reply := none, member := 0, port := none, act := none }
def sServe : State :=
  let w := sLoc.dev.scratchKeyOf 0 0x100 / 8
  let b := ((sLoc.dev.cl 0).bankMap 0x100).1
  withCl (fun cl => { cl with reqs := [reqFor 9 1 false 3, reqFor 11 2 true 4], waits := [⟨b, w, false, 0, 9⟩, ⟨b, w, true, 0, 11⟩] }) sLoc
theorem witness_PresenceOperations_serve :
    let key := sServe.dev.scratchKeyOf 0 0x100
    let ws := (sServe.dev.cl 0).waits.filter (fun w => w.word = key / 8)
    smem sServe.dev.full (key / 8) = false ∧ sServe.dev.sawRemote key 8 = false ∧ smem sServe.dev.poison (key / 64) = false ∧ ws = (sServe.dev.cl 0).waits ∧
    ws.map (·.take) = [false, true] ∧ (ws.map (fun w => (w.reqCluster, w.tag))).Nodup ∧
    (sServe.dev.cl 0).reqs.find? (fun r => r.tag = 9) = some (reqFor 9 1 false 3) ∧ (sServe.dev.cl 0).reqs.find? (fun r => r.tag = 11) = some (reqFor 11 2 true 4) := by
  decide +kernel
theorem witness_PresenceOperations_released : Released sServe.dev 0 0 5 ∧ presenceTarget sServe.ctx (sServe.g 4) sServe.dev = (.ok (0, 0x100), sServe.dev) :=
  ⟨by unfold Released NoSignals Quiet; decide +kernel, presenceTarget_local (x := sServe.ctx) (by decide +kernel) (by decide +kernel) (by decide +kernel) (by decide +kernel)⟩
theorem witness_settled : sLoc.dev.sawRemote (sLoc.dev.scratchKeyOf 0 0x100) 16 = false ∧ sLoc.dev.sawRemote (sLoc.dev.scratchKeyOf 0 0x100) 8 = false ∧
    sLoc.dev.behindFence 0 0 = false ∧ sBar.dev.sawRemote (sBar.dev.scratchKeyOf 0 0x100) 16 = false ∧ sPage.dev.behindFence 0 0 = false := by decide +kernel

/-- KSTOP of a FROZEN or FAULTED region. -/
theorem witness_StopSaveRestoreStatus_void : ∀ st ∈ [RState.frozen, .faulted], let s := sKern st .running .running
    s.me.priv = true ∧ s.me.instance_ = none ∧ (s.dev.region 0 0).configured = true ∧ (s.dev.region 0 0).busy = true ∧ (s.dev.region 0 0).st = st ∧
    s.dev.gangIds 0 0 = [] := by decide +kernel
theorem kern_selects_any (st : RState) (k was : KState) (h : (st, k, was) ∈ [(RState.frozen, KState.running, KState.running), (.faulted, .running, .running),
    (.running, .running, .loaded)]) : selectorM 0 ((sKern st k was).g 4) (sKern st k was).dev = (.ok (0, 0, 0), (sKern st k was).dev) := by
  simp at h
  rcases h with ⟨rfl, rfl, rfl⟩ | ⟨rfl, rfl, rfl⟩ | ⟨rfl, rfl, rfl⟩ <;>
    exact selectorM_own (by decide +kernel) (by decide +kernel) (by decide +kernel) (by decide +kernel)
/-- KSAVE into LOCAL scratchpad: an image of a stopped region at LOCAL offset 0x100, in register 6. -/
theorem witness_StopSaveRestoreStatus_local : let s := sKern .stopped .stopped .running
    (s.g 6).toNat % 64 = 0 ∧ s.ctx.ap.decode (s.g 6).toNat = some (1, 0x100) ∧ (s.dev.weirImage 0 0).length ≤ 256 ∧
    (∀ i < 256, s.ctx.ap.decode ((s.g 6).toNat + i) = some (1, 0x100 + i)) ∧ (∀ i < 256, s.dev.bankCheck (s.dev.partOf 0) 0 (0x100 + i) = none) := by
  decide +kernel
theorem witness_StopSaveRestoreStatus_released : Released (sKern .stopped .stopped .running).dev 0 0 3 := by
  unfold Released NoSignals Quiet; decide +kernel
/-- KREST of the image that KSAVE wrote there. -/
def sSaved : State := match exec (.ksave 7 4 6) (sKern .stopped .stopped .running) with
  | .next t => t
  | _ => sLoc
theorem witness_StopSaveRestoreStatus_restore : sSaved.me.priv = true ∧ sSaved.me.instance_ = none ∧ sSaved.g 6 ≠ 0 ∧ (sSaved.dev.region 0 0).st = .stopped ∧
    imageAddrM sSaved.ctx (sSaved.g 6) sSaved.dev = (.ok (), sSaved.dev) ∧
    ∃ hd d1, imageM sSaved.ctx (sSaved.g 6) 64 sSaved.dev = (.ok hd, d1) ∧ (weirHeaderOk hd && (match imageM sSaved.ctx (sSaved.g 6) (leNat ((hd.drop 8).take 8)) d1 with
      | (.ok img, d2) => okIs (restoreM 0 0 img none (d2.acquire 0 0)).1 ()
      | _ => false)) = true :=
  ⟨by decide +kernel, by decide +kernel, by decide +kernel, by decide +kernel, imageAddrM_local (o := 0x100) (by decide +kernel) (by decide +kernel), ok_then (by decide +kernel)⟩
/-- An image of one cluster with one REGION record of a layout (07 R242, R243), or of a type that is none, at LOCAL offset 0x100; kernel 0 of region 0 is LOADED or runs. -/
def imageOf (ty layout : Nat) : List Byte :=
  let r := leBytes 2 ty ++ leBytes 2 0 ++ leBytes 4 8 ++ leBytes 8 0 ++ leBytes 8 layout ++ leBytes 8 0
  leBytes 4 0x4C4E4D46 ++ leBytes 2 1 ++ leBytes 2 1 ++ leBytes 8 96 ++ leBytes 4 0x1122 ++ leBytes 2 0 ++ leBytes 2 1 ++ leBytes 4 (crc32 r) ++ leBytes 36 0 ++ r
def sImage (ty layout : Nat) (kst : KState) : State :=
  let s := start [(4, 0x01000100), (5, 127)]
  let d := s.dev
  withCl (fun cl => cl.modReg 0 (fun r => { r with
    configured := true
    kernels := vset r.kernels 0 { Kernel.reset with cfg := some kcfg, st := kst, was := kst } }))
    (withBytes (d.scratchKeyOf 0 0x140) ((imageOf ty layout).drop 64) (withBytes (d.scratchKeyOf 0 0x100) ((imageOf ty layout).take 64) s))
/-- FLOAD up to its checks: f of the load, the device after it is read, and what the checks answer. -/
def loadRun (s : State) (sw : Bool) (f : Except Nat FabLoad → Dev → Except Err Unit → Bool) : Bool :=
  match imageM s.ctx (s.g 4) 64 (s.dev.enterLoad 0 0 ((List.finRange 72).filter (fun h => decide (0 ≤ h.val)))) with
  | (.ok hd, d1) => headerOk hd && (match ((List.range (leNat ((hd.drop 6).take 2))).mapM (fun i => clusterM 0 (if 0 + i = 127 then 126 else 0 + i) (s.g 5)) : M (List ClusterId)) d1 with
    | (.ok cs, d2) => decide (cs = [0]) && (match loadTurnM 0 0 cs d2 with
      | (.ok _, d3) => (match imageM s.ctx (s.g 4) (headerLength hd) d3 with
        | (.ok img, d4) => f (parseLoad img) d4 (match parseLoad img with
          | .ok l => (loadChecksM 0 l 0 cs sw d4).1
          | .error _ => .ok ())
        | _ => false)
      | _ => false)
    | _ => false)
  | _ => false
/-- The checks of cluster 0 and of the streams. -/
def loadFits (l : FabLoad) (d : Dev) : Bool :=
  okIs ((d.cl 0).checkLoad l (l.of 0) (decide (d.partOf (pairCluster 0) = d.partOf 0) && (d.partOf 0).isSome)) () &&
    okIs (streamsOk l (fun i => match clusterNo (0 + i) with
      | some k => (d.cl k).withLoad l (l.of i)
      | none => Cluster.reset)) ()
theorem witness_FabricTraps_parse : loadRun (sImage 15 0 .loaded) true (fun l _ _ => errIs l 64) = true := by decide +kernel
theorem witness_FabricTraps_layout : loadRun (sImage 1 1 .running) true (fun l d e => match l with
    | .ok l => loadFits l d && decide (loadLayout (d.cl 0) (l.of 0) ≠ (d.cl 0).layout.toNat) && (d.cl 0).fab.regions.toList.any Region.live &&
        errIs e (.trap .configInvalid 0 2)
    | .error _ => false) = true := by decide +kernel
theorem witness_FabricTraps_live : loadRun (sImage 1 0 .running) false (fun l d e => match l with
    | .ok l => loadFits l d && decide (loadLayout (d.cl 0) (l.of 0) = (d.cl 0).layout.toNat) && decide (loadRegions (d.cl 0) (l.of 0) = [0]) &&
        ((d.cl 0).region 0).live && errIs e (.trap .configInvalid 0 3)
    | .error _ => false) = true := by decide +kernel
/-- A region record that names no cell plane fits: the load is made. -/
theorem witness_FabricLoad_region : loadRun (sImage 1 0 .loaded) false (fun l _ e => l.toOption.isSome && okIs e ()) = true := by decide +kernel
theorem witness_FabricTraps_header : imageAddrM sLoc.ctx (sLoc.g 4) sLoc.dev = (.ok (), sLoc.dev) ∧
    (∃ hd d1, imageM sLoc.ctx (sLoc.g 4) 64 (sLoc.dev.enterLoad 0 0 ((List.finRange 72).filter (fun k => decide (0 ≤ k.val)))) = (.ok hd, d1) ∧ (!headerOk hd) = true) :=
  ⟨imageAddrM_local (o := 0x100) (by decide +kernel) (by decide +kernel), ok_then (by decide +kernel)⟩
/-- Cluster 1 is of no partition: a selector of it, and an image whose base it is. -/
def sOut : State := withMe (fun st => (st.setG 4 0x10).setG 5 1) (sLoad false)
theorem witness_FabricTraps_outside : (sOut.g 4).toNat / 16 % 128 = 1 ∧ sOut.dev.partOf 1 = none ∧ sOut.dev.partOf 0 = some 0 ∧ sOut.me.priv = true ∧
    (∃ hd d1, imageM sOut.ctx 0x01000100 64 (sOut.dev.enterLoad 0 0 ((List.finRange 72).filter (fun k => decide (1 ≤ k.val)))) = (.ok hd, d1) ∧
      (headerOk hd && decide (leNat ((hd.drop 6).take 2) = 1) && decide (d1.partOf 1 = none)) = true) :=
  ⟨by decide +kernel, by decide +kernel, by decide +kernel, by decide +kernel, ok_then (by decide +kernel)⟩
/-- A region beyond the layout; a kernel that no load has configured; KRUN's other refusals; a region in the wrong state. -/
theorem witness_FabricTraps_region : let s := start [(4, 0x7F4)]
    layoutRegions (s.dev.cl 0).layout.toNat ≤ (s.g 4).toNat / 4 % 4 ∧ (match clusterM 0 127 (s.g 4) s.dev with
      | (.ok h, _) => decide (h = 0)
      | _ => false) = true ∧ (vget ((start [(4, 0x7F0)]).dev.region 0 0).kernels 0).cfg = none ∧ ((start [(4, 0x7F0)]).dev.region 0 0).configured = false := by
  decide +kernel
theorem selects_start : selectorM 0 ((start [(4, 0x7F0)]).g 4) (start [(4, 0x7F0)]).dev = (.ok (0, 0, 0), (start [(4, 0x7F0)]).dev) :=
  selectorM_own (by decide +kernel) (by decide +kernel) (by decide +kernel) (by decide +kernel)
theorem witness_FabricTraps_krun :
    let s := sKern .idle .loaded .loaded
    let conflict := withCl (fun cl => cl.modReg 0 (fun r => { r with kernels := vset r.kernels 1 { Kernel.reset with cfg := some kcfg, st := .running } })) s
    let block : AgBlock := { blk0 with words := vset blk0.words 0 0x1000000000000000 }
    let wide := withCl (fun cl => { cl with fab := { cl.fab with agens := vset cl.fab.agens 0 { Agen.reset with region := some 0, blocks := vset Agen.reset.blocks 0 (some block) } } }) s
    (sKern .stopped .stopped .running).me.instance_ = none ∧ ((sKern .stopped .stopped .running).dev.region 0 0).st = .stopped ∧
    (withMe (fun st => { st with roundLen := 0 }) s).me.roundLen = 0 ∧ s.me.roundLen.toNat = 1 ∧ kcfg.rlen = 0 ∧
    (conflict.dev.region 0 0).slotConflict 0 = true ∧ (s.dev.region 0 0).slotConflict 0 = false ∧ (vget (conflict.dev.region 0 0).kernels 0).st = .loaded ∧
    (wide.dev.cl 0).krunFits 0 0 1 1 = false ∧ (s.dev.region 0 0).st = .idle ∧ (s.dev.region 0 0).live = false ∧ s.me.priv = true := by decide +kernel
/-- KREST of bytes that are no header, and of an image of another load. -/
theorem witness_FabricTraps_image : let s := sKern .stopped .stopped .running
    let u := withCl (fun cl => cl.modReg 0 (fun r => { r with loadId := 7 })) sSaved
    s.g 6 ≠ 0 ∧ (s.dev.region 0 0).configured = true ∧ (s.dev.region 0 0).st = .stopped ∧
    (∃ hd d1, imageM s.ctx (s.g 6) 64 s.dev = (.ok hd, d1) ∧ (!weirHeaderOk hd) = true) ∧
    ∃ hd d1, imageM u.ctx (u.g 6) 64 u.dev = (.ok hd, d1) ∧ (weirHeaderOk hd && (match imageM u.ctx (u.g 6) (leNat ((hd.drop 8).take 8)) d1 with
      | (.ok img, d2) => ((d2.acquire 0 0).parseWeir 0 0 img).isNone
      | _ => false)) = true :=
  ⟨by decide +kernel, by decide +kernel, by decide +kernel, ok_then (by decide +kernel), ok_then (by decide +kernel)⟩
/-- A control strand whose region holds contexts, its own waiting or none of them its own; image addresses that are not aligned or lie in no window of memory. -/
def sCtl (id : Nat) : State := withMe (fun st => { st with instance_ := some id }) (withCl (fun cl => cl.modReg 0 (fun r => { r with
  ctxs := [⟨5, 1, 0, none, 1, 0, 0, 0, none, false, false, true, false, 3⟩, ⟨6, 1, 0, none, 1, 0, 0, 0, none, false, false, false, false, 3⟩] })) (sKern .stopped .stopped .running))
theorem witness_StopSaveRestoreStatus_context : (sCtl 6).me.instance_ = some 6 ∧ ((sCtl 6).dev.region 0 0).configured = true ∧
    ((((sCtl 6).dev.region 0 0).ctxs.find? (fun w => w.inst = 6)).map (·.running)) = some false := by decide +kernel
theorem witness_FabricTraps_context : (sCtl 9).me.instance_ = some 9 ∧ ((sCtl 9).dev.region 0 0).ctxs ≠ [] ∧ (∀ u ∈ ((sCtl 9).dev.region 0 0).ctxs, u.inst ≠ 9) ∧
    (vget ((sCtl 9).dev.region 0 0).kernels 0).cfg = some kcfg ∧ (sCtl 9).g 5 = 0 ∧ (sCtl 9).me.priv = true := by decide +kernel
theorem witness_FabricTraps_address : (sKern .idle .loaded .loaded).g 4 = 0x7F0 ∧ (0x7F0 : Word).toNat % 64 ≠ 0 ∧ sLoc.ctx.ap.decode 0x7000 = none ∧
    (sLoc.g 6).toNat % 64 ≠ 0 ∧ (start [(4, 0x7000)]).ctx.ap.decode ((start [(4, 0x7000)]).g 4).toNat = none ∧ (0x7000 : Nat) % 64 = 0 := by decide +kernel

/-- A token in LOCAL scratchpad, at register 4: the answers of GLAUNCH follow the arms of its statement. -/
def sTok (l : List Nat) : State :=
  let s := withMe (fun st => st.setG 4 0x01000100) (sGraph [])
  withBytes (s.dev.scratchKeyOf 0 0x100) (wordsB l) s
def tokOf (s : State) : HandTok := ⟨words8 (memReadN s.dev.mem (s.dev.scratchKeyOf 0 0x100) 64), 0, .strand 0 0, 3, 15, false⟩
theorem witness_GraphLaunch_admit : errIs ((sTok [0x100000401]).dev.admitToken (tokOf (sTok [0x100000401]))).1 2 = true ∧
    (∀ l ∈ [[0x100000001], [0x900000001], [0x100000001, 0x900000]], tokKind (tokOf (sTok l)).token = 1 ∧ (match (sTok l).dev.admitToken (tokOf (sTok l)) with
      | (.ok ge, e1) => (match e1.versionRec 0 ge (tokVersion (tokOf (sTok l)).token) with
        | (some vr, e2) => decide (l ≠ [0x900000001]) && (match e2.tokAddrsOk 0 0 ge (tokOf (sTok l)).token vr with
          | (b, _) => decide (b = (l.length == 1)))
        | (none, _) => decide (l = [0x900000001]))
      | _ => false) = true) ∧ ((sTok [0x100000001]).dev.die 0).queueLen 0 < 64 ∧ tokKind (tokOf (sTok [0x100004])).token = 4 ∧
    tokKind (tokOf (sTok [0x2])).token = 2 := by decide +kernel
/-- A MONWAIT of a strand with IE = 0, and a cause for it. -/
theorem witness_LaunchesAndEndsOfWaits_monwait :
    let rep : Report := ⟨.peer 0 0, 0, 0, .protection, 0xFF, 0⟩
    let u := withMe (fun st => { st with ie := false, state := .wait .monwait false }) { sMon false with dev := { (sMon false).dev with reports := [rep] } }
    (u.dev.strand 0 0).ie = false ∧ u.dev.pending 0 0 = some rep ∧ (u.dev.strand 0 0).state = .wait .monwait false ∧
    u.dev.monitors.find? (fun x => x.c = 0 && x.k = 0) = some ⟨0, 0, 5, false⟩ := by decide +kernel
theorem witness_MemoryAtHomes : pend0.dest = .phys 0 0 false ∧ pend0.cells ≠ [] ∧ (∀ e ∈ pend0.cells, e.1 / 64 = 1) ∧ (pend0.cells.map (·.1)).Nodup ∧
    paClass (64 * 1) < 2 ∧ pend0.va = none ∧ (sBuf.dev.part 0).tr.accMode = 0 ∧ Memory.wf sBuf.dev.mem = true ∧ List.Pairwise (· < ·) (sBuf.dev.enc.map (·.1)) ∧
    sBuf.dev.signalWaits sBuf.ctx (.phys 0 0x40 0 false) = false ∧ 0x40 % 64 + 8 ≤ 64 := by decide +kernel
/-- 04 R123: the byte that a buffered write of the cluster holds is the one that its agents read; at the home it is not there yet. -/
theorem test_read_overlays : okIs (readT sBuf.ctx 0x10000040 (.phys 0 0x40 0 false) 2 false sBuf.dev).1 ([7, 0], false) = true ∧
    (sBuf.dev.homeRead 0 0x40 2 0 false false).1.1 = [0, 0] := by decide +kernel
/-- The chunk of a draining half that is poisoned, and a place past the end of the node's 256 KiB. -/
theorem witness_NodeChunks_poison : let h : NodeChunk := ⟨32, List.replicate 32 5, true, .drain 0 0⟩
    smem (sNode 1).dev.poison (nodeKey 0 0 32 / 64) = false ∧ h.poison = true ∧ h.owner = .drain 0 0 ∧ h.data.length = 32 ∧
    nodeKey 0 0 ((15 * (63 * 4096) + 32) % 2 ^ 18) % 64 + 32 ≤ 64 := by decide +kernel
/-- A signal operation that waits to write a page translated before. -/
theorem witness_InvalidationAndAccessCounts_signal :
    let s := withCl (fun cl => { cl with signals := [⟨0, 0x10000040, .phys 0 0x40 0 false, 1, false, [7], none⟩] }) sPage
    s.dev.partOf 0 = some 0 ∧ s.dev.signalsInUse 0 = true ∧ (∀ c, sPage.dev.partOf c = some 0 → sPage.dev.pagesInUse c = false ∧ sPage.dev.signalsInUse c = false) ∧
    (∀ c, sPage.dev.partOf c = some 0 → (sPage.dev.cl c).buffer = []) := by decide +kernel
theorem witness_PartitionCommands_kept : let s := { sPart .resetting with dev := (sPart .resetting).dev.modPart 0 (fun p => { p with after := .kept }) }
    (s.dev.part 0).state = .resetting ∧ (s.dev.part 0).after = .kept ∧ (s.dev.part 0).heldCmds = [] ∧ State.reset.dev.phases.getLsbD 1 = false ∧
    (0x4000000000000000 : Word).getLsbD 62 = true ∧ (0x4000000000000000 : Word).getLsbD 63 = false ∧ (0x2000000000000000 : Word).getLsbD 61 = true ∧
    (∀ q, q ≠ 0 → ((sPart .off).dev.part q).state = .off) := by decide +kernel
theorem witness_Watchdog_stages : ((sDog (2 ^ 20 + 1)).dev.part 0).db.wdStage = 0 ∧ ((sDog 0).dev.part 0).db.wdFrom + 2 ^ 20 ≤ (sDog (2 ^ 20 + 1)).dev.now ∧
    (sDog 5).dev.now < ((sDog 5).dev.part 0).db.wdFrom + ((sDog 5).dev.part 0).db.wdLimit.toNat * 2 ^ 20 ∧ (sDog 0).dev.partOf 0 = some 0 := by decide +kernel
theorem witness_Links_numbers : let d := { sLoc.dev with seqs := [(((sLoc.dev.partOf 0).map (fun (p : PartId) => p.val)).getD 8 * 4096 + reqLoad.member, 65535)] }
    reqLoad.act.isSome = true ∧ tget d.seqs (((d.partOf 0).map (fun (p : PartId) => p.val)).getD 8 * 4096 + reqLoad.member) = some 65535 ∧ (5, 9) ∉ sLoc.dev.received ∧
    (5, 9) ∈ ({ sLoc.dev with received := [(5, 9)] } : Dev).received ∧ (8 * 5 + 0, 9) ∉ sLoc.dev.performed := by decide +kernel
/-- A matrix instance whose last chunk is done, 16 cycles and its chunk's time ago; one whose region stops. -/
theorem witness_MatrixOperations_halt : let s := sMx (mxE 1 1) (some (0, 0)) 1
    let u := withCl (fun cl => { cl with fab := { cl.fab with nodes := vmod cl.fab.nodes 0 (fun m => { m with region := some 0 }), regions := vmod cl.fab.regions 0 (fun r => { r with st := .stopping, stop := true, weir := .wrap }) } }) s
    mxQ (mxE 1 1) = 1 ∧ s.dev.nodeStops 0 0 = false ∧ 0 + 16 + (mxQ (mxE 1 1) - 0) * mxChunkTime (mxE 1 1) ≤ s.dev.now + 1 ∧
    u.dev.nodeStops 0 0 = true ∧ u.dev.nodeRuns 0 0 = true := by decide +kernel
/-- A command with REL whose sender still has a signal operation to perform, and one whose sender has none. -/
theorem witness_CommandStarts_release : let k := cmd0 0x0104200000000040 0 0 false
    let s := sCmd 0 k
    let u := withCl (fun cl => { cl with signals := [⟨0, 0x01000100, .scratch 0 0x100, 1, false, [7], none⟩] }) s
    pkRel k.w = true ∧ k.after = none ∧ k.sender.c = 0 ∧ k.sender.k = 0 ∧ (s.dev.cl 0).signals = [] ∧ s.dev.mayStart 0 0 k = true ∧ u.dev.mayStart 0 0 k = true ∧
    (u.dev.queue 0 0).oldest = some k ∧ (∃ x ∈ (u.dev.cl k.sender.c).signals, x.k = k.sender.k) ∧ okIs (release 0 (pkScope k.w) s.dev).1 () = true := by decide +kernel

/-! ### Cells -/

/-- An element of a vector, of w bits. -/
def elAt (w : Nat) (v : V256) (j : Nat) : Nat := v.toNat / 2 ^ (w * j) % 2 ^ w
/-- A word of an operation over int8, int32 or f32 elements: operands a and b, every element enabled. -/
def cellIn (op : CellOp) (fmt mod sb : Nat) (a b : Nat) : CellIn :=
  { w := ⟨op, fmt, 1, 0, sb, false, 0, 0, mod⟩, a := ⟨BitVec.ofNat 256 a, 0, 0⟩, b := ⟨BitVec.ofNat 256 b, 0, 0⟩, c := VecVal.zero, quad := [],
    guard := 0xFFFFFFFF, p := 0, q := 0, const := 0, mode := 0, ftz := false, lfsr := 1 }
/-- 08 R260: IADD of int8 wraps, and with SAT (bit 3) clamps; with U too (bit 0) it clamps at 255. -/
theorem test_cell_iadd : elAt 8 (cellCompute (cellIn .iadd 2 0 0 0x7F 2)).1.val 0 = 0x81 ∧ elAt 8 (cellCompute (cellIn .iadd 2 8 0 0x7F 2)).1.val 0 = 0x7F ∧
    elAt 8 (cellCompute (cellIn .iadd 2 9 0 0xFE 2)).1.val 0 = 0xFF := by decide +kernel
/-- 08 R261: SHL by the width or more is 0, SHA then all sign bits. -/
theorem test_cell_shift : elAt 32 (cellCompute (cellIn .shl 0 0 0 0x80000001 32)).1.val 0 = 0 ∧
    elAt 32 (cellCompute (cellIn .sha 0 0 0 0x80000001 40)).1.val 0 = 0xFFFFFFFF := by decide +kernel
/-- 08 R266: FADD of f32: 1.0 + 1.0. -/
theorem test_cell_fadd : elAt 32 (cellCompute (cellIn .fadd 3 0 0 0x3F800000 0x3F800000)).1.val 0 = 0x40000000 := by decide +kernel
theorem witness_CellOperations : (0 : Nat) < 32 / fmtB (cellIn .iadd 2 0 0 1 2).w.fmt ∧ (31 : Nat) < 32 / fmtB (cellIn .iadd 2 0 0 1 2).w.fmt ∧
    (∀ f ∈ [3, 4, 5], 3 ≤ (cellIn .fadd f 0 0 1 2).w.fmt ∧ (0 : Nat) < 32 / fmtB (cellIn .fadd f 0 0 1 2).w.fmt) ∧
    (∀ t ∈ [3, 4, 5, 6, 7], CellOp.targetOk .cvtff t = true ∧ CellOp.targetOk .cvtif t = true ∧ 0 < Nat.min (32 / fmtB 3) (256 / targetBits t)) ∧
    (∀ t ∈ [0, 1, 2], CellOp.targetOk .cvtfi t = true ∧ CellOp.targetOk .cvtii t = true) ∧ CellOp.targetOk .cvtii 9 = true ∧
    CellOp.rounds .fadd = true ∧ (cellIn .fadd 3 0 0 1 2).mode ≠ 5 ∧ ({ cellIn .fadd 3 0 0 1 2 with mode := 5 } : CellIn).mode = 5 := by decide +kernel
/-- Every operation that the statements name with special values meets one: a zero, an infinity, a NaN, a negative number. -/
theorem witness_CellOperations_values : (inFmt 3).read false 0 = .num false 0 (-149) ∧ (inFmt 3).read false 0x7F800000 = .inf false ∧ (inFmt 3).read false 0xFF800000 = .inf true ∧
    (inFmt 3).read false 0x7FC00000 = .nan ∧ (match (inFmt 3).read false 0xBF800000 with | .num true (_ + 1) _ => true | _ => false) = true := by decide +kernel
/-- 02 R49: a word of latency 1 in cell 9 of region 0, alone in its slot. -/
def turn9 : CellTurn := ⟨9, 0, ⟨.iadd, 0, 1, 0, 0, false, 0, 0, 0⟩, 0, 0, ⟨VecVal.zero, none, 0, true, 0, none⟩, false, cellIn .iadd 2 0 0 1 2, none⟩
def flight9 : Flight := ⟨0, 9, 0, .v 1, 3, 0, BitVec.allOnes 256, true, 1, none, 0⟩
theorem witness_CellEffects : turn9.i < 64 ∧ turn9.w.op.latency = 1 ∧ turn9.w.op ≠ .nop ∧ (sLoc.dev.region 0 0).flights = [] ∧ (∀ n < 5, routeOut turn9.route n < 2) ∧
    (sLoc.dev.cl 0).portOf turn9.i true = none ∧ turn9.port.port = none ∧ (cellRegion 0 1 = 0) ∧ flight9.dst = .v 1 ∧ flight9.toPrev = true ∧
    turn9.flights (cellCompute turn9.x).1 0 (vget (sLoc.dev.region 0 0).kernels 0) Live.none ≠ [] := by decide +kernel
/-- 02 R54: a value on a clockwise and on a counter-clockwise lane. -/
def rimAt (lane st ofs : Nat) (there : Bool) : RimVal := ⟨VecVal.zero, 0, lane, st, 9, ofs, there⟩
theorem test_rim_moves : (moveRim [rimAt 3 15 0 false]).map (·.station) = [0] ∧ (moveRim [rimAt 4 0 0 false]).map (·.station) = [15] ∧
    (moveRim [rimAt 0 3 2 false]).map (fun v => (v.station, v.ofs)) = [(3, 1)] := by decide +kernel

/-! ### Dispatchers, regions, the outside -/

/-- Window 0 holds a token and is the first of its rotation that can give one; window 1 waits its turn. -/
def sRot (next : Nat) : State :=
  let s := sGraph [tok0 1]
  let d := s.dev.modDb 0 (fun b => { b with windows := vset b.windows 1 { (vget b.windows 1) with en := true, kmask := 15, fifo := [tok0 2] } })
  { s with dev := d.modDie 0 (fun x => { x with winNext := next }) }
theorem witness_IngressWindows_rotation : (sRot 0).dev.windowsOf 0 = [] ++ (0, 0) :: [(0, 1)] ∧ ((sRot 0).dev.windowsOf 0).find? (sRot 0).dev.mayTake = some (0, 0) ∧
    ((sRot 1).dev.windowsOf 0).find? (sRot 1).dev.mayTake = some (0, 1) ∧ (vget ((sRot 1).dev.part 0).db.windows 1).fifo = [tok0 2] ∧
    ((sRot 1).dev.windowsOf 0).find? (sRot 1).dev.mayTake ≠ some (0, 0) ∧ ((sHand 2 []).dev.die 0).hand ≠ none ∧
    (vget ((sRot 0).dev.part 0).db.windows 0).die = 0 ∧ ((sRot 0).dev.die 0).hand = none := by decide +kernel
/-- PREEMPT of an instance whose context runs on region 0, through a port there or with none, or waits there; the version record names port 0. -/
def sPre (port run : Bool) : State :=
  let s := sHand 0xFFFF000000000002 [inst0 .running 3]
  let s := withCl (fun cl => cl.modReg 0 (fun r => { r with
    st := .running
    ctxs := [{ ctxA 1 0 run with inst := 5 }]
    kernels := vset r.kernels 0 { Kernel.reset with cfg := some kcfg, st := .running, was := .loaded } })) s
  if port then withCl (fun cl => { cl with fab := { cl.fab with ports := vset cl.fab.ports 0 { (vget cl.fab.ports 0) with cfg := some inPort } } }) s else s
theorem witness_Tokens_preempt_context : ∀ b ∈ [true, false], ∀ run ∈ [true, false], let s := sPre b run
    (match (s.dev.modDie 0 (fun x => { x with hand := none })).admitToken (tokH 0xFFFF000000000002) with
      | (.ok _, d1) => decide ((d1.instances 0).filter (fun i => i.state != .waiting && i.tagged 0 0xFFFF) = [inst0 .running 3]) && decide (d1.ctxRegions 0 5 = [(0, 0)]) &&
          decide ((∃ q ∈ (d1.cl 0).portsBound 0, q.2 = false) ↔ b = true) && decide ((∃ v ∈ (d1.region 0 0).ctxs, v.inst = 5 ∧ v.running = true) ↔ run = true) &&
          decide ((d1.region 0 0).st = .running) && (d1.region 0 0).busy && decide (d1.gangIds 0 0 = []) && decide (d1.portRegion 0 0 = if b then some 0 else none)
      | _ => false) = true ∧ ((inst0 .running 3).ports.map (·.2)).Nodup ∧ (inst0 .running 3).ports.map (·.2) = [(0, 0)] := by decide +kernel
/-- A MARKER for an empty port without PUNCT. -/
theorem witness_Tokens_marker : let p := vget (sData.dev.cl 0).fab.ports 0
    p.rest = [] ∧ (dataTokPacket (vset (tok0 0xFFFF000000000004) 1 0x10000) 0).kind = 1 ∧ inPort.punct = false := by decide +kernel
theorem witness_InstanceLife_signals : ((sHand 2 [inst0 .running 3]).dev.cl 0).signals = [] := by decide +kernel
/-- The next context stands lower; the region is FAULTED; a supervisor has stopped the running context. -/
theorem witness_RegionScheduler_lower : let x := (sCtx 0 false).dev.region 0 0
    let y := (withCl (fun cl => cl.modReg 0 (fun r => { r with st := .faulted })) (sCtx 2 false)).dev.region 0 0
    let z := (withCl (fun cl => cl.modReg 0 (fun r => { r with ctxs := r.ctxs.map (fun t => if t.running then { t with stoppedBySup := true } else t) })) (sCtx 2 false)).dev.region 0 0
    x.nextCtx = some (ctxA 0 8 false) ∧ x.effOf (ctxA 0 8 false) < x.effOf (ctxA 1 0 true) ∧ y.st = .faulted ∧ y.rotate = false ∧ y.nextCtx = some (ctxA 2 8 false) ∧
    y.effOf (ctxA 1 0 true) < y.effOf (ctxA 2 8 false) ∧ z.runner = some { ctxA 1 0 true with stoppedBySup := true } ∧ z.live = true ∧ z.nextCtx = some (ctxA 2 8 false) := by decide +kernel
/-- The region stands STOPPED for the waiting context, whose image lies in slot 0; slot 1 is free. -/
def sTurn : State :=
  let s := withCl (fun cl => cl.modReg 0 (fun r => { r with
    ctxs := [{ ctxA 1 0 true with loadId := 0 }, { ctxA 1 0 false with loadId := 0, slot := some 0 }]
    rotate := true
    st := .stopped
    kernels := vset r.kernels 0 { (vget r.kernels 0) with st := .stopped } })) sSwitch
  { s with dev := s.dev.modDb 0 (fun b => { b with ctxCnt := 2 }) }
theorem witness_RegionScheduler_turn : let x := sTurn.dev.region 0 0
    let w : RegCtx := { ctxA 1 0 false with loadId := 0, slot := some 0 }
    x.runner = some { ctxA 1 0 true with loadId := 0 } ∧ x.nextCtx = some w ∧ x.rotate = true ∧ x.st = .stopped ∧ w.pre = false ∧ (match sTurn.dev.takeSlot 0 w with
      | (some b, d1) => (match d1.saveContext 0 0 0 with
        | some d2 => (d2.restoreContext 0 0 0 w b).1
        | none => false)
      | _ => false) = true := by decide +kernel
theorem witness_ExportedAccess_incoming : let d := { sExp.dev with received := [(5, 9)] }
    (5, (9 : BitVec 16).toNat) ∈ d.received ∧ (5 * 8 + 0, (9 : BitVec 16).toNat) ∉ d.performed ∧ d.exportAt 0 (some 5) 0xF000000100 8 false = some (.scratch 0 0x100) := by decide +kernel
theorem witness_PlatformEvents_held : (sPart .ready).dev.heldPctl = [] ∧ (sPart .off).dev.heldPctl = [] ∧ State.reset.dev.heldPctl = [] := by decide +kernel
theorem witness_StepRunsDecoded_counts : let s := State.reset.withFetchWord 32 0x08600005
    run (.addi 3 0 5) s (fun u => !u.counted.dev.fenceMet) = true ∧ s.me.ie = false ∧ s.dev.takesAsync 0 0 = true := by decide +kernel
theorem witness_DecodeEncode_rows : (Instr.li64 7 true 0x12345678).ctorIdx = 110 ∧ (Instr.asyncTrapEntry 0 0).ctorIdx = 111 ∧ (Instr.add 1 2 3).ctorIdx = 0 := by decide
end Sys2Proof.Tests
end

/-! What each field of an encoded word reads: the decoder's accessors over the encoder's forms A, I and MEMX (07 R230, R231, R233). -/

namespace Sys2Proof

/-! ### Fields of form A -/

section FormA
variable {maj d a b fn : Nat}

theorem encA_lt (hm : maj < 64) (hd : d < 32) (ha : a < 32) (hb : b < 32) (hf : fn < 2 ^ 11) :
    encA maj d a b fn < 2 ^ 32 := by
  unfold encA; omega

@[simp high] theorem fld_major_encA (hm : maj < 64) (hd : d < 32) (ha : a < 32) (hb : b < 32) (hf : fn < 2 ^ 11) :
    fld (encA maj d a b fn) 31 26 = maj := by
  unfold fld encA; omega

@[simp] theorem rd_encA (hd : d < 32) (ha : a < 32) (hb : b < 32) (hf : fn < 2 ^ 11) :
    rd (encA maj d a b fn) = ⟨d, hd⟩ := by
  ext; simp only [rd, gfld, encA]; omega

@[simp] theorem ra_encA (ha : a < 32) (hb : b < 32) (hf : fn < 2 ^ 11) : ra (encA maj d a b fn) = ⟨a, ha⟩ := by
  ext; simp only [ra, gfld, encA]; omega

@[simp] theorem rb_encA (hb : b < 32) (hf : fn < 2 ^ 11) : rb (encA maj d a b fn) = ⟨b, hb⟩ := by
  ext; simp only [rb, gfld, encA]; omega

@[simp] theorem ffld_rd_encA (hd : d < 16) (ha : a < 32) (hb : b < 32) (hf : fn < 2 ^ 11) :
    ffld (encA maj d a b fn) 21 = ⟨d, hd⟩ := by
  ext; simp only [ffld, encA]; omega

@[simp] theorem ffld_ra_encA (ha : a < 16) (hb : b < 32) (hf : fn < 2 ^ 11) : ffld (encA maj d a b fn) 16 = ⟨a, ha⟩ := by
  ext; simp only [ffld, encA]; omega

@[simp] theorem ffld_rb_encA (hb : b < 16) (hf : fn < 2 ^ 11) : ffld (encA maj d a b fn) 11 = ⟨b, hb⟩ := by
  ext; simp only [ffld, encA]; omega

theorem isF_iff (w lo : Nat) : isF w lo = true ↔ (gfld w lo).val < 16 := by
  simp [isF, gfld]

@[simp] theorem isF_rd_encA (hd : d < 16) (ha : a < 32) (hb : b < 32) (hf : fn < 2 ^ 11) :
    isF (encA maj d a b fn) 21 = true := by
  rwa [isF_iff, ← rd, rd_encA (by omega) ha hb hf]

@[simp] theorem isF_ra_encA (ha : a < 16) (hb : b < 32) (hf : fn < 2 ^ 11) : isF (encA maj d a b fn) 16 = true := by
  rwa [isF_iff, ← ra, ra_encA (by omega) hb hf]

@[simp] theorem isF_rb_encA (hb : b < 16) (hf : fn < 2 ^ 11) : isF (encA maj d a b fn) 11 = true := by
  rwa [isF_iff, ← rb, rb_encA (by omega) hf]

/-- SRD and SWR hold the upper five bits of the register number in the place of b (07 R235). -/
@[simp] theorem ofNat_rb_encA (hf : fn < 2 ^ 11) : BitVec.ofNat 5 (encA maj d a b fn / 2048) = BitVec.ofNat 5 b := by
  unfold encA; bv_omega

@[simp high] theorem fld_rb_encA (hb : b < 32) (hf : fn < 2 ^ 11) : fld (encA maj d a b fn) 15 11 = b := by
  unfold fld encA; omega

/-- The kind of a shift by an immediate reaches across b and fn (07 R231). -/
@[simp high] theorem fld_shiftKind_encA (hb : b < 32) (hf : fn < 2 ^ 11) :
    fld (encA maj d a b fn) 15 6 = b * 32 + fld fn 10 6 := by
  unfold fld encA; omega

/-! The fields below bit 11 are those of fn. -/

theorem encA_mod (k : Nat) (hk : k ≤ 11) : encA maj d a b fn % 2 ^ k = fn % 2 ^ k := by
  obtain ⟨m, hm⟩ : 2 ^ k ∣ 2 ^ 11 := Nat.pow_dvd_pow 2 hk
  have : encA maj d a b fn = fn + 2 ^ k * (m * (maj * 2 ^ 15 + d * 2 ^ 10 + a * 2 ^ 5 + b)) := by
    rw [← Nat.mul_assoc, ← hm]; unfold encA; omega
  rw [this, Nat.add_mul_mod_self_left]

@[simp high] theorem fld_encA (hi lo : Nat) (hlo : lo ≤ hi) (hhi : hi ≤ 10) :
    fld (encA maj d a b fn) hi lo = fld fn hi lo := by
  have e : 2 ^ (hi + 1) = 2 ^ lo * 2 ^ (hi - lo + 1) := by rw [← Nat.pow_add]; congr 1; omega
  simp only [fld, ← Nat.mod_mul_right_div_self, ← e, encA_mod (hi + 1) (by omega)]

@[simp] theorem ofNat_encA (k : Nat) (hk : k ≤ 11) : BitVec.ofNat k (encA maj d a b fn) = BitVec.ofNat k fn :=
  BitVec.eq_of_toNat_eq (by simpa only [BitVec.toNat_ofNat] using encA_mod k hk)

@[simp] theorem encA_mod_two : encA maj d a b fn % 2 = fn % 2 := encA_mod 1 (by decide)

@[simp] theorem encA_div_two_mod_two : encA maj d a b fn / 2 % 2 = fn / 2 % 2 := fld_encA 1 1 (by decide) (by decide)

@[simp] theorem encA_div_64_mod_two : encA maj d a b fn / 64 % 2 = fn / 64 % 2 := fld_encA 6 6 (by decide) (by decide)

@[simp] theorem scopeField_encA : scopeField (encA maj d a b fn) = scopeField fn := by
  unfold scopeField encA; bv_omega

@[simp] theorem ordField_encA : ordField (encA maj d a b fn) = ordField fn := by
  unfold ordField encA; bv_omega

@[simp] theorem wField_encA : wField (encA maj d a b fn) = wField fn := by
  simp only [wField, encA_mod_two]

end FormA

/-! ### Fields of fn: a function number with operands below it -/

/-- A field by arithmetic, to evaluate it on a literal; the lemmas on fields of encodings come before it (simp high). -/
theorem fld_eq (w hi lo : Nat) : fld w hi lo = w / 2 ^ lo % 2 ^ (hi - lo + 1) := rfl

section Fn
variable {c n hi lo : Nat} {sc : BitVec 3}

@[simp high] theorem fld_add (hn : n < 2 ^ lo) (hc : c % 2 ^ lo = 0) : fld (c + n) hi lo = fld c hi lo := by
  obtain ⟨k, rfl⟩ := Nat.dvd_of_mod_eq_zero hc
  have hpos : 0 < 2 ^ lo := Nat.two_pow_pos lo
  rw [fld, fld, Nat.add_comm, Nat.add_mul_div_left _ _ hpos, Nat.div_eq_of_lt hn, Nat.zero_add,
    Nat.mul_div_cancel_left _ hpos]

@[simp high] theorem fld_of_lt (hn : n < 2 ^ lo) : fld n hi lo = 0 := by
  rw [fld, Nat.div_eq_of_lt hn, Nat.zero_mod]

@[simp high] theorem fld_add_add {m : Nat} (hn : m + n < 2 ^ lo) (hc : c % 2 ^ lo = 0) :
    fld (c + m + n) hi lo = fld c hi lo := by
  rw [Nat.add_assoc, fld_add hn hc]

@[simp high] theorem fld_add_of_mod (hlo : lo ≤ hi) (hc : c % 2 ^ (hi + 1) = 0) : fld (c + n) hi lo = fld n hi lo := by
  have e : 2 ^ (hi + 1) = 2 ^ lo * 2 ^ (hi - lo + 1) := by rw [← Nat.pow_add]; congr 1; omega
  rw [fld, ← Nat.mod_mul_right_div_self, ← e, Nat.add_mod, hc, Nat.zero_add, Nat.mod_mod, e, Nat.mod_mul_right_div_self, fld]

@[simp high] theorem fld_of_mod (hlo : lo ≤ hi) (hn : n % 2 ^ (hi + 1) = 0) : fld n hi lo = 0 := by
  rw [← Nat.add_zero n, fld_add_of_mod hlo hn, fld_of_lt (Nat.two_pow_pos lo)]

@[simp] theorem ofNat_add_toNat {k : Nat} {x : BitVec k} (hc : c % 2 ^ k = 0) : BitVec.ofNat k (c + x.toNat) = x :=
  BitVec.eq_of_toNat_eq (by rw [BitVec.toNat_ofNat, Nat.add_mod, hc]; simp)

@[simp] theorem scopeField_add_add (hc : c % 64 = 0) (hn : n < 8) : scopeField (c + sc.toNat * 8 + n) = sc := by
  unfold scopeField; bv_omega

@[simp] theorem scopeField_add (hc : c % 64 = 0) : scopeField (c + sc.toNat * 8) = sc :=
  scopeField_add_add (n := 0) hc (by decide)

@[simp] theorem scopeField_mul : scopeField (sc.toNat * 8) = sc := by
  simpa using scopeField_add (c := 0) (sc := sc) rfl

@[simp] theorem scopeField_of_lt (hn : n % 64 < 8) : scopeField n = 0 := by
  unfold scopeField; bv_omega

end Fn

/-! ### Fields of a MEMX word (07 R233) -/

section Memx
variable {d a b sub o : Nat} {sc : BitVec 3} {wd : Bool}

theorem encMemx_lt (hs : sub < 32) (ho : o < 4) : encMemx sub sc o wd < 2 ^ 11 := by
  have := wd.toNat_lt
  unfold encMemx; omega

@[simp high] theorem fld_major_encMemx {maj : Nat} (hm : maj < 64) (hd : d < 32) (ha : a < 32) (hb : b < 32)
    (hs : sub < 32) (ho : o < 4) : fld (encA maj d a b (encMemx sub sc o wd)) 31 26 = maj :=
  fld_major_encA hm hd ha hb (encMemx_lt hs ho)

@[simp] theorem rd_encMemx {maj : Nat} (hd : d < 32) (ha : a < 32) (hb : b < 32) (hs : sub < 32) (ho : o < 4) :
    rd (encA maj d a b (encMemx sub sc o wd)) = ⟨d, hd⟩ :=
  rd_encA hd ha hb (encMemx_lt hs ho)

@[simp] theorem ra_encMemx {maj : Nat} (ha : a < 32) (hb : b < 32) (hs : sub < 32) (ho : o < 4) :
    ra (encA maj d a b (encMemx sub sc o wd)) = ⟨a, ha⟩ :=
  ra_encA ha hb (encMemx_lt hs ho)

@[simp] theorem rb_encMemx {maj : Nat} (hb : b < 32) (hs : sub < 32) (ho : o < 4) :
    rb (encA maj d a b (encMemx sub sc o wd)) = ⟨b, hb⟩ :=
  rb_encA hb (encMemx_lt hs ho)

@[simp high] theorem fld_sub_encMemx (hs : sub < 32) (ho : o < 4) : fld (encMemx sub sc o wd) 10 6 = sub := by
  have := wd.toNat_lt
  unfold fld encMemx; omega

@[simp] theorem scopeField_encMemx (ho : o < 4) : scopeField (encMemx sub sc o wd) = sc := by
  have := wd.toNat_lt
  apply BitVec.eq_of_toNat_eq
  rw [scopeField, encMemx, BitVec.toNat_ofNat]; omega

@[simp] theorem ordField_encMemx : ordField (encMemx sub sc o wd) = BitVec.ofNat 2 o := by
  have := wd.toNat_lt
  apply BitVec.eq_of_toNat_eq
  rw [ordField, encMemx, BitVec.toNat_ofNat, BitVec.toNat_ofNat]; omega

@[simp] theorem wField_encMemx : wField (encMemx sub sc o wd) = wd := by
  unfold wField encMemx; cases wd <;> simp <;> omega

end Memx

/-! ### Fields of forms I and S -/

section FormI
variable {maj : Nat} {d a : GReg} {i : BitVec 16}

/-- The immediate of form I fills b and fn of form A. -/
theorem encI_eq_encA : encI maj d a i = encA maj d a (i.toNat / 2 ^ 11) (i.toNat % 2 ^ 11) := by
  unfold encI encA; omega

theorem encI_lt (hm : maj < 64) : encI maj d a i < 2 ^ 32 := by
  rw [encI_eq_encA]; exact encA_lt hm d.isLt a.isLt (by omega) (by omega)

@[simp high] theorem fld_major_encI (hm : maj < 64) : fld (encI maj d a i) 31 26 = maj := by
  rw [encI_eq_encA]; exact fld_major_encA hm d.isLt a.isLt (by omega) (by omega)

@[simp] theorem rd_encI : rd (encI maj d a i) = d := by
  rw [encI_eq_encA]; exact rd_encA d.isLt a.isLt (by omega) (by omega)

@[simp] theorem ra_encI : ra (encI maj d a i) = a := by
  rw [encI_eq_encA]; exact ra_encA a.isLt (by omega) (by omega)

@[simp] theorem imm16_encI : imm16 (encI maj d a i) = i := by
  unfold imm16 encI; bv_omega

end FormI

/-! ### Fields of the first word of LI64 (07 R236) -/

/-- The first word of LI64. -/
def encLi64 (d : GReg) (h : Bool) : Nat := 63 * 2 ^ 26 + d.val * 2 ^ 15 + h.toNat * 2 ^ 14

theorem encode_li64 (d : GReg) (h : Bool) (i : BitVec 32) : encode (.li64 d h i) = some (encLi64 d h, i.toNat) := rfl

section Li64
variable (d : GReg) (h : Bool)

theorem encLi64_lt : encLi64 d h < 2 ^ 32 := by
  have := h.toNat_lt
  unfold encLi64; omega

theorem fld_major_encLi64 : fld (encLi64 d h) 31 26 = 63 := by
  have := h.toNat_lt
  unfold fld encLi64; omega

theorem fld_xop_encLi64 : fld (encLi64 d h) 25 20 = 0 := by
  have := h.toNat_lt
  unfold fld encLi64; omega

theorem fld_reserved_encLi64 : fld (encLi64 d h) 13 0 = 0 := by
  unfold fld encLi64; omega

theorem gfld_encLi64 : gfld (encLi64 d h) 15 = d := by
  have := h.toNat_lt
  ext; simp only [gfld, encLi64]; omega

theorem half_encLi64 : decide (encLi64 d h / 2 ^ 14 % 2 = 1) = h := by
  unfold encLi64; cases h <;> simp <;> omega

end Li64

end Sys2Proof

/-! Decoding undoes encoding, one lemma for each major opcode's instructions (07 R231). -/

namespace Sys2Proof

/-- The words that encode i, if any, are words of 32 bits that decode to i. -/
def Decodes (i : Instr) : Prop :=
  ∀ w w2 : Nat, encode i = some (w, w2) → w < 2 ^ 32 ∧ w2 < 2 ^ 32 ∧ decode w w2 = .ok i

theorem decodes_of_encode {i : Instr} {w w2 : Nat} (he : encode i = some (w, w2)) (hw : w < 2 ^ 32) (hw2 : w2 < 2 ^ 32)
    (hd : decode w w2 = .ok i) : Decodes i := by
  intro v v2 hv
  obtain ⟨rfl, rfl⟩ := Prod.mk.inj (Option.some.inj (he.symm.trans hv))
  exact ⟨hw, hw2, hd⟩

theorem decodes_of_encA {i : Instr} {maj d a b fn : Nat} (he : encode i = some (encA maj d a b fn, 0))
    (hdec : decode (encA maj d a b fn) 0 = .ok i) (hm : maj < 64 := by omega) (hd : d < 32 := by omega)
    (ha : a < 32 := by omega) (hb : b < 32 := by omega) (hf : fn < 2 ^ 11 := by omega) : Decodes i :=
  decodes_of_encode he (encA_lt hm hd ha hb hf) (by decide) hdec

theorem decodes_of_encMemx {i : Instr} {d a b sub o : Nat} {sc : BitVec 3} {wd : Bool}
    (he : encode i = some (encA 21 d a b (encMemx sub sc o wd), 0))
    (hdec : decode (encA 21 d a b (encMemx sub sc o wd)) 0 = .ok i) (hd : d < 32 := by omega)
    (ha : a < 32 := by omega) (hb : b < 32 := by omega) (hs : sub < 32 := by omega) (ho : o < 4 := by omega) : Decodes i :=
  decodes_of_encA he hdec (hf := encMemx_lt hs ho)

theorem decodes_of_encI {i : Instr} {maj : Nat} {d a : GReg} {imm : BitVec 16} (he : encode i = some (encI maj d a imm, 0))
    (hdec : decode (encI maj d a imm) 0 = .ok i) (hm : maj < 64 := by omega) : Decodes i :=
  decodes_of_encode he (encI_lt hm) (by decide) hdec

theorem not_six_le_of_scopeOk {sc : BitVec 3} (h : scopeOk sc = true) : ¬ 6 ≤ sc.toNat := by simpa [scopeOk] using h

theorem toNat_lt_of_modeOk {m : BitVec 3} (h : modeOk m = true) : m.toNat < 7 := by simpa [modeOk] using h

/-! ### Each major opcode -/

theorem decodes_opr (d a b : GReg) : ∀ i ∈ [Instr.add d a b, .sub d a b, .and d a b, .or d a b, .xor d a b, .sll d a b,
    .srl d a b, .sra d a b, .slt d a b, .sltu d a b, .mul d a b, .mulh d a b, .mulhu d a b, .div d a b, .divu d a b,
    .rem d a b, .remu d a b, .min d a b, .max d a b, .minu d a b, .maxu d a b, .clz d a, .ctz d a, .popc d a],
    Decodes i := by
  simp only [List.forall_mem_cons, List.not_mem_nil, false_implies, implies_true, and_true]
  and_intros
  all_goals
    refine decodes_of_encA rfl ?_
    simp (disch := omega) [decode, decodeOpr, fld_eq, need]

theorem decodes_immediate (d a : GReg) (i : BitVec 16) : ∀ j ∈ [Instr.addi d a i, .andi d a i, .ori d a i, .xori d a i,
    .slti d a i, .sltiu d a i, .lih d a i, .ldb d a i, .ldh d a i, .ldw d a i, .ldd d a i, .ldbu d a i, .ldhu d a i,
    .ldwu d a i, .stb d a i, .sth d a i, .stw d a i, .std d a i, .beq d a i, .bne d a i, .blt d a i, .bge d a i,
    .bltu d a i, .bgeu d a i, .jalr d a i], Decodes j := by
  simp only [List.forall_mem_cons, List.not_mem_nil, false_implies, implies_true, and_true]
  and_intros
  all_goals
    refine decodes_of_encI rfl ?_
    simp (disch := omega) [decode]

theorem decodes_shi (d a : GReg) (sh : BitVec 6) : ∀ i ∈ [Instr.slli d a sh, .srli d a sh, .srai d a sh], Decodes i := by
  simp only [List.forall_mem_cons, List.not_mem_nil, false_implies, implies_true, and_true]
  and_intros
  all_goals
    refine decodes_of_encA rfl ?_
    simp (disch := omega) [decode, decodeShi, fld_eq]

theorem decodes_jal (o : BitVec 26) : Decodes (.jal o) := by
  have hmaj : fld (28 * 2 ^ 26 + o.toNat) 31 26 = 28 := by unfold fld; omega
  have ho : BitVec.ofNat 26 (28 * 2 ^ 26 + o.toNat) = o := ofNat_add_toNat (by decide)
  exact decodes_of_encode rfl (by omega) (by decide) (by simp only [decode, hmaj, ho])

theorem decodes_atomic (d a b : GReg) (o : BitVec 2) (w : Bool) {sc : BitVec 3} (hsc : scopeOk sc = true) :
    ∀ i ∈ [Instr.amoAdd d a b sc o w, .amoAnd d a b sc o w, .amoOr d a b sc o w, .amoXor d a b sc o w,
    .amoMin d a b sc o w, .amoMax d a b sc o w, .amoMinu d a b sc o w, .amoMaxu d a b sc o w, .amoSwap d a b sc o w,
    .cas d a b sc o w], Decodes i := by
  have hsc := not_six_le_of_scopeOk hsc
  simp only [List.forall_mem_cons, List.not_mem_nil, false_implies, implies_true, and_true]
  and_intros
  all_goals
    refine decodes_of_encMemx rfl ?_
    simp (disch := omega) [decode, decodeMemx, hsc]

theorem decodes_memx (d a b : GReg) (o : BitVec 2) (w : Bool) {sc : BitVec 3} (hsc : scopeOk sc = true) :
    ∀ i ∈ [Instr.lda d a sc w, .stl a b sc w, .put a b sc, .take d a sc, .rdf d a sc, .clrp a, .prb d a, .fence sc o,
    .monarm a, .monwait], Decodes i := by
  have hsc := not_six_le_of_scopeOk hsc
  simp only [List.forall_mem_cons, List.not_mem_nil, false_implies, implies_true, and_true]
  and_intros
  all_goals
    refine decodes_of_encMemx rfl ?_
    simp (disch := omega) [decode, decodeMemx, need, hsc]

theorem decodes_sys (d a : GReg) (n : BitVec 5) (r : BitVec 8) :
    ∀ i ∈ [Instr.srd d n r, .swr a n r, .trap r, .brk r, .rte, .wfi, .snap], Decodes i := by
  simp only [List.forall_mem_cons, List.not_mem_nil, false_implies, implies_true, and_true]
  and_intros
  all_goals
    refine decodes_of_encA rfl ?_
    simp (disch := omega) [decode, decodeSys, fld_eq, need]

theorem decodes_adr (d a : GReg) {id : BitVec 3} (hid : id.toNat < 7) :
    ∀ i ∈ [Instr.acvtTo d a id, .acvtFrom d a id, .atst d a], Decodes i := by
  simp only [List.forall_mem_cons, List.not_mem_nil, false_implies, implies_true, and_true]
  and_intros
  all_goals
    refine decodes_of_encA rfl ?_
    simp (disch := omega) [decode, decodeAdr, fld_eq, need, hid]

theorem decodes_fload (d a b : GReg) (sync sw : Bool) : Decodes (.fload d a b sync sw) := by
  cases sync <;> cases sw
  all_goals
    refine decodes_of_encA rfl ?_ (hf := by decide)
    simp (disch := omega) [decode, decodeFab, need]

theorem decodes_kstop (a : GReg) (wait : Bool) : Decodes (.kstop a wait) := by
  cases wait
  all_goals
    refine decodes_of_encA rfl ?_ (hf := by decide)
    simp (disch := omega) [decode, decodeFab, fld_eq, need]

theorem decodes_fab (d a b : GReg) : ∀ i ∈ [Instr.krun a b, .ksave d a b, .krest a b, .kstat d a, .glaunch d a],
    Decodes i := by
  simp only [List.forall_mem_cons, List.not_mem_nil, false_implies, implies_true, and_true]
  and_intros
  all_goals
    refine decodes_of_encA rfl ?_
    simp (disch := omega) [decode, decodeFab, fld_eq, need]

theorem decodes_eng (d a : GReg) {q : BitVec 3} (hq : queueOk q = true) :
    ∀ i ∈ [Instr.enq d a q, .enqs d a q, .qstat d q], Decodes i := by
  have hq : q.toNat < 7 := by simpa [queueOk] using hq
  simp only [List.forall_mem_cons, List.not_mem_nil, false_implies, implies_true, and_true]
  and_intros
  all_goals
    refine decodes_of_encA rfl ?_
    simp (disch := omega) [decode, decodeEng, fld_eq, need, hq]

theorem decodes_bar (d a b : GReg) {sc : BitVec 3} (hsc : scopeOk sc = true) :
    ∀ i ∈ [Instr.binit a b sc, .barr d a sc, .bexp a b sc, .bwait d a b sc], Decodes i := by
  have hsc := not_six_le_of_scopeOk hsc
  simp only [List.forall_mem_cons, List.not_mem_nil, false_implies, implies_true, and_true]
  and_intros
  all_goals
    refine decodes_of_encA rfl ?_
    simp (disch := omega) [decode, decodeBar, fld_eq, need, hsc]

theorem decodes_sigst (p : Bool) {a b : GReg} {sc : BitVec 3} (hsc : scopeOk sc = true) (ha : a.val < 31)
    (hb : b.val < 31) : Decodes (.sigst a b p sc) := by
  have hsc := not_six_le_of_scopeOk hsc
  have hp : sc.toNat * 8 / 64 = 0 := by omega
  cases p
  all_goals
    refine decodes_of_encA rfl ?_ (hf := by simp only [Bool.toNat_true, Bool.toNat_false]; omega)
    simp (disch := omega) [decode, decodeMsg, need, hsc, hp, ha, hb]

theorem decodes_msgsend (d a : GReg) {b : GReg} {sc : BitVec 3} (hsc : scopeOk sc = true) (hb : b.val < 30) :
    Decodes (.msgsend d a b sc) := by
  have hsc := not_six_le_of_scopeOk hsc
  have hp : (256 + sc.toNat * 8) / 64 % 2 = 0 := by omega
  refine decodes_of_encA rfl ?_
  simp (disch := omega) [decode, decodeMsg, fld_eq, need, hsc, hp, hb]

theorem decodes_msgrecv {d : GReg} {sc : BitVec 3} (hsc : scopeOk sc = true) (hd : d.val < 29) : Decodes (.msgrecv d sc) := by
  have hsc := not_six_le_of_scopeOk hsc
  have hp : (512 + sc.toNat * 8) / 64 % 2 = 0 := by omega
  refine decodes_of_encA rfl ?_
  simp (disch := omega) [decode, decodeMsg, fld_eq, need, hsc, hp, hd]

theorem decodes_fop (d a b : FReg) (g : GReg) {m : BitVec 3} (hm : modeOk m = true) :
    ∀ i ∈ [Instr.fadd d a b m, .fsub d a b m, .fmul d a b m, .ffma d a b m, .fdiv d a b m, .fsqrt d a m, .fmvgf d g,
    .fmvfg g a], Decodes i := by
  have hm := toNat_lt_of_modeOk hm
  simp only [List.forall_mem_cons, List.not_mem_nil, false_implies, implies_true, and_true]
  and_intros
  all_goals
    refine decodes_of_encA rfl ?_
    simp (disch := omega) [decode, decodeFop, fld_eq, need, hm]

theorem decodes_fcvt {d a : GReg} {x m : BitVec 3} (hm : modeOk m = true) (hx : fcvtOk d a x = true) :
    Decodes (.fcvt d a x m) := by
  have hm := toNat_lt_of_modeOk hm
  refine decodes_of_encA rfl ?_
  simp (disch := omega) [decode, decodeFop, fld_eq, need, hm, hx]

theorem decodes_fcmp (d : GReg) (a b : FReg) (c : BitVec 3) (sig : Bool) : Decodes (.fcmp d a b c sig) := by
  have hquiet : (448 + c.toNat * 8) % 2 = 0 := by omega
  have hsig : (448 + c.toNat * 8 + 1) % 2 = 1 := by omega
  cases sig
  all_goals
    refine decodes_of_encA rfl ?_ (hf := by simp only [Bool.toNat_true, Bool.toNat_false]; omega)
    simp (disch := omega) [decode, decodeFop, fld_eq, need, hquiet, hsig]

theorem decodes_li64 (d : GReg) (h : Bool) (i : BitVec 32) : Decodes (.li64 d h i) := by
  refine decodes_of_encode (encode_li64 d h i) (encLi64_lt d h) i.isLt ?_
  simp [decode, decodeExt, need, fld_major_encLi64, fld_xop_encLi64, fld_reserved_encLi64, gfld_encLi64, half_encLi64,
    -Nat.reducePow]

/-- Words name exactly the first 111 constructors: those before the steps of other agents. -/
theorem isSome_encode (i : Instr) : (encode i).isSome = decide (i.ctorIdx < 111) := by
  cases i <;> rfl

theorem decodes_of_wf {i : Instr} (hwf : i.wf = true) : Decodes i := by
  cases i with
  | add d a b | sub d a b | and d a b | or d a b | xor d a b | sll d a b | srl d a b | sra d a b | slt d a b | sltu d a b
  | mul d a b | mulh d a b | mulhu d a b | div d a b | divu d a b | rem d a b | remu d a b | min d a b | max d a b
  | minu d a b | maxu d a b => exact decodes_opr d a b _ (by simp)
  | clz d a | ctz d a | popc d a => exact decodes_opr d a 0 _ (by simp)
  | addi d a i | andi d a i | ori d a i | xori d a i | slti d a i | sltiu d a i | lih d a i | ldb d a i | ldh d a i
  | ldw d a i | ldd d a i | ldbu d a i | ldhu d a i | ldwu d a i | stb d a i | sth d a i | stw d a i | std d a i
  | beq d a i | bne d a i | blt d a i | bge d a i | bltu d a i | bgeu d a i | jalr d a i =>
    exact decodes_immediate d a i _ (by simp)
  | slli d a sh | srli d a sh | srai d a sh => exact decodes_shi d a sh _ (by simp)
  | jal o => exact decodes_jal o
  | amoAdd d a b sc o w | amoAnd d a b sc o w | amoOr d a b sc o w | amoXor d a b sc o w | amoMin d a b sc o w
  | amoMax d a b sc o w | amoMinu d a b sc o w | amoMaxu d a b sc o w | amoSwap d a b sc o w | cas d a b sc o w =>
    exact decodes_atomic d a b o w hwf _ (by simp)
  | lda d a sc w => exact decodes_memx d a 0 0 w hwf _ (by simp)
  | stl a b sc w => exact decodes_memx 0 a b 0 w hwf _ (by simp)
  | put a b sc => exact decodes_memx 0 a b 0 true hwf _ (by simp)
  | take d a sc | rdf d a sc => exact decodes_memx d a 0 0 true hwf _ (by simp)
  | fence sc o => exact decodes_memx 0 0 0 o true hwf _ (by simp)
  | clrp a | monarm a => exact decodes_memx 0 a 0 0 true (sc := 0) rfl _ (by simp)
  | prb d a => exact decodes_memx d a 0 0 true (sc := 0) rfl _ (by simp)
  | monwait => exact decodes_memx 0 0 0 0 true (sc := 0) rfl _ (by simp)
  | srd d n r => exact decodes_sys d 0 n r _ (by simp)
  | swr a n r => exact decodes_sys 0 a n r _ (by simp)
  | trap r | brk r => exact decodes_sys 0 0 0 r _ (by simp)
  | rte | wfi | snap => exact decodes_sys 0 0 0 0 _ (by simp)
  | acvtTo d a id | acvtFrom d a id => exact decodes_adr d a (id := id) (by simpa [Instr.wf] using hwf) _ (by simp)
  | atst d a => exact decodes_adr d a (id := 0) (by decide) _ (by simp)
  | fload d a b sync sw => exact decodes_fload d a b sync sw
  | kstop a wait => exact decodes_kstop a wait
  | krun a b | krest a b => exact decodes_fab 0 a b _ (by simp)
  | ksave d a b => exact decodes_fab d a b _ (by simp)
  | kstat d a | glaunch d a => exact decodes_fab d a 0 _ (by simp)
  | enq d a q | enqs d a q => exact decodes_eng d a hwf _ (by simp)
  | qstat d q => exact decodes_eng d 0 hwf _ (by simp)
  | binit a b sc | bexp a b sc => exact decodes_bar 0 a b hwf _ (by simp)
  | barr d a sc => exact decodes_bar d a 0 hwf _ (by simp)
  | bwait d a b sc => exact decodes_bar d a b hwf _ (by simp)
  | sigst a b p sc =>
    obtain ⟨⟨hsc, ha⟩, hb⟩ : (scopeOk sc = true ∧ a.val < 31) ∧ b.val < 31 := by simpa [Instr.wf] using hwf
    exact decodes_sigst p hsc ha hb
  | msgsend d a b sc =>
    obtain ⟨hsc, hb⟩ : scopeOk sc = true ∧ b.val < 30 := by simpa [Instr.wf] using hwf
    exact decodes_msgsend d a hsc hb
  | msgrecv d sc =>
    obtain ⟨hsc, hd⟩ : scopeOk sc = true ∧ d.val < 29 := by simpa [Instr.wf] using hwf
    exact decodes_msgrecv hsc hd
  | fadd d a b m | fsub d a b m | fmul d a b m | ffma d a b m | fdiv d a b m => exact decodes_fop d a b 0 hwf _ (by simp)
  | fsqrt d a m => exact decodes_fop d a 0 0 hwf _ (by simp)
  | fmvgf d g => exact decodes_fop d 0 0 g (m := 0) rfl _ (by simp)
  | fmvfg g a => exact decodes_fop 0 a 0 g (m := 0) rfl _ (by simp)
  | fcvt d a x m =>
    obtain ⟨hm, hx⟩ : modeOk m = true ∧ fcvtOk d a x = true := by simpa [Instr.wf] using hwf
    exact decodes_fcvt hm hx
  | fcmp d a b c sig => exact decodes_fcmp d a b c sig
  | li64 d h i => exact decodes_li64 d h i
  | _ => intro w w2 h; cases h -- no word names the step

/-- Settles O58, by a case for each instruction: its words read back as its fields, and encode names words for exactly the first 111
constructors. -/
theorem decodeEncode : Obligations.DecodeEncode := by
  unfold Obligations.DecodeEncode
  refine ⟨fun i w w2 hwf he => decodes_of_wf hwf w w2 he, fun i _ hrow => ?_⟩
  obtain ⟨⟨w, w2⟩, hw⟩ := Option.isSome_iff_exists.mp ((isSome_encode i).trans (decide_eq_true hrow))
  exact ⟨w, w2, hw⟩

end Sys2Proof

/-! Encoding undoes decoding, one lemma for each decoder of a major opcode (07 R231). -/

namespace Sys2Proof

/-- The word w is the encoding of i, which is well-formed. -/
def Encodes (w : Nat) (i : Instr) : Prop := i.wf = true ∧ encode i = some (w, 0)

/-- Every instruction that a decoder answers for w is encoded by w. A decoder is shown sound branch by branch, with one lemma below for each
way that a branch answers. -/
def Sound (w : Nat) (r : Except Reject Instr) : Prop := ∀ i, r = .ok i → Encodes w i

section Sound
variable {w : Nat} {i : Instr} {e : Reject} {r : Except Reject Instr}

theorem need_eq_ok {ok : Bool} {j : Instr} : need ok e i = .ok j ↔ ok = true ∧ i = j := by
  cases ok <;> simp [need]

theorem sound_ok : Sound w (.ok i) ↔ Encodes w i := by simp [Sound]

theorem sound_error : Sound w (.error e) := by simp [Sound]

theorem sound_need {ok : Bool} : Sound w (need ok e i) ↔ (ok = true → Encodes w i) := by
  simp [Sound, need_eq_ok]

theorem sound_ite {p : Prop} [Decidable p] {t : Except Reject Instr} (ht : p → Sound w t) (hr : ¬ p → Sound w r) :
    Sound w (if p then t else r) := by
  split
  case isTrue h => exact ht h
  case isFalse h => exact hr h

end Sound

/-! ### Each major opcode -/

/-- A word of form A is put together from its fields. -/
theorem encA_fields {w : Nat} (hw : w < 2 ^ 32) : encA (fld w 31 26) (rd w) (ra w) (rb w) (fld w 10 0) = w := by
  simp only [encA, fld, rd, ra, rb, gfld]; omega

theorem encodes_of_encA {w maj d a b fn : Nat} {i : Instr} (hw : w < 2 ^ 32) (hm : fld w 31 26 = maj) (hwf : i.wf = true)
    (he : encode i = some (encA maj d a b fn, 0)) (hd : (rd w).val = d) (ha : (ra w).val = a) (hb : (rb w).val = b)
    (hf : fld w 10 0 = fn) : Encodes w i := by
  subst hm hd ha hb hf
  exact ⟨hwf, by rw [he, encA_fields hw]⟩

theorem sound_opr {w : Nat} (hw : w < 2 ^ 32) (hm : fld w 31 26 = 1) : Sound w (decodeOpr w) := by
  unfold decodeOpr
  dsimp only
  split <;> simp only [sound_ok, sound_need, sound_error, decide_eq_true_eq]
  case h_22 | h_23 | h_24 => exact fun hb => encodes_of_encA hw hm rfl rfl rfl rfl hb ‹_›
  all_goals exact encodes_of_encA hw hm rfl rfl rfl rfl rfl ‹_›

theorem sound_shi {w : Nat} (hw : w < 2 ^ 32) (hm : fld w 31 26 = 8) : Sound w (decodeShi w) := by
  unfold decodeShi
  dsimp only
  split <;> simp only [sound_ok, sound_error]
  all_goals
    rename_i hkind
    refine encodes_of_encA hw hm rfl rfl rfl rfl ?_ ?_
    all_goals simp only [fld, rb, gfld, BitVec.toNat_ofNat] at *; omega

/-- The fields of R233 make up fn. -/
theorem fld_fn_eq_encMemx (w : Nat) :
    fld w 10 0 = encMemx (fld w 10 6) (scopeField w) (ordField w).toNat (wField w) := by
  have : (wField w).toNat = w % 2 := by
    rcases Nat.mod_two_eq_zero_or_one w with h | h <;> simp [wField, h]
  simp only [fld, encMemx, scopeField, ordField, this, BitVec.toNat_ofNat]; omega

theorem encodes_of_encMemx {w d a b sub o : Nat} {sc : BitVec 3} {wd : Bool} {i : Instr} (hw : w < 2 ^ 32)
    (hm : fld w 31 26 = 21) (hwf : i.wf = true) (he : encode i = some (encA 21 d a b (encMemx sub sc o wd), 0))
    (hd : (rd w).val = d) (ha : (ra w).val = a) (hb : (rb w).val = b) (hsub : fld w 10 6 = sub)
    (hsc : (scopeField w).toNat = sc.toNat) (ho : (ordField w).toNat = o) (hwd : wField w = wd) : Encodes w i := by
  refine encodes_of_encA hw hm hwf he hd ha hb ?_
  rw [fld_fn_eq_encMemx, hsub, ho, hwd, BitVec.eq_of_toNat_eq hsc]

theorem sound_memx {w : Nat} (hw : w < 2 ^ 32) (hm : fld w 31 26 = 21) : Sound w (decodeMemx w) := by
  unfold decodeMemx
  dsimp only
  refine sound_ite (fun _ => sound_error) fun hsub => sound_ite (fun _ => sound_error) fun hsc => ?_
  replace hsc : scopeOk (scopeField w) = true := decide_eq_true (Nat.lt_of_not_le hsc)
  split <;> rename_i hk <;> simp only [sound_ok, sound_need, Bool.and_eq_true, Bool.not_eq_true', decide_eq_true_eq]
  case h_3 | h_4 | h_5 | h_6 | h_7 | h_8 | h_9 | h_10 | h_11 | h_12 =>
    exact encodes_of_encMemx hw hm hsc rfl rfl rfl rfl hk rfl rfl rfl
  case h_20 =>
    simp only [imp_false] at *
    intro hc
    exact encodes_of_encMemx hw hm rfl rfl (by simp only [hc]) (by simp only [hc]) (by simp only [hc])
      (by omega) (by simp only [hc]; rfl) (by simp only [hc]) (by simp only [hc])
  case h_16 | h_17 | h_19 =>
    intro hc
    exact encodes_of_encMemx hw hm rfl rfl (by simp only [hc]) rfl (by simp only [hc])
      hk (by simp only [hc]; rfl) (by simp only [hc]) (by simp only [hc])
  all_goals
    intro hc
    exact encodes_of_encMemx hw hm hsc rfl (by simp only [hc]) (by simp only [hc]) (by simp only [hc])
      hk rfl (by simp only [hc]) (by simp only [hc])

theorem toNat_ofNat_rb (w : Nat) : (BitVec.ofNat 5 (w / 2 ^ 11)).toNat = (rb w).val := by
  simp only [rb, gfld, BitVec.toNat_ofNat]

theorem sound_sys {w : Nat} (hw : w < 2 ^ 32) (hm : fld w 31 26 = 30) : Sound w (decodeSys w) := by
  unfold decodeSys
  dsimp only
  split <;> simp only [sound_need, sound_error, Bool.and_eq_true, decide_eq_true_eq]
  all_goals
    rename_i hk
    intro hc
    refine encodes_of_encA hw hm rfl rfl (by simp only [hc]) (by simp only [hc]) (by simp only [hc, toNat_ofNat_rb]) ?_
    simp only [fld, BitVec.toNat_ofNat] at *; omega

theorem sound_adr {w : Nat} (hw : w < 2 ^ 32) (hm : fld w 31 26 = 31) : Sound w (decodeAdr w) := by
  unfold decodeAdr
  dsimp only
  split <;> simp only [sound_need, sound_error, Bool.and_eq_true, decide_eq_true_eq]
  all_goals
    rename_i hk
    intro hc
    refine encodes_of_encA hw hm (by simp [Instr.wf, -BitVec.toNat_ofNat, hc]) rfl rfl rfl ?_ ?_
    all_goals simp only [fld, rb, gfld, BitVec.toNat_ofNat] at *; omega

theorem toNat_decide_mod_two (n : Nat) : (decide (n % 2 = 1)).toNat = n % 2 := by
  rcases Nat.mod_two_eq_zero_or_one n with h | h <;> simp [h]

theorem sound_fab {w : Nat} (hw : w < 2 ^ 32) (hm : fld w 31 26 = 32) : Sound w (decodeFab w) := by
  unfold decodeFab
  dsimp only
  split <;> simp only [sound_need, sound_error, Bool.and_eq_true, decide_eq_true_eq]
  all_goals
    rename_i hk
    intro hc
    refine encodes_of_encA hw hm rfl rfl (by simp only [hc]) rfl (by simp only [hc]) ?_
    simp only [toNat_decide_mod_two, fld] at *; omega

theorem sound_eng {w : Nat} (hw : w < 2 ^ 32) (hm : fld w 31 26 = 33) : Sound w (decodeEng w) := by
  unfold decodeEng
  dsimp only
  split <;> simp only [sound_need, sound_error, Bool.and_eq_true, decide_eq_true_eq, and_imp]
  case h_1 | h_2 =>
    intro hz hq hb
    refine encodes_of_encA hw hm (decide_eq_true hq) rfl rfl rfl hb ?_
    simp only [fld, BitVec.toNat_ofNat] at *; omega
  case h_3 =>
    intro hz hq ha hb
    refine encodes_of_encA hw hm (decide_eq_true hq) rfl rfl ha hb ?_
    simp only [fld, BitVec.toNat_ofNat] at *; omega

theorem sound_bar {w : Nat} (hw : w < 2 ^ 32) (hm : fld w 31 26 = 34) : Sound w (decodeBar w) := by
  unfold decodeBar
  dsimp only
  refine sound_ite (fun _ => sound_error) fun hsub => sound_ite (fun _ => sound_error) fun hsc => ?_
  replace hsc : scopeOk (scopeField w) = true := decide_eq_true (Nat.lt_of_not_le hsc)
  split <;> simp only [sound_need, Bool.and_eq_true, decide_eq_true_eq]
  all_goals
    intro hc
    refine encodes_of_encA hw hm hsc rfl (by simp only [hc]) rfl (by simp only [hc]) ?_
    simp only [scopeField, fld, BitVec.toNat_ofNat, imp_false] at *; omega

theorem sound_msg {w : Nat} (hw : w < 2 ^ 32) (hm : fld w 31 26 = 35) : Sound w (decodeMsg w) := by
  unfold decodeMsg
  dsimp only
  refine sound_ite (fun _ => sound_error) fun hsub => sound_ite (fun _ => sound_error) fun hsc => ?_
  replace hsc : scopeOk (scopeField w) = true := decide_eq_true (Nat.lt_of_not_le hsc)
  split
  all_goals
    refine sound_ite (fun hc => sound_need.mpr fun hr => ?_) fun _ => sound_error
    simp only [imp_false, Bool.and_eq_true, decide_eq_true_eq] at *
    refine encodes_of_encA hw hm (by simp [Instr.wf, hsc, hr]) rfl (by simp only [hc]) (by simp only [hc]) (by simp only [hc]) ?_
    simp only [toNat_decide_mod_two, scopeField, fld, BitVec.toNat_ofNat] at *; omega

theorem ffld_val {w lo : Nat} (h : isF w lo = true) : (ffld w lo).val = (gfld w lo).val := by
  have := (isF_iff w lo).mp h
  simp only [ffld, gfld] at *; omega

theorem fld_fn_fop (w : Nat) :
    fld w 10 0 = fld w 10 6 * 64 + (scopeField w).toNat * 8 + (BitVec.ofNat 3 w).toNat := by
  simp only [fld, scopeField, BitVec.toNat_ofNat]; omega

theorem sound_fop {w : Nat} (hw : w < 2 ^ 32) (hm : fld w 31 26 = 36) : Sound w (decodeFop w) := by
  have hfn := fld_fn_fop w
  unfold decodeFop
  dsimp only
  split
  case h_11 => exact sound_error
  all_goals
    rename_i hk
    refine sound_ite (fun hc => sound_need.mpr fun hr => ?_) fun _ => sound_error
    simp only [Bool.and_eq_true, decide_eq_true_eq] at hc hr
  case h_1 | h_2 | h_3 | h_4 | h_5 =>
    obtain ⟨hmode, hx⟩ := hc
    obtain ⟨⟨hd, ha⟩, hb⟩ := hr
    exact encodes_of_encA hw hm (decide_eq_true hmode) rfl (ffld_val hd).symm (ffld_val ha).symm (ffld_val hb).symm (by omega)
  case h_6 =>
    obtain ⟨⟨hmode, hx⟩, hb⟩ := hc
    obtain ⟨hd, ha⟩ := hr
    exact encodes_of_encA hw hm (decide_eq_true hmode) rfl (ffld_val hd).symm (ffld_val ha).symm hb (by omega)
  case h_7 =>
    obtain ⟨hmode, hb⟩ := hc
    exact encodes_of_encA hw hm (Bool.and_eq_true_iff.mpr ⟨decide_eq_true hmode, hr⟩) rfl rfl rfl hb (by omega)
  case h_8 =>
    obtain ⟨ha, hb⟩ := hr
    refine encodes_of_encA hw hm rfl rfl rfl (ffld_val ha).symm (ffld_val hb).symm ?_
    simp only [toNat_decide_mod_two, fld, BitVec.toNat_ofNat] at *; omega
  case h_9 =>
    obtain ⟨hz, hb⟩ := hc
    refine encodes_of_encA hw hm rfl rfl (ffld_val hr).symm rfl hb ?_
    simp only [fld] at *; omega
  case h_10 =>
    obtain ⟨hz, hb⟩ := hc
    refine encodes_of_encA hw hm rfl rfl rfl (ffld_val hr).symm hb ?_
    simp only [fld] at *; omega

/-- So is a word of form I. -/
theorem encI_fields {w : Nat} (hw : w < 2 ^ 32) : encI (fld w 31 26) (rd w) (ra w) (imm16 w) = w := by
  simp only [encI, fld, rd, ra, gfld, imm16, BitVec.toNat_ofNat]; omega

theorem encodes_of_encI {w maj : Nat} {i : Instr} (hw : w < 2 ^ 32) (hm : fld w 31 26 = maj) (hwf : i.wf = true)
    (he : encode i = some (encI maj (rd w) (ra w) (imm16 w), 0)) : Encodes w i :=
  ⟨hwf, by rw [he, ← hm, encI_fields hw]⟩

theorem encodes_jal {w : Nat} (hw : w < 2 ^ 32) (hm : fld w 31 26 = 28) : Encodes w (.jal (BitVec.ofNat 26 w)) := by
  refine ⟨rfl, congrArg (fun v => some (v, 0)) ?_⟩
  simp only [fld, BitVec.toNat_ofNat] at *; omega

theorem encode_of_decodeExt {w w2 : Nat} {i : Instr} (hw : w < 2 ^ 32) (hw2 : w2 < 2 ^ 32) (hm : fld w 31 26 = 63)
    (h : decodeExt w w2 = .ok i) : i.wf = true ∧ encode i = some (w, w2) := by
  unfold decodeExt at h
  split at h
  case isTrue => cases h
  case isFalse hx =>
    obtain ⟨hz, rfl⟩ := need_eq_ok.mp h
    replace hx := Decidable.not_not.mp hx
    replace hz := of_decide_eq_true hz
    refine ⟨rfl, (encode_li64 _ _ _).trans ?_⟩
    simp only [encLi64, toNat_decide_mod_two, fld, gfld, BitVec.toNat_ofNat, Option.some.injEq, Prod.mk.injEq] at *
    omega

theorem sound_decode {w w2 : Nat} (hw : w < 2 ^ 32) (hm : fld w 31 26 ≠ 63) : Sound w (decode w w2) := by
  unfold decode
  dsimp only
  split
  case h_1 hk => exact sound_opr hw hk
  case h_8 hk => exact sound_shi hw hk
  case h_21 hk => exact sound_memx hw hk
  case h_28 hk => exact sound_ok.mpr (encodes_jal hw hk)
  case h_30 hk => exact sound_sys hw hk
  case h_31 hk => exact sound_adr hw hk
  case h_32 hk => exact sound_fab hw hk
  case h_33 hk => exact sound_eng hw hk
  case h_34 hk => exact sound_bar hw hk
  case h_35 hk => exact sound_msg hw hk
  case h_36 hk => exact sound_fop hw hk
  case h_37 hk => exact absurd hk hm
  case h_38 => exact sound_error
  all_goals exact sound_ok.mpr (encodes_of_encI hw ‹_› rfl rfl)

/-- Settles O59, by a case for each branch of the decoders: a word is put together from the fields that its branch reads or checks. -/
theorem encodeDecode : Obligations.EncodeDecode := by
  unfold Obligations.EncodeDecode
  intro w w2 i hw hw2 h
  by_cases hm : fld w 31 26 = 63
  · have hext : w / 2 ^ 26 = 0x3F := by simp only [fld] at hm; omega
    rw [if_pos hext]
    exact encode_of_decodeExt hw hw2 hm (by simpa only [decode, hm] using h)
  · have hext : ¬ w / 2 ^ 26 = 0x3F := by simp only [fld] at hm; omega
    rw [if_neg hext]
    exact sound_decode hw hm i h

end Sys2Proof

/-! How an outstanding request of a strand ends: what each way of ending one leaves of the cluster's requests and of the strand (03 R95,
04 R139, R142 to R144, 17 R483). -/

namespace Sys2Proof.Machine

/-! ### Values of loads -/

theorem leNat_lt (bs : List Byte) : leNat bs < 2 ^ (8 * bs.length) := by
  induction bs with
  | nil => simp [leNat]
  | cons b t ih =>
    have hb := b.isLt
    simp only [leNat, List.length_cons, Nat.mul_add, Nat.pow_add, Nat.mul_one]
    omega

/-- A signed extension (09 R303) is the signed value of a word of the bytes' width. -/
theorem extend_signed {n v : Nat} (h0 : 0 < n) (h8 : n ≤ 8) (hv : v < 2 ^ (8 * n)) :
    extend n true v = BitVec.ofInt 64 (BitVec.ofNat (8 * n) v).toInt := by
  have hmod : v % 2 ^ (8 * n) = v := Nat.mod_eq_of_lt hv
  have hhalf : 2 ^ (8 * n) = 2 * 2 ^ (8 * n - 1) := by rw [← Nat.pow_succ', Nat.succ_eq_add_one, Nat.sub_add_cancel (by omega)]
  have hle : 2 ^ (8 * n) ≤ 2 ^ 64 := Nat.pow_le_pow_right (by omega) (by omega)
  simp only [extend, BitVec.toInt_eq_toNat_cond, BitVec.toNat_ofNat, hmod, Bool.true_and, decide_eq_true_eq]
  generalize 2 ^ (8 * n) = p, 2 ^ (8 * n - 1) = q at *
  by_cases hq : q ≤ v
  · rw [if_pos hq, if_neg (by omega)]
    apply BitVec.eq_of_toNat_eq
    rw [BitVec.toNat_ofNat, BitVec.toNat_ofInt]
    omega
  · rw [if_neg hq, if_pos (by omega), BitVec.ofInt_natCast]

/-- The extension of a load's bytes (09 R303). -/
theorem extend_of_lt {n v : Nat} {sg : Bool} (hn : n = 1 ∨ n = 2 ∨ n = 4 ∨ n = 8) (hv : v < 2 ^ (8 * n)) :
    extend n sg v = if sg = true ∧ n < 8 then BitVec.ofInt 64 (BitVec.ofNat (8 * n) v).toInt else BitVec.ofNat 64 v := by
  cases sg with
  | false => simp only [extend, Bool.false_and, Bool.false_eq_true, false_and, if_false, Nat.mod_eq_of_lt hv]
  | true =>
    rw [extend_signed (by omega) (by omega) hv]
    by_cases h : n < 8
    · rw [if_pos ⟨rfl, h⟩]
    · obtain rfl : n = 8 := by omega
      rw [if_neg (fun e => h e.2)]
      exact BitVec.ofInt_toInt

/-! ### The strand and the requests of a cluster after a request has gone -/

theorem Dev.strand_modCl {d : Dev} {c : ClusterId} {f : Cluster → Cluster} (k : StrandIx) (h : (f (d.cl c)).strands = (d.cl c).strands) :
    (d.modCl c f).strand c k = d.strand c k := by
  simp [Dev.strand, h]

@[simp] theorem Dev.strand_dropReq (d : Dev) (c : ClusterId) (k : StrandIx) (tag : Nat) : (d.dropReq c tag).strand c k = d.strand c k :=
  Dev.strand_modCl k rfl
@[simp] theorem Dev.dropReq_mem (d : Dev) (c : ClusterId) (tag : Nat) : (d.dropReq c tag).mem = d.mem := rfl
@[simp] theorem Dev.dropReq_full (d : Dev) (c : ClusterId) (tag : Nat) : (d.dropReq c tag).full = d.full := rfl
theorem Dev.tag_ne_of_mem_dropReq {d : Dev} {c : ClusterId} {tag : Nat} : ∀ x ∈ ((d.dropReq c tag).cl c).reqs, x.tag ≠ tag := by
  simp [Dev.dropReq]
@[simp] theorem Dev.signals_dropReq (d : Dev) (c : ClusterId) (tag : Nat) : ((d.dropReq c tag).cl c).signals = (d.cl c).signals := by
  simp [Dev.dropReq]

/-- A cancelled request is dropped, and every wait table loses its entry (04 R144). -/
theorem Dev.cl_cancelReq (d : Dev) (c : ClusterId) (tag : Nat) :
    ∃ w, (d.cancelReq c tag).cl c = { (d.dropReq c tag).cl c with waits := w } := by
  simp only [Dev.cancelReq, Dev.dropReq, Dev.cl, vget, Vector.getElem_map]
  split <;> exact ⟨_, rfl⟩
@[simp] theorem Dev.strand_cancelReq (d : Dev) (c : ClusterId) (k : StrandIx) (tag : Nat) :
    (d.cancelReq c tag).strand c k = d.strand c k := by
  obtain ⟨w, hw⟩ := d.cl_cancelReq c tag
  rw [← d.strand_dropReq c k tag, Dev.strand, hw, Dev.strand]
@[simp] theorem Dev.cancelReq_mem (d : Dev) (c : ClusterId) (tag : Nat) : (d.cancelReq c tag).mem = d.mem := rfl
@[simp] theorem Dev.cancelReq_full (d : Dev) (c : ClusterId) (tag : Nat) : (d.cancelReq c tag).full = d.full := rfl
theorem Dev.tag_ne_of_mem_cancelReq {d : Dev} {c : ClusterId} {tag : Nat} : ∀ x ∈ ((d.cancelReq c tag).cl c).reqs, x.tag ≠ tag := by
  obtain ⟨w, hw⟩ := d.cl_cancelReq c tag
  rw [hw]
  exact Dev.tag_ne_of_mem_dropReq

/-- A request that fails at its bank is dropped, and its strand traps (09 R299). -/
theorem Dev.trapReq_eq (d : Dev) (c : ClusterId) (tag : Nat) (k : StrandIx) (cause : Cause) (ga : Word) :
    d.trapReq c tag k cause ga = (d.dropReq c tag).modStrand c k (fun st => st.enterTrap cause 0 ga st.pc) := rfl

/-! ### The completion of a strand's instruction -/

/-- From d to e the instruction of a strand that waited for the request has completed with v in register g; the request is gone, and no other
register of the strand differs. -/
def RequestDone (c : ClusterId) (k : StrandIx) (tag : Nat) (g : GReg) (v : Word) (d e : Dev) : Prop :=
  (e.strand c k).getG g = (if g = 0 then 0 else v) ∧ (e.strand c k).pc = (d.strand c k).pc + 4 ∧
    (∀ q, q ≠ g → (e.strand c k).getG q = (d.strand c k).getG q) ∧ ∀ x ∈ (e.cl c).reqs, x.tag ≠ tag

theorem Strand.getG_setG_self (st : Strand) (g : GReg) (v : Word) : (st.setG g v).getG g = if g = 0 then 0 else v := by
  split
  case isTrue h => rw [h, Strand.getG_zero]
  case isFalse h => exact Strand.getG_setG_same st g v (fun e => h (Fin.ext e))

section
variable {c : ClusterId} {k : StrandIx} {tag : Nat} {g : GReg} {v : Word} {d e u : Dev}

/-- The write of the register and the step to the next instruction complete it, once the request is gone. -/
theorem requestDone_modStrand (hpc : (e.strand c k).pc = (d.strand c k).pc) (hg : ∀ q, (e.strand c k).getG q = (d.strand c k).getG q)
    (hreqs : ∀ x ∈ (e.cl c).reqs, x.tag ≠ tag) :
    RequestDone c k tag g v d (e.modStrand c k (fun st => (st.setG g v).advance 4)) := by
  refine ⟨?_, ?_, fun q hq => ?_, ?_⟩
  · rw [Dev.strand_modStrand_same, Strand.getG_advance, Strand.getG_setG_self]
  · rw [Dev.strand_modStrand_same, Strand.advance_pc, Strand.setG_pc, hpc]
  · rw [Dev.strand_modStrand_same, Strand.getG_advance, Strand.getG_setG_ne _ _ _ _ (Ne.symm hq), hg]
  · rwa [Dev.cl_modStrand_reqs]

/-- What follows without a change of the strand's registers, its program counter or the tags of the requests leaves it complete. -/
theorem RequestDone.keep (h : RequestDone c k tag g v d e) (hpc : (u.strand c k).pc = (e.strand c k).pc)
    (hg : ∀ q, (u.strand c k).getG q = (e.strand c k).getG q) (hreqs : ∀ x ∈ (u.cl c).reqs, ∃ y ∈ (e.cl c).reqs, y.tag = x.tag) :
    RequestDone c k tag g v d u := by
  obtain ⟨hv, hp, hq, hr⟩ := h
  refine ⟨by rw [hg, hv], by rw [hpc, hp], fun q hne => by rw [hg, hq q hne], fun x hx => ?_⟩
  obtain ⟨y, hy, hxy⟩ := hreqs x hx
  exact hxy ▸ hr y hy

end

@[simp] theorem Dev.acquire_mem (d : Dev) (c : ClusterId) (k : StrandIx) : (d.acquire c k).mem = d.mem := rfl
theorem Dev.cl_acquire (d : Dev) (c : ClusterId) (k : StrandIx) :
    (d.acquire c k).cl c = (d.modStrand c k (fun st => { st with acqTag := (d.cl c).nextTag })).cl c := rfl
@[simp] theorem Dev.acquire_reqs (d : Dev) (c : ClusterId) (k : StrandIx) : ((d.acquire c k).cl c).reqs = (d.cl c).reqs := by
  rw [Dev.cl_acquire, Dev.cl_modStrand_reqs]
@[simp] theorem Dev.acquire_signals (d : Dev) (c : ClusterId) (k : StrandIx) : ((d.acquire c k).cl c).signals = (d.cl c).signals := by
  rw [Dev.cl_acquire, Dev.cl_modStrand_signals]
theorem Dev.strand_acquire (d : Dev) (c : ClusterId) (k : StrandIx) :
    (d.acquire c k).strand c k = { d.strand c k with acqTag := (d.cl c).nextTag } := by
  rw [Dev.strand, Dev.cl_acquire, ← Dev.strand, Dev.strand_modStrand_same]
@[simp] theorem Dev.acquire_pc (d : Dev) (c : ClusterId) (k : StrandIx) : ((d.acquire c k).strand c k).pc = (d.strand c k).pc := by
  rw [Dev.strand_acquire]
@[simp] theorem Dev.acquire_getG (d : Dev) (c : ClusterId) (k : StrandIx) (q : GReg) :
    ((d.acquire c k).strand c k).getG q = (d.strand c k).getG q := by
  rw [Dev.strand_acquire]; rfl

/-! ### Replies of other devices (03 R95) -/

@[simp] theorem Dev.cl_peerRefusal (d : Dev) (c e : ClusterId) (k : StrandIx) (ga : Word) : (d.peerRefusal c k ga).cl e = d.cl e := rfl
@[simp] theorem Dev.strand_peerRefusal (d : Dev) (c e : ClusterId) (k j : StrandIx) (ga : Word) :
    (d.peerRefusal c k ga).strand e j = d.strand e j := rfl

/-- The request that carries a tag is the one awaited, if it goes to another device and has no answer yet. -/
theorem Dev.peerReq_of_find {d : Dev} {c : ClusterId} {tag : Nat} {r : Req} (h : (d.cl c).reqs.find? (fun x => x.tag = tag) = some r)
    (ha : r.act.isSome = true) (hr : r.reply = none) : d.peerReq c tag = some r := by
  obtain ⟨ht, as, bs, hl, has⟩ := List.find?_eq_some_iff_append.mp h
  refine List.find?_eq_some_iff_append.mpr ⟨by simpa [ha, hr] using ht, as, bs, hl, fun x hx => ?_⟩
  have hne : x.tag ≠ tag := by simpa using has x hx
  simp [hne]

/-- With no signal operation waiting in the cluster there is none to perform. -/
theorem Dev.flushSignals_of_nil {d : Dev} {c : ClusterId} (h : (d.cl c).signals = []) : d.flushSignals c = d := by
  have e : (d.cl c) = { d.cl c with signals := [] } := by rw [← h]
  simp only [Dev.flushSignals, h, List.foldl_nil, Dev.modCl]
  rw [← e, Dev.setCl, Dev.cl, vset_vget]

section
variable {d : Dev} {c : ClusterId} {k : StrandIx} {r : Req} {g : GReg} {n : Nat} {sg : Bool} {bs : List Byte}

/-- A load's reply of the length asked for is written to its register. -/
theorem Dev.reply_load (hk : r.kind = .load g n sg) (hw : r.who = .strand k) (hn : bs.length = n) :
    d.reply c r bs = ((d.dropReq c r.tag).acquired c k r).modStrand c k (fun st => (st.setG g (extend n sg (leNat bs))).advance 4) := by
  simp only [Dev.reply, hk, hw, hn, if_true]

/-- A load's reply without bytes refuses it: it completes with zero, and the refusal is reported (01 R18). -/
theorem Dev.reply_load_refused (hk : r.kind = .load g n sg) (hw : r.who = .strand k) (hn : n ≠ 0) :
    d.reply c r [] = ((d.dropReq c r.tag).peerRefusal c k r.addr).modStrand c k (fun st => (st.setG g 0).advance 4) := by
  simp only [Dev.reply, hk, hw, List.length_nil, hn.symm, if_false, (Nat.succ_ne_zero n).symm]

theorem requestDone_reply_load (hk : r.kind = .load g n sg) (hw : r.who = .strand k) (hn : bs.length = n) :
    RequestDone c k r.tag g (extend n sg (leNat bs)) d (d.reply c r bs) ∧ (d.reply c r bs).mem = d.mem ∧
      ((d.reply c r bs).cl c).signals = (d.cl c).signals := by
  rw [Dev.reply_load hk hw hn]
  unfold Dev.acquired
  split
  · exact ⟨requestDone_modStrand (by simp) (by simp) (by simpa using Dev.tag_ne_of_mem_dropReq), by simp, by simp⟩
  · exact ⟨requestDone_modStrand (by simp) (by simp) Dev.tag_ne_of_mem_dropReq, by simp, by simp⟩

theorem requestDone_reply_refused (hk : r.kind = .load g n sg) (hw : r.who = .strand k) (hn : n ≠ 0) :
    RequestDone c k r.tag g 0 d (d.reply c r []) ∧ ⟨.peer c k, c, k, .protection, 0xFF, r.addr⟩ ∈ (d.reply c r []).reports ∧
      ((d.reply c r []).cl c).signals = (d.cl c).signals := by
  rw [Dev.reply_load_refused hk hw hn]
  exact ⟨requestDone_modStrand (by simp) (by simp) Dev.tag_ne_of_mem_dropReq, by simp [Dev.peerRefusal, Dev.report], by simp⟩

/-- REPLY_PLACEMENT hands the reply to its request; no signal operation waits for it. -/
theorem Dev.replyPlacement_eq (h : (d.cl c).reqs.find? (fun x => x.tag = r.tag) = some r) (ha : r.act.isSome = true) (hr : r.reply = none)
    (hs : ((d.reply c r bs).cl c).signals = []) : d.replyPlacement c r.tag bs = d.reply c r bs := by
  simp only [Dev.replyPlacement, Dev.peerReq_of_find h ha hr, Dev.flushSignals_of_nil hs]

/-- PATH_TIMEOUT of a load without a path refuses it as a reply without bytes does (17 R483). -/
theorem Dev.pathTimeout_load (h : (d.cl c).reqs.find? (fun x => x.tag = r.tag) = some r) (ha : r.act.isSome = true) (hr : r.reply = none)
    (hk : r.kind = .load g n sg) (hp : r.port = none) (hf : d.freePort = none) : d.pathTimeout c r.tag = d.reply c r [] := by
  simp only [Dev.pathTimeout, Dev.peerReq_of_find h ha hr, hp, hf, Req.refusal, hk]
  rfl

end

/-! ### Presence words issued again (04 R142) and limits passed (R143) -/

section
variable {d : Dev} {c : ClusterId} {k : StrandIx} {r : Req} {g : GReg} {take : Bool} {h : ClusterId} {o t0 : Nat}

theorem Dev.reqStrand_of_find (hf : (d.cl c).reqs.find? (fun x => x.tag = r.tag) = some r) (hw : r.who = .strand k) :
    d.reqStrand c r.tag = some (k, r.addr) := by
  simp only [Dev.reqStrand, hf, hw]

/-- The word of an RDF or TAKE answers its strand: the request is gone, the register written, the instruction complete. -/
theorem Dev.answer_strand (hf : (d.cl c).reqs.find? (fun x => x.tag = r.tag) = some r) (hw : r.who = .strand k)
    (hk : r.kind = .presence take h o g) (v : Word) :
    d.answer c r.tag v = (d.dropReq c r.tag).modStrand c k (fun st => (st.setG g v).advance 4) := by
  simp only [Dev.answer, hf, hw, hk]
  rfl

/-- The device after a strand's RDF or TAKE has taken its word, which is an acquire (04 R130). -/
def Dev.wordTaken (d : Dev) (c : ClusterId) (k : StrandIx) (tag : Nat) (g : GReg) (take : Bool) (key : Nat) (v : Word) : Dev :=
  let e := ((d.dropReq c tag).modStrand c k (fun st => (st.setG g v).advance 4)).acquire c k
  if take then { e with full := sdel e.full (key / 8) } else e

theorem Dev.deliverWord_strand (hf : (d.cl c).reqs.find? (fun x => x.tag = r.tag) = some r) (hw : r.who = .strand k)
    (hk : r.kind = .presence take h o g) {key : Nat} (hp : smem d.poison (key / 64) = false) (v : Word) :
    d.deliverWord c r.tag take key v = (take, d.wordTaken c k r.tag g take key v) := by
  simp only [Dev.deliverWord, Dev.reqStrand_of_find hf hw, hp, Dev.answer_strand hf hw hk, Dev.wordTaken]
  cases take <;> rfl

theorem requestDone_wordTaken (tag key : Nat) (v : Word) : RequestDone c k tag g v d (d.wordTaken c k tag g take key v) := by
  have hdone : RequestDone c k tag g v d (((d.dropReq c tag).modStrand c k (fun st => (st.setG g v).advance 4)).acquire c k) :=
    (requestDone_modStrand (e := d.dropReq c tag) (by simp) (by simp) Dev.tag_ne_of_mem_dropReq).keep (by simp) (by simp)
      (fun x hx => ⟨x, by simpa using hx, rfl⟩)
  cases take <;> exact hdone

/-- PRESENCE_REISSUE at a bank that is BUSY traps the strand with BANK_MOVED (02 R72). -/
theorem Dev.presenceReissue_bankMoved (hf : (d.cl c).reqs.find? (fun x => x.tag = r.tag) = some r) (hw : r.who = .strand k)
    (hk : r.kind = .presence take h o g) (ht : r.reissue = some t0) (hnow : t0 ≤ d.now)
    (hb : d.bankCheck (d.partOf c) h o = some .bankMoved) :
    d.presenceReissue c r.tag = d.trapReq c r.tag k .bankMoved r.addr := by
  simp only [Dev.presenceReissue, hf, hk, ht, Nat.not_lt.mpr hnow, if_false, hb, Dev.bankRefuses, Dev.reqStrand_of_find hf hw, if_true]

/-- No request is due to be issued again under the tag. -/
def Dev.clearReissue (d : Dev) (c : ClusterId) (tag : Nat) : Dev :=
  d.modCl c (fun cl => { cl with reqs := cl.reqs.map (fun q => if q.tag = tag then { q with reissue := none } else q) })

@[simp] theorem Dev.strand_clearReissue (d : Dev) (c : ClusterId) (k : StrandIx) (tag : Nat) :
    (d.clearReissue c tag).strand c k = d.strand c k := Dev.strand_modCl k rfl
theorem Dev.mem_reqs_clearReissue {x : Req} {tag : Nat} (hx : x ∈ ((d.clearReissue c tag).cl c).reqs) :
    ∃ y ∈ (d.cl c).reqs, y.tag = x.tag := by
  simp only [Dev.clearReissue, Dev.cl_modCl_same, List.mem_map] at hx
  obtain ⟨y, hy, rfl⟩ := hx
  exact ⟨y, hy, by split <;> rfl⟩

theorem RequestDone.clearReissue {tag : Nat} {v : Word} {e : Dev} (hdone : RequestDone c k tag g v d e) :
    RequestDone c k tag g v d (e.clearReissue c tag) :=
  hdone.keep (by rw [Dev.strand_clearReissue]) (fun q => by rw [Dev.strand_clearReissue]) (fun _ => Dev.mem_reqs_clearReissue)

/-- PRESENCE_REISSUE of a strand's request whose word is full takes the word; a TAKE, which empties it, triggers the monitors of its
granule. -/
theorem Dev.presenceReissue_full (hf : (d.cl c).reqs.find? (fun x => x.tag = r.tag) = some r) (hw : r.who = .strand k)
    (hk : r.kind = .presence take h o g) (ht : r.reissue = some t0) (hnow : t0 ≤ d.now) (hb : d.bankCheck (d.partOf c) h o = none)
    (hp : smem d.poison (d.scratchKeyOf h o / 64) = false) (hfull : smem d.full (d.scratchKeyOf h o / 8) = true) :
    let v := leWord (memReadN d.mem (d.scratchKeyOf h o) 8)
    let e := (d.wordTaken c k r.tag g take (d.scratchKeyOf h o) v).clearReissue c r.tag
    d.presenceReissue c r.tag = if take then e.notify none (d.scratchKeyOf h o / 64) else e := by
  simp only [Dev.presenceReissue, hf, hk, ht, Nat.not_lt.mpr hnow, if_false, hb, hfull, if_true, Dev.deliverWord_strand hf hw hk hp]
  rfl

/-- DEFER_TIMEOUT past its limit cancels a strand's request and traps the strand (04 R143, R144). -/
theorem Dev.deferTimeout_strand (hf : (d.cl c).reqs.find? (fun x => x.tag = r.tag) = some r) (hw : r.who = .strand k)
    (hk : r.kind = .presence take h o g) (hl : r.limit ≠ 0) (hr : r.reply = none) (hnow : r.first + r.limit ≤ d.now) :
    d.deferTimeout c r.tag = (d.cancelReq c r.tag).modStrand c k (fun st => st.enterTrap .deferTimeout 0 r.addr st.pc) := by
  simp only [Dev.deferTimeout, hf, hk, hw, hl, hr, Nat.not_lt.mpr hnow]
  rfl

theorem requestDone_presenceReissue (hf : (d.cl c).reqs.find? (fun x => x.tag = r.tag) = some r) (hw : r.who = .strand k)
    (hk : r.kind = .presence take h o g) (ht : r.reissue = some t0) (hnow : t0 ≤ d.now) (hb : d.bankCheck (d.partOf c) h o = none)
    (hp : smem d.poison (d.scratchKeyOf h o / 64) = false) (hfull : smem d.full (d.scratchKeyOf h o / 8) = true) :
    RequestDone c k r.tag g (leWord (memReadN d.mem (d.scratchKeyOf h o) 8)) d (d.presenceReissue c r.tag) ∧
      (d.presenceReissue c r.tag).full = (if take then sdel d.full (d.scratchKeyOf h o / 8) else d.full) ∧
      (d.presenceReissue c r.tag).mem = d.mem := by
  rw [Dev.presenceReissue_full hf hw hk ht hnow hb hp hfull]
  have hdone := (requestDone_wordTaken (d := d) (c := c) (k := k) (g := g) (take := take) r.tag (d.scratchKeyOf h o)
    (leWord (memReadN d.mem (d.scratchKeyOf h o) 8))).clearReissue
  cases take <;> exact ⟨hdone, rfl, rfl⟩

end

/-- A memory that is the same reads the same. -/
theorem SameMemory.of_mem_eq {d e : Dev} (h : e.mem = d.mem) : SameMemory d e := fun a => by rw [h]

/-- Settles O29: each way of ending a request has its equation above, and what it leaves is read off that. -/
theorem outstandingRequests : Obligations.OutstandingRequests := by
  unfold Obligations.OutstandingRequests
  intro s c k r g n sg bs take h o t0 st done hf hw
  refine ⟨fun hk ha hr hn hs => ?_, fun hk => ⟨fun ht hnow hb => ?_, fun ht hnow hb hp hfull => ?_, fun hl hr hnow => ?_⟩⟩
  · have hn0 : n ≠ 0 := by omega
    obtain ⟨hdone0, hrep, hsig0⟩ := requestDone_reply_refused (d := s.dev) (c := c) hk hw hn0
    refine ⟨fun hlen => ⟨_, rfl, ?_⟩, ⟨_, rfl, ?_⟩, fun hp hfree => ⟨_, rfl, ?_⟩⟩
    · obtain ⟨hdone, hmem, hsig⟩ := requestDone_reply_load (d := s.dev) (c := c) hk hw hlen
      rw [Dev.replyPlacement_eq hf ha hr (hsig.trans hs)]
      rw [extend_of_lt hn (hlen ▸ leNat_lt bs)] at hdone
      exact ⟨hdone, .of_mem_eq hmem⟩
    · rw [Dev.replyPlacement_eq hf ha hr (hsig0.trans hs)]
      exact ⟨hdone0, hrep⟩
    · rw [Dev.pathTimeout_load hf ha hr hk hp hfree]
      exact ⟨hdone0, hrep⟩
  · refine ⟨_, rfl, ?_⟩
    rw [Dev.presenceReissue_bankMoved hf hw hk ht hnow hb, Dev.trapReq_eq]
    refine ⟨by simp, by simp, by simp [st], ?_, by simp, .of_mem_eq (by simp)⟩
    rw [Dev.cl_modStrand_reqs]
    exact Dev.tag_ne_of_mem_dropReq
  · obtain ⟨hdone, he, hmem⟩ := requestDone_presenceReissue hf hw hk ht hnow hb hp hfull
    exact ⟨_, rfl, hdone, he, .of_mem_eq hmem⟩
  · refine ⟨_, rfl, ?_⟩
    rw [Dev.deferTimeout_strand hf hw hk hl hr hnow]
    refine ⟨by simp [Cause.code], by simp, by simp [st], by simp, by simp, fun q => by simp [st, Strand.getG], ?_, by simp, .of_mem_eq (by simp)⟩
    rw [Dev.cl_modStrand_reqs]
    exact Dev.tag_ne_of_mem_cancelReq

end Sys2Proof.Machine

/-! The retirement of a pseudo-channel (03 R113, R114): its start, and the storage that its end leaves alone. -/

namespace Sys2Proof.Machine

/-- Entries at a byte's address that a filter keeps are all that a read of the byte sees. -/
theorem memRead_filter {p : Host.Cell → Bool} (m : Memory) {q : Nat} (h : ∀ c ∈ m, c.1 = q → p c = true) :
    memRead (m.filter p) q = memRead m q := by
  induction m with
  | nil => rfl
  | cons c t ih =>
    obtain ⟨a, b⟩ := c
    have ht := ih (fun x hx => h x (List.mem_cons_of_mem _ hx))
    by_cases ha : a = q
    · rw [List.filter_cons_of_pos (h _ List.mem_cons_self ha)]
      simp only [memRead, ha, if_true]
    · rw [List.filter_cons]
      split <;> simp only [memRead, ha, if_false, ht]

section
variable {d : Dev} {n : PartId} {pcx spare : Nat}

/-- A GO that passes every check of R113. -/
theorem Dev.retireErr_eq_zero (hmap : pcx ∈ (d.part n).mb.cmap) (hsp : d.isSpare n spare = true) (hfree : spare ∉ (d.part n).mb.cmap)
    (hpieces : ∀ e ∈ (d.part n).mb.pieces, e.2 ≠ spare) (hnone : (d.part n).mb.retiring = none) : d.retireErr n pcx spare = 0 := by
  have hany : (d.part n).mb.pieces.any (fun e => e.2 = spare) = false := by simpa using hpieces
  simp [Dev.retireErr, hmap, hsp, hfree, hany, hnone]

/-- RETIREMENT_COMPLETE leaves every byte outside the spare alone: only bytes of the spare are cleared, and every copied byte lands there. -/
theorem Dev.memRead_retireDone {q : Nat} (hr : (d.part n).mb.retiring = some (pcx, spare))
    (hq : q < spare * 2 ^ 29 ∨ (spare + 1) * 2 ^ 29 ≤ q) : memRead (d.retireDone n).mem q = memRead d.mem q := by
  simp only [Dev.retireDone, hr, Dev.modPart_mem, Dev.modMb]
  rw [memRead_memWriteCells_outside, memRead_filter]
  · intro c _ hc
    simp only [Bool.not_eq_true', Bool.and_eq_false_iff, decide_eq_false_iff_not]
    omega
  · intro x hx
    simp only [List.mem_map, List.mem_filter, Bool.and_eq_true, decide_eq_true_eq] at hx
    obtain ⟨c, ⟨_, ⟨hlo, hhi⟩, _⟩, rfl⟩ := hx
    dsimp only
    omega

theorem Dev.retireDone_clusters (d : Dev) (n : PartId) : (d.retireDone n).clusters = d.clusters := by
  unfold Dev.retireDone
  split <;> rfl

/-- The partition's memory block after the retirement has ended (R114). -/
theorem Dev.mb_retireDone (hr : (d.part n).mb.retiring = some (pcx, spare)) :
    ∃ p, ((d.retireDone n).part n).mb = { (d.part n).mb with
      retiring := none, mapVer := (d.part n).mb.mapVer + 1, cmap := (d.part n).mb.cmap.map (fun x => if x = pcx then spare else x),
      pieces := p, retired := (d.part n).mb.retired ++ [(pcx, spare, ((d.part n).mb.mapVer + 1).toNat)] } := by
  simp only [Dev.retireDone, hr, Dev.modMb, Dev.part_modPart_same]
  exact ⟨_, rfl⟩

end

/-- A write of CHRETIRE changes its partition alone (R113). -/
theorem onlyPart_writeChretire (s : State) (n : PartId) (v : Word) : OnlyPart n s (s.after (s.dev.writeChretire n v)) := by
  unfold OnlyPart Dev.writeChretire
  dsimp only
  split <;> simp [Dev.modMb, Dev.modPart, Dev.setPart, Dev.part, State.after]

/-- What a GO that is accepted leaves in the partition's memory block. -/
theorem Dev.mb_writeChretire {d : Dev} {n : PartId} {v : Word} (hgo : v.getLsbD 63 = true)
    (hmap : v.toNat % 2 ^ 11 ∈ (d.part n).mb.cmap) (hsp : d.isSpare n (v.toNat / 2 ^ 16 % 2 ^ 11) = true)
    (hfree : v.toNat / 2 ^ 16 % 2 ^ 11 ∉ (d.part n).mb.cmap) (hpieces : ∀ e ∈ (d.part n).mb.pieces, e.2 ≠ v.toNat / 2 ^ 16 % 2 ^ 11)
    (hnone : (d.part n).mb.retiring = none) :
    ((d.writeChretire n v).part n).mb = { (d.part n).mb with
      chSpare := BitVec.ofNat 11 (v.toNat / 2 ^ 16 % 2 ^ 11), chPcx := BitVec.ofNat 11 (v.toNat % 2 ^ 11), chErr := 0,
      retiring := some (v.toNat % 2 ^ 11, v.toNat / 2 ^ 16 % 2 ^ 11) } := by
  have hbit : bit v.toNat 63 = true := by
    rw [BitVec.getLsbD, Nat.testBit_eq_decide_div_mod_eq] at hgo
    exact hgo
  have hpcx : bits v.toNat 10 0 = v.toNat % 2 ^ 11 := by simp [bits]
  have hspare : bits v.toNat 26 16 = v.toNat / 2 ^ 16 % 2 ^ 11 := rfl
  simp only [Dev.writeChretire, hpcx, hspare, hbit, Bool.not_true, Bool.false_eq_true, if_false]
  rw [Dev.retireErr_eq_zero]
  · simp [Dev.modMb]
  case hmap => simpa [Dev.modMb] using hmap
  case hsp => exact hsp
  case hfree => simpa [Dev.modMb] using hfree
  case hpieces => simpa [Dev.modMb] using hpieces
  case hnone => simpa [Dev.modMb] using hnone

/-- Settles O33: the accepted write and the end of the retirement by their equations for the memory block, the storage by
`memRead_retireDone`. -/
theorem channelRetirement : Obligations.ChannelRetirement := by
  unfold Obligations.ChannelRetirement
  intro s n v pcx spare mb
  refine ⟨fun hgo hnone hmap hsp hfree hpieces => ⟨_, rfl, onlyPart_writeChretire s n v, ?_⟩, fun hr _ => ⟨_, rfl, ?_⟩⟩
  · rw [Dev.mb_writeChretire hgo hmap hsp hfree hpieces hnone]
    exact ⟨rfl, rfl, rfl⟩
  · obtain ⟨p, hp⟩ := Dev.mb_retireDone hr
    dsimp only
    rw [hp]
    exact ⟨rfl, rfl, rfl, rfl, Dev.retireDone_clusters s.dev n, fun q => Dev.memRead_retireDone hr⟩

end Sys2Proof.Machine

/-! One step (05 R166, 07 R230, 03 R114): the turn that it makes, and the instruction that a core's turn runs. -/

namespace Sys2Proof.Machine

/-! ### The step's turn -/

section
variable {s u : State} {t : Turn} {rest : List Turn} {c : ClusterId} {k : StrandIx}

/-- A turn of a device whose clocks run is made, with what a map fence leaves of it (03 R114), unless it is an access from outside behind a held
one. -/
theorem step_of_turn (hs : s.dev.stopped = false) (ht : s.turns = t :: rest) (hb : s.behind t = false) :
    step s = ({ s with turns := rest } : State).keep t (({ s with turns := rest } : State).countedTurn t) := by
  simp only [step, ht, hs, hb, Bool.false_and, Bool.false_eq_true, if_false]

/-- An access from outside waits behind a held one. -/
theorem step_of_behind (hs : s.dev.stopped = false) (ht : s.turns = t :: rest) (hb : s.behind t = true) :
    step s = .next (({ s with turns := rest } : State).hold t) := by
  simp only [step, ht, hs, hb, Bool.false_and, Bool.false_eq_true, if_false, if_true]

theorem State.countedTurn_of_next (h : s.turn t = .next u) : s.countedTurn t = .next u.counted := by
  simp only [State.countedTurn, h]

/-- A turn that meets no map fence is the step, the increments of its reads performed at its end (01 R46). -/
theorem step_of_turn_next (hs : s.dev.stopped = false) (ht : s.turns = t :: rest) (hb : s.behind t = false)
    (hu : ({ s with turns := rest } : State).turn t = .next u) (hf : u.counted.dev.fenceMet = false) : step s = .next u.counted := by
  simp only [step_of_turn hs ht hb, State.countedTurn_of_next hu, State.keep, hf, Bool.false_eq_true, if_false]

/-- A turn whose request a map fence holds is withdrawn. -/
theorem step_of_turn_fenced (hs : s.dev.stopped = false) (ht : s.turns = t :: rest) (hb : s.behind t = false)
    (hu : ({ s with turns := rest } : State).turn t = .next u) (hf : u.counted.dev.fenceMet = true) :
    step s = .next (({ s with turns := rest } : State).withdraw t) := by
  simp only [step_of_turn hs ht hb, State.countedTurn_of_next hu, State.keep, hf, if_true]

/-- Only accesses from outside wait behind held ones. -/
theorem State.behind_of_inside (h : t.outside = false) : s.behind t = false := by
  simp only [State.behind, h, Bool.false_and]

/-! ### What a core's turn runs -/

theorem State.turn_core (hp : s.dev.pick c = some k)
    (hn : let s0 : State := { s with dev := s.dev.modCl c (fun cl => { cl with last := k }), curC := c, curK := k }
      (s0.me.ie && s0.dev.takesAsync c k && (s0.dev.pending c k).isSome) = false) :
    s.turn (.core c) =
      State.issue { s with dev := s.dev.modCl c (fun cl => { cl with last := k }), curC := c, curK := k } := by
  simp only [State.turn, hp]
  exact if_neg (Bool.eq_false_iff.mp hn)

theorem State.turn_retry (hr : s.dev.retries c k = true) : s.turn (.retry c k) = State.issue { s with curC := c, curK := k } := by
  simp only [State.turn, hr, if_true]

variable {w w2 : Nat} {d : Dev} {i : Instr} {e : Reject}

theorem State.issue_of_decode (hf : fetchPair s.curC s.curK s.dev = (.ok (w, w2), d)) (hd : decode w w2 = .ok i) :
    s.issue = exec i { s with dev := d.modStrand s.curC s.curK (fun st => { st with atVector := false }) } := by
  simp only [State.issue, hf, hd]

theorem State.issue_of_reject (hf : fetchPair s.curC s.curK s.dev = (.ok (w, w2), d)) (hd : decode w w2 = .error e) :
    s.issue = exec (.illegalInstruction (BitVec.ofNat 32 w))
      { s with dev := d.modStrand s.curC s.curK (fun st => { st with atVector := false }) } := by
  simp only [State.issue, hf, hd]

end

/-! ### The word at the program counter -/

theorem memReadN_length (m : Memory) (a n : Nat) : (memReadN m a n).length = n := by
  induction n generalizing a with
  | zero => rfl
  | succ n ih => simp only [memReadN, List.length_cons, ih]

/-- The value of four bytes is a 32-bit word (07 R230). -/
theorem toNat_word_memReadN (m : Memory) (a : Nat) : (BitVec.ofNat 32 (leNat (memReadN m a 4))).toNat = leNat (memReadN m a 4) := by
  have h := leNat_lt (memReadN m a 4)
  rw [memReadN_length] at h
  exact Nat.mod_eq_of_lt h

theorem atWord_ok {a : Word} {m : Acc W32} {d e : Dev} {w : W32} (h : m d = (.ok w, e)) : atWord a m d = (.ok w, e) := by
  simp only [atWord, h]

section
variable {x : Ctx} {d : Dev} {pc a : Word} {h : ClusterId} {o : Nat}

/-- A fetch from scratchpad of a word that is not fetched ahead. -/
theorem fetchWord_scratch (hr : resolve x a .fetch d = (.ok (.scratch h o), d)) (hs : d.signalWaits x (.scratch h o) = false)
    (hb : d.bankCheck (d.partOf h) h o = none) (hp : smem d.poison (d.scratchKeyOf h o / 64) = false) :
    fetchWord x [] pc a d = (.ok (BitVec.ofNat 32 (leNat (memReadN d.mem (d.scratchKeyOf h o) 4))), d) := by
  show fetchWord.readFetch x a d = _
  unfold fetchWord.readFetch
  rw [run_bind_ok hr, run_bind_ok (readT_scratch hb hs)]
  simp only [hp, Bool.false_eq_true, if_false]
  rfl

/-- An instruction of one word is fetched alone (07 R230). -/
theorem fetchPair_one {c : ClusterId} {k : StrandIx} {e : Dev} {w : W32} (hal : (d.strand c k).pc.toNat % 4 = 0)
    (hw : fetchWord (d.strandCtx c k) (d.strand c k).ahead (d.strand c k).pc (d.strand c k).pc d = (.ok w, e))
    (hx : w.toNat / 2 ^ 26 ≠ 0x3F) : fetchPair c k d = (.ok (w.toNat, 0), e) := by
  unfold fetchPair
  rw [run_bind_ok (run_get d)]
  simp only [hal, bne_self_eq_false, Bool.false_eq_true, if_false]
  rw [run_bind_ok (atWord_ok hw), if_neg hx]
  rfl

/-- The word at an aligned program counter in scratchpad is the four bytes there. -/
theorem fetchPair_scratch {c : ClusterId} {k : StrandIx} (hal : (d.strand c k).pc.toNat % 4 = 0) (ha : (d.strand c k).ahead = [])
    (hr : resolve (d.strandCtx c k) (d.strand c k).pc .fetch d = (.ok (.scratch h o), d))
    (hs : d.signalWaits (d.strandCtx c k) (.scratch h o) = false) (hb : d.bankCheck (d.partOf h) h o = none)
    (hp : smem d.poison (d.scratchKeyOf h o / 64) = false) (hx : leNat (memReadN d.mem (d.scratchKeyOf h o) 4) / 2 ^ 26 ≠ 0x3F) :
    fetchPair c k d = (.ok (leNat (memReadN d.mem (d.scratchKeyOf h o) 4), 0), d) := by
  have hw := fetchWord_scratch (pc := (d.strand c k).pc) hr hs hb hp
  rw [← ha] at hw
  rw [← toNat_word_memReadN] at hx ⊢
  exact fetchPair_one hal hw hx

end

/-- Settles O52: each kind of turn has its equation above; a fetch from scratchpad is `fetchWord_scratch`. -/
theorem stepRunsDecoded : Obligations.StepRunsDecoded := by
  unfold Obligations.StepRunsDecoded
  intro s u c k rest w w2 d1 i e h o t s0 r0 ran x st n0 goes hs
  refine ⟨fun hg ht hp hn hf => ⟨fun hd hu => ?_, fun hd hu => ?_⟩, fun hg ht hr hf hd hu => ?_, fun hg ht hb hu => ?_, fun ht hb hu hf => ?_,
    fun ht hb => step_of_behind hs ht hb, fetchPair_scratch⟩
  · refine step_of_turn_next hs ht (State.behind_of_inside rfl) ?_ hg
    exact (State.turn_core (s := n0) hp hn).trans ((State.issue_of_decode (s := s0) hf hd).trans hu)
  · refine step_of_turn_next hs ht (State.behind_of_inside rfl) ?_ hg
    exact (State.turn_core (s := n0) hp hn).trans ((State.issue_of_reject (s := s0) hf hd).trans hu)
  · refine step_of_turn_next hs ht (State.behind_of_inside rfl) ?_ hg
    exact (State.turn_retry (s := n0) hr).trans ((State.issue_of_decode (s := r0) hf hd).trans hu)
  · exact step_of_turn_next hs ht hb hu hg
  · exact step_of_turn_fenced hs ht hb hu hf

end Sys2Proof.Machine

/-! Accesses at homes, translations and reads: what they leave of clusters and regions (01 R30, 03 R91, 04 R123). -/

namespace Sys2Proof.Machine

/-! ### What leaves every cluster as it is -/

/-- What keeps a part of the device at each step keeps it over a list. -/
theorem foldl_keeps {α β γ : Type} (P : β → γ) {f : β → α → β} (h : ∀ b a, P (f b a) = P b) (l : List α) (b : β) :
    P (l.foldl f b) = P b :=
  List.foldlRecOn l f (motive := fun x => P x = P b) rfl (fun x hx a _ => (h x a).trans hx)

section
variable (d : Dev) (p : PartId) (pa : Nat)

@[simp] theorem Dev.notify_clusters (b : Option (ClusterId × StrandIx)) (g : Nat) : (d.notify b g).clusters = d.clusters := rfl
@[simp] theorem Dev.written_clusters (b : Option (ClusterId × StrandIx)) (g : Nat) : (d.written b g).clusters = d.clusters := rfl
@[simp] theorem Dev.llsPut_clusters (w : LlsWay) : (d.llsPut w).clusters = d.clusters := rfl
@[simp] theorem Dev.plruUse_clusters (w : LlsWay) (b : Bool) : (d.plruUse w b).clusters = d.clusters := rfl

@[simp] theorem Dev.clusters_bind_ : (d.bind_ p pa).clusters = d.clusters := by
  unfold Dev.bind_
  split
  · split <;> rfl
  · rfl

@[simp] theorem Dev.readWord_clusters (w : Nat) : (Dev.readWord p d w).clusters = d.clusters := by
  unfold Dev.readWord
  split
  · rfl
  · rfl
  · dsimp only
    split <;> rfl

@[simp] theorem Dev.memAtom_clusters (narrow : Bool) : (d.memAtom p pa narrow).2.clusters = d.clusters :=
  (foldl_keeps Dev.clusters (fun d w => d.readWord_clusters p w) _ _).trans (d.clusters_bind_ p pa)

@[simp] theorem Dev.putMemAtom_clusters (a : Atom) : (d.putMemAtom p pa a).clusters = d.clusters := by
  simp [Dev.putMemAtom]

@[simp] theorem Dev.writeBackLine_clusters (w : LlsWay) (i : Fin 4) : (d.writeBackLine w i).clusters = d.clusters := by
  unfold Dev.writeBackLine
  dsimp only
  split <;> simp

@[simp] theorem Dev.evict_clusters (w : LlsWay) : (d.evict w).clusters = d.clusters :=
  foldl_keeps Dev.clusters (fun d i => d.writeBackLine_clusters w i) _ _

theorem Dev.llsAlloc_clusters {e : Dev} {stream : Bool} (h : d.llsAlloc p pa stream = some e) : e.clusters = d.clusters := by
  simp only [Dev.llsAlloc] at h
  split at h
  · cases h
  · cases h
    rw [Dev.plruUse_clusters]
    split
    · exact Dev.evict_clusters d _
    · rfl

@[simp] theorem Dev.fillLine_clusters (w : LlsWay) (whole : Bool) : (d.fillLine w pa whole).2.clusters = d.clusters := by
  cases whole <;> simp [Dev.fillLine]

@[simp] theorem Dev.llsLine_clusters (cache : Nat) (narrow whole : Bool) : (d.llsLine p pa cache narrow whole).2.clusters = d.clusters := by
  unfold Dev.llsLine
  split
  · split
    · dsimp only
      split <;> rfl
    · split
      · rfl
      · simp
  · split
    · rfl
    · split
      · rfl
      case h_2 e he =>
        have hc := Dev.llsAlloc_clusters d p pa he
        split
        · exact hc
        · simpa using hc

@[simp] theorem Dev.homeAtom_clusters (cache : Nat) (narrow : Bool) : (d.homeAtom p pa cache narrow).2.clusters = d.clusters := by
  have h := d.llsLine_clusters p pa cache narrow false
  unfold Dev.homeAtom
  split
  case h_1 hl => rw [hl] at h; exact h
  case h_2 hl => rw [hl] at h; simpa using h

@[simp] theorem Dev.putHomeAtom_clusters (cache : Nat) (a : Atom) : (d.putHomeAtom p pa cache a).clusters = d.clusters := by
  have h := d.llsLine_clusters p pa cache false false
  unfold Dev.putHomeAtom
  split
  case h_1 hl => rw [hl] at h; exact h
  case h_2 hl => rw [hl] at h; simpa using h

@[simp] theorem Dev.putHomeLine_clusters (cache : Nat) (a b : Atom) : (d.putHomeLine p pa cache a b).clusters = d.clusters := by
  have h := d.llsLine_clusters p pa cache false true
  unfold Dev.putHomeLine
  split
  case h_1 hl => rw [hl] at h; exact h
  case h_2 hl => rw [hl] at h; simpa using h

@[simp] theorem Dev.homeRead_clusters (n cache : Nat) (enc narrow : Bool) : (d.homeRead p pa n cache enc narrow).2.clusters = d.clusters :=
  d.homeAtom_clusters p pa cache narrow

@[simp] theorem Dev.homeWrite_clusters (cache : Nat) (enc : Bool) (cells : List (Nat × Byte)) (po : Bool)
    (b : Option (ClusterId × StrandIx)) : (d.homeWrite p pa cache enc cells po b).clusters = d.clusters := by
  cases h : coversAtom cells <;> simp [Dev.homeWrite, h]

@[simp] theorem Dev.homeWriteLine_clusters (cache : Nat) (enc : Bool) (lo hi : List (Nat × Byte)) (poLo poHi : Bool)
    (b : Option (ClusterId × StrandIx)) : (d.homeWriteLine p pa cache enc lo hi poLo poHi b).clusters = d.clusters := by
  simp [Dev.homeWriteLine]

@[simp] theorem Dev.physRead8_clusters : (d.physRead8 p pa).2.clusters = d.clusters := d.homeRead_clusters p pa 8 0 false false

@[simp] theorem Dev.physWrite8_clusters (v : Word) : (d.physWrite8 p pa v).clusters = d.clusters := by
  simp [Dev.physWrite8]

/-! Translation -/

@[simp] theorem Dev.setAD_clusters (kind : AccKind) : (d.setAD p pa kind).2.clusters = d.clusters := by
  simp [Dev.setAD, apply_ite Dev.clusters]

@[simp] theorem Dev.tlbFill_clusters (die : DieId) (asid : BitVec 16) (lvl va : Nat) (e : Word) :
    (d.tlbFill die p asid lvl va e).clusters = d.clusters := by
  simp only [Dev.tlbFill]
  split
  · rfl
  · split <;> rfl

@[simp] theorem Dev.walk_clusters (die : DieId) (asid : BitVec 16) (sup row : Bool) (kind : AccKind) (va : Nat) (levels : List Nat)
    (table : Nat) : (d.walk die p asid sup row kind va levels table).2.clusters = d.clusters := by
  induction levels generalizing d table with
  | nil => rfl
  | cons lvl rest ih =>
    have hread := d.physRead8_clusters p (table + 8 * bits va (16 + 9 * lvl + 8) (16 + 9 * lvl))
    simp only [Dev.walk]
    split
    · rfl
    · split
      · exact hread
      · split
        · exact hread
        · split
          · split
            · exact hread
            · rw [ih]; exact hread
          · split
            · exact hread
            · simp

@[simp] theorem Dev.walkFrom_clusters (die : DieId) (id : Ident) (row : Bool) (kind : AccKind) (va : Nat) :
    (d.walkFrom die p id row kind va).2.clusters = d.clusters := by
  simp only [Dev.walkFrom]
  split
  · simp
  · split
    · simp
    · split <;> simp

@[simp] theorem Dev.translate_clusters (die : DieId) (id : Ident) (row : Bool) (kind : AccKind) (va : Nat) :
    (d.translate die p id row kind va).2.clusters = d.clusters := by
  simp only [Dev.translate]
  split
  · rfl
  · split
    · split
      · rfl
      · split <;> simp
    · simp

@[simp] theorem Dev.countAccess_clusters (row : Bool) (va g : Nat) : (d.countAccess p row va pa g).clusters = d.clusters := by
  simp only [Dev.countAccess]
  split
  · rfl
  · split
    · rfl
    · simp

@[simp] theorem Dev.countVa_clusters (va : Option Nat) (g : Nat) : (d.countVa p va pa g).clusters = d.clusters := by
  cases va <;> simp [Dev.countVa]

@[simp] theorem Dev.countRead_clusters (va : Option Nat) : (d.countRead p va pa).clusters = d.clusters := by
  cases va <;> rfl

end

/-! ### What leaves the regions of a cluster as they are -/

theorem Dev.region_of_clusters {d e : Dev} (h : e.clusters = d.clusters) (c : ClusterId) (r : RegionIx) : e.region c r = d.region c r := by
  rw [Dev.region, Dev.cl, h, Dev.region, Dev.cl]

theorem Dev.region_modCl {d : Dev} {c : ClusterId} {f : Cluster → Cluster} (h : (f (d.cl c)).fab.regions = (d.cl c).fab.regions)
    (e : ClusterId) (r : RegionIx) : (d.modCl c f).region e r = d.region e r := by
  by_cases hc : c = e
  · subst hc
    rw [Dev.region, Dev.cl_modCl_same, h, Dev.region]
  · rw [Dev.region, Dev.cl_modCl_ne _ _ _ _ hc, Dev.region]

@[simp] theorem Dev.numberReq_clusters (d : Dev) (c : ClusterId) (r : Req) : (d.numberReq c r).2.clusters = d.clusters := by
  unfold Dev.numberReq
  split <;> rfl

section
variable (d : Dev) (c e : ClusterId) (r : RegionIx)

@[simp] theorem Dev.region_perform (w : Pending) : (d.perform c w).region e r = d.region e r := by
  unfold Dev.perform
  split
  · split
    · rfl
    · exact Dev.region_of_clusters (by simp) e r
  · exact (Dev.region_modCl rfl e r).trans (Dev.region_of_clusters (by simp) e r)

@[simp] theorem Dev.region_performLine (a b : Pending) : (d.performLine c a b).region e r = d.region e r := by
  unfold Dev.performLine
  split
  · exact Dev.region_of_clusters (by simp) e r
  · simp

@[simp] theorem Dev.region_performAll (l : List Pending) : (d.performAll c l).region e r = d.region e r := by
  induction d, l using Dev.performAll.induct (c := c) with
  | case1 d => rfl
  | case2 d w => exact d.region_perform c e r w
  | case3 d a b rest hm ih => rw [Dev.performAll, if_pos hm, ih, Dev.region_performLine]
  | case4 d a b rest hm ih => rw [Dev.performAll, if_neg hm, ih, Dev.region_perform]

@[simp] theorem Dev.region_drain : (d.drain c).region e r = d.region e r :=
  (Dev.region_performAll _ c e r _).trans (Dev.region_modCl rfl e r)

@[simp] theorem Dev.region_addReq (q : Req) : (d.addReq c q).2.region e r = d.region e r :=
  (Dev.region_modCl rfl e r).trans (Dev.region_of_clusters (d.numberReq_clusters c q) e r)

end

/-! ### Accesses that keep what holds of the device -/

/-- Whatever it answers, a program keeps P of the device. -/
def Keeps {ε α : Type} (P : Dev → Prop) (m : ExceptT ε (StateM Dev) α) : Prop := ∀ d, P d → P (m d).2

section
variable {ε α β : Type} {P : Dev → Prop}

protected theorem Keeps.pure (x : α) : Keeps P (pure x : ExceptT ε (StateM Dev) α) := fun _ h => h
protected theorem Keeps.throw (e : ε) : Keeps P (throw e : ExceptT ε (StateM Dev) α) := fun _ h => h
protected theorem Keeps.set {e : Dev} (h : P e) : Keeps P (set e : ExceptT ε (StateM Dev) PUnit) := fun _ _ => h

protected theorem Keeps.bind {m : ExceptT ε (StateM Dev) α} {f : α → ExceptT ε (StateM Dev) β} (hm : Keeps P m) (hf : ∀ x, Keeps P (f x)) :
    Keeps P (m >>= f) := by
  intro d hd
  have h := hm d hd
  rw [run_bind]
  split
  case h_1 v e he => rw [he] at h; exact hf v e h
  case h_2 x e he => rw [he] at h; exact h

/-- What a program reads of the device is P's. -/
protected theorem Keeps.get_bind {f : Dev → ExceptT ε (StateM Dev) β} (hf : ∀ d, P d → Keeps P (f d)) :
    Keeps P ((get : ExceptT ε (StateM Dev) Dev) >>= f) :=
  fun d hd => hf d hd d hd

protected theorem Keeps.ite {p : Prop} [Decidable p] {m n : ExceptT ε (StateM Dev) α} (hm : Keeps P m) (hn : Keeps P n) :
    Keeps P (if p then m else n) := by
  split
  · exact hm
  · exact hn

protected theorem Keeps.mapM {f : α → ExceptT ε (StateM Dev) β} (hf : ∀ x, Keeps P (f x)) (l : List α) : Keeps P (l.mapM f) := by
  induction l with
  | nil => exact Keeps.pure []
  | cons x l ih =>
    rw [List.mapM_cons]
    exact (hf x).bind fun y => ih.bind fun ys => Keeps.pure (y :: ys)

protected theorem Keeps.atGa {ga : Word} {wr : Bool} {a : Acc α} (ha : Keeps P a) : Keeps P (atGa ga wr a) := by
  refine Keeps.get_bind fun d hd => ?_
  have h := ha d hd
  split
  case h_1 x e he => rw [he] at h; exact (Keeps.set h).bind fun _ => Keeps.pure x
  case h_2 x e he => rw [he] at h; exact (Keeps.set h).bind fun _ => Keeps.throw _

end

section
variable {P : Dev → Prop}

/-- A translation leaves every cluster as it is, and so does the refusal of a PEER access; nothing else of an address's resolution changes the
device. -/
theorem keeps_resolve (hP : ∀ d e : Dev, e.clusters = d.clusters → P d → P e) (x : Ctx) (ga : Word) (kind : AccKind) :
    Keeps P (resolve x ga kind) := by
  unfold resolve
  refine Keeps.get_bind fun d hd => ?_
  split
  · exact Keeps.throw _
  refine Keeps.ite (Keeps.throw _) (Keeps.ite ?own (Keeps.ite ?cluster (Keeps.ite ?memory (Keeps.ite ?peer (Keeps.ite (Keeps.throw _)
    (Keeps.ite (Keeps.pure _) (Keeps.throw _)))))))
  case own =>
    split
    · exact Keeps.pure _
    · exact Keeps.throw _
  case cluster =>
    split
    · exact Keeps.throw _
    · refine Keeps.ite (Keeps.throw _) (Keeps.ite (Keeps.throw _) ?_)
      split
      · exact Keeps.pure _
      · exact Keeps.throw _
  case memory =>
    split
    · exact Keeps.throw _
    case h_2 q hq =>
      split
      all_goals
        rename_i ht
        have hc := congrArg Dev.clusters (congrArg Prod.snd ht)
        rw [Dev.translate_clusters] at hc
      · exact (Keeps.set (hP _ _ hc.symm hd)).bind fun _ => Keeps.throw _
      · exact (Keeps.set (hP _ _ hc.symm hd)).bind fun _ => Keeps.pure _
  case peer =>
    split
    · exact Keeps.throw _
    · refine Keeps.ite (Keeps.throw _) ?_
      split
      · exact Keeps.pure _
      · split
        · exact Keeps.pure _
        · exact (Keeps.set (hP d (d.countPeerErr _) rfl hd)).bind fun _ => Keeps.throw _

theorem keeps_uResolve (hP : ∀ d e : Dev, e.clusters = d.clusters → P d → P e) (x : Ctx) (kind : AccKind) (g : Word × Nat) :
    Keeps P (uResolve x kind g) := by
  refine Keeps.atGa ((keeps_resolve hP x g.1 kind).bind fun t => ?_)
  split
  · refine Keeps.get_bind fun d _ => ?_
    split
    · exact Keeps.throw _
    · exact Keeps.pure _
  · exact Keeps.ite (Keeps.pure _) (Keeps.throw _)
  · exact Keeps.throw _
  · exact Keeps.pure _

end

/-! Reads of a cluster's agents change its buffer, its requests and what homes hold, and no region. -/

section
variable {c : ClusterId} {r : RegionIx} {y : Region}

theorem keeps_region_peerLocal (x : Ctx) (m off n : Nat) (whole : Bool) : Keeps (fun d => d.region c r = y) (peerLocal x m off n whole) := by
  unfold peerLocal
  refine Keeps.get_bind fun d hd => ?_
  refine Keeps.ite (Keeps.throw _) (Keeps.ite (Keeps.pure _) (Keeps.ite ?_ (Keeps.ite (Keeps.throw _) (Keeps.pure _))))
  exact (Keeps.set ((d.region_drain x.c c r).trans hd)).bind fun _ => Keeps.throw _

theorem keeps_region_peerRead (x : Ctx) (ga : Word) (m off n : Nat) : Keeps (fun d => d.region c r = y) (peerRead x ga m off n) := by
  unfold peerRead
  refine Keeps.get_bind fun d hd => ?_
  split
  · split
    · exact Keeps.throw _
    · exact Keeps.ite (Keeps.pure _) (Keeps.ite (Keeps.pure _) (Keeps.throw _))
  · refine (keeps_region_peerLocal x m off n true).bind fun b => ?_
    split
    · exact Keeps.pure _
    · refine Keeps.get_bind fun d hd => ?_
      exact (Keeps.set ((d.region_addReq x.c c r _).trans hd)).bind fun _ => Keeps.throw _

theorem keeps_region_readT (x : Ctx) (ga : Word) (t : Target) (n : Nat) (narrow : Bool) :
    Keeps (fun d => d.region c r = y) (readT x ga t n narrow) := by
  unfold readT
  refine Keeps.get_bind fun d hd => Keeps.ite (Keeps.throw _) ?_
  split
  · split
    · exact Keeps.throw _
    · exact Keeps.pure _
  · exact Keeps.throw _
  · exact Keeps.throw _
  · exact keeps_region_peerRead x ga _ _ n
  · refine (Keeps.set ?_).bind fun _ => Keeps.pure _
    exact (Dev.region_of_clusters ((Dev.countRead_clusters _ _ _ _).trans (d.homeAtom_clusters _ _ _ narrow)) c r).trans hd

theorem keeps_region_readMarked (x : Ctx) (runs : List (Word × Nat)) : Keeps (fun d => d.region c r = y) (readMarked x runs) := by
  have hread : ∀ g : Word × Nat, Keeps (fun d => d.region c r = y) (uResolve x .read g) :=
    keeps_uResolve (fun d e h hd => (Dev.region_of_clusters h c r).trans hd) x .read
  refine (Keeps.mapM hread _).bind fun ts => (Keeps.mapM (fun gt => ?_) _).bind fun _ => Keeps.pure _
  exact (Keeps.atGa (keeps_region_readT x _ _ _ _)).bind fun _ => Keeps.pure _

theorem keeps_region_readBytes (x : Ctx) (ga : Word) (n : Nat) : Keeps (fun d => d.region c r = y) (readBytes x ga n) :=
  (keeps_region_readMarked x _).bind fun _ => Keeps.pure _

/-- A read of bytes, whatever comes of it, leaves every region as it is. -/
theorem Dev.region_readBytes (x : Ctx) (ga : Word) (n : Nat) (d : Dev) : (readBytes x ga n d).2.region c r = d.region c r :=
  keeps_region_readBytes x ga n d rfl

end

end Sys2Proof.Machine

/-! A region: what it keeps while its units work, an executed slot and a frozen one, the wrap of a kernel, and a stop (05 R168 to R176, R189). -/

namespace Sys2Proof.Machine

/-! ### What a region keeps while its units work -/

/-- A kernel but for its EXIT mark. -/
def Kernel.unmarked (k : Kernel) : Kernel := { k with exit_ := false }

/-- A region but for what its cells, rim, storers and nodes change in a slot, the EXIT marks of its kernels, and the step-sequencer part that it
takes as it stops. -/
def Region.core (x : Region) : Region := { x with
  rim := [], fill := [], flights := [], flags := 0, nflags := 0, tied := [], tiedCmds := [], kernels := x.kernels.map Kernel.unmarked }

@[simp] theorem vget_map {α β : Type} {n : Nat} (f : α → β) (v : Vector α n) (i : Fin n) : vget (v.map f) i = f (vget v i) := by
  simp [vget]

theorem Region.unmarked_of_core {x y : Region} (h : x.core = y.core) (n : Fin 4) :
    (vget x.kernels n).unmarked = (vget y.kernels n).unmarked := by
  have hk := congrArg (fun z => vget (Region.kernels z) n) h
  simpa only [Region.core, vget_map] using hk

/-- A field that the core keeps is the same in regions of one core. -/
theorem Region.field_of_core {α : Type} (f : Region → α) (hf : ∀ x : Region, f x.core = f x) {x y : Region} (h : x.core = y.core) :
    f x = f y := by
  rw [← hf x, h, hf]

/-- What does not rest on the EXIT mark is the same in kernels that differ in it alone. -/
theorem Kernel.field_of_unmarked {α : Type} (f : Kernel → α) (hf : ∀ k : Kernel, f k.unmarked = f k) {k m : Kernel}
    (h : k.unmarked = m.unmarked) : f k = f m := by
  rw [← hf k, h, hf]

/-- The core of a region of a cluster, and the cluster's step table. -/
def Cluster.coreAt (r : RegionIx) (cl : Cluster) : Region × StepSeq := ((vget cl.fab.regions r).core, cl.step)
/-- The core of a region and its cluster's step table, and memory. -/
def Dev.coreAt (c : ClusterId) (r : RegionIx) (d : Dev) : (Region × StepSeq) × Memory := ((d.cl c).coreAt r, d.mem)

section
variable (cl : Cluster) (r : RegionIx)

theorem Cluster.coreAt_modReg {f : Region → Region} (h : ∀ x, (f x).core = x.core) : (cl.modReg r f).coreAt r = cl.coreAt r := by
  simp only [Cluster.coreAt, Cluster.modReg, vmod, vget_vset_same, h]

@[simp] theorem Cluster.coreAt_modCell (i : Nat) (f : Cell → Cell) : (cl.modCell i f).coreAt r = cl.coreAt r := rfl
@[simp] theorem Cluster.coreAt_modPort (p : PortIx) (f : Port → Port) : (cl.modPort p f).coreAt r = cl.coreAt r := rfl

@[simp] theorem Cluster.coreAt_addRim (l : List RimVal) : (cl.addRim r l).coreAt r = cl.coreAt r := cl.coreAt_modReg r fun _ => rfl

@[simp] theorem Cluster.coreAt_land (f : Flight) : (cl.land r f).coreAt r = cl.coreAt r := by
  unfold Cluster.land
  dsimp only
  split <;> simp

@[simp] theorem Cluster.coreAt_landDue : (cl.landDue r).coreAt r = cl.coreAt r :=
  (foldl_keeps (Cluster.coreAt r) (fun cl f => cl.coreAt_land r f) _ _).trans (cl.coreAt_modReg r fun _ => rfl)

@[simp] theorem Cluster.coreAt_passThrough (t : CellTurn) (before : Cluster) : (Cluster.passThrough t before r cl).coreAt r = cl.coreAt r := by
  refine foldl_keeps (Cluster.coreAt r) (fun cl o => ?_) _ _
  dsimp only
  split
  · rfl
  · split
    · simp
    · split <;> simp

theorem map_vset {α β : Type} {n : Nat} (f : α → β) (v : Vector α n) (i : Fin n) (x : α) : (vset v i x).map f = vset (v.map f) i (f x) := by
  simp [vset]

/-- An EXIT of a cell marks a kernel, and nothing else. -/
theorem Region.core_mark (x : Region) (k : Fin 4) (fl : List Flight) (g : BitVec 5) (p : Prop) [Decidable p] :
    Region.core { x with flights := fl, flags := g, kernels := if p then vmod x.kernels k (fun k => { k with exit_ := true }) else x.kernels } =
      x.core := by
  split
  · have hm : (vmod x.kernels k (fun k => { k with exit_ := true })).map Kernel.unmarked = x.kernels.map Kernel.unmarked := by
      rw [vmod, map_vset]
      exact (congrArg _ (vget_map _ _ _).symm).trans (vset_vget _ _)
    simp only [Region.core, hm]
  · rfl

@[simp] theorem Cluster.coreAt_execTurn (t : CellTurn) (before : Cluster) : (Cluster.execTurn t before r cl).coreAt r = cl.coreAt r := by
  unfold Cluster.execTurn
  dsimp only
  rw [Cluster.coreAt_passThrough]
  generalize hb : Cluster.modReg cl r _ = base
  have hbase : base.coreAt r = cl.coreAt r := by
    rw [← hb]
    exact cl.coreAt_modReg r fun x => x.core_mark _ _ _ _
  repeat' split
  all_goals
    simp only [Cluster.coreAt_modPort, Cluster.coreAt_modCell, hbase]

end

/-! ### The executed slot (05 R168) -/

section
variable {d : Dev} {c : ClusterId} {r : RegionIx}

@[simp] theorem Dev.region_modRegion_same (f : Region → Region) : (d.modRegion c r f).region c r = f (d.region c r) := by
  simp [Dev.region, Dev.modRegion, vmod]

@[simp] theorem Dev.modRegion_mem (f : Region → Region) : (d.modRegion c r f).mem = d.mem := rfl

theorem Dev.coreAt_setCl {cl : Cluster} (h : cl.coreAt r = (d.cl c).coreAt r) : (d.setCl c cl).coreAt c r = d.coreAt c r := by
  simp only [Dev.coreAt, Dev.cl_setCl_same, h, Dev.setCl_mem]
theorem Dev.coreAt_modCl {f : Cluster → Cluster} (h : (f (d.cl c)).coreAt r = (d.cl c).coreAt r) :
    (d.modCl c f).coreAt c r = d.coreAt c r := Dev.coreAt_setCl h

@[simp] theorem Dev.region_firedBlock (g : AgIx) (n : Fin 4) (pos : AgPos) (b : Bool) :
    (d.firedBlock c g n pos b).region c r = d.region c r := Dev.region_modCl rfl c r
@[simp] theorem Dev.firedBlock_mem (g : AgIx) (n : Fin 4) (pos : AgPos) (b : Bool) : (d.firedBlock c g n pos b).mem = d.mem := rfl

/-- The next slot, and the weir after the last. -/
def Region.nextSlot (last : Bool) (x : Region) : Region := { x with
  slot := if last then 0 else x.slot + 1, weir := if last then .whole else .none, cyc := x.cyc + 1, left := x.left - 1 }

/-- The generators' blocks that a slot has fired move on (02 R73). -/
def Dev.fireAll (c : ClusterId) (p : SlotPlan) (d : Dev) : Dev :=
  p.stores.foldl (fun d s => d.firedBlock c s.1 s.2.1 s.2.2.2.after false)
    (p.loads.foldl (fun d l => d.firedBlock c l.1 l.2.1 l.2.2.2.after true) d)

@[simp] theorem Dev.region_fireAll (p : SlotPlan) : (d.fireAll c p).region c r = d.region c r :=
  (foldl_keeps (fun e : Dev => e.region c r) (fun _ _ => Dev.region_firedBlock _ _ _ _) _ _).trans
    (foldl_keeps (fun e : Dev => e.region c r) (fun _ _ => Dev.region_firedBlock _ _ _ _) _ _)
@[simp] theorem Dev.fireAll_mem (p : SlotPlan) : (d.fireAll c p).mem = d.mem :=
  (foldl_keeps Dev.mem (fun _ _ => Dev.firedBlock_mem _ _ _ _) _ _).trans (foldl_keeps Dev.mem (fun _ _ => Dev.firedBlock_mem _ _ _ _) _ _)

end

theorem Cluster.coreAt_nodes (cl : Cluster) (r : RegionIx) (v : Vector MNode 12) :
    Cluster.coreAt r { cl with fab := { cl.fab with nodes := v } } = cl.coreAt r := rfl

/-- An executed slot changes of its region, before the region moves to the next slot, only what its units change; then the fired blocks
move on. -/
theorem Dev.execSlot_eq (d : Dev) (c : ClusterId) (r : RegionIx) (p : SlotPlan) (fill : List Granule) :
    ∃ cl : Cluster, cl.coreAt r = (d.cl c).coreAt r ∧ d.execSlot c r p fill =
      (d.setCl c (cl.modReg r (Region.nextSlot (decide ((d.region c r).w ≤ (d.region c r).slot + 1))))).fireAll c p := by
  refine ⟨_, ?_, rfl⟩
  rw [Cluster.coreAt_landDue, foldl_keeps (Cluster.coreAt r), foldl_keeps (Cluster.coreAt r), Cluster.coreAt_modReg, Cluster.coreAt_addRim,
    Cluster.coreAt_modReg]
  case h => exact fun _ => rfl
  case h => exact fun _ => rfl
  case h => exact fun cl t => cl.coreAt_execTurn r t _
  case h =>
    refine fun cl n => (Cluster.coreAt_nodes _ r _).trans ?_
    rw [Cluster.coreAt_modReg, Cluster.coreAt_addRim]
    exact fun _ => rfl

theorem Dev.execSlot_mem (d : Dev) (c : ClusterId) (r : RegionIx) (p : SlotPlan) (fill : List Granule) : (d.execSlot c r p fill).mem = d.mem := by
  obtain ⟨cl, -, h⟩ := d.execSlot_eq c r p fill
  rw [h, Dev.fireAll_mem, Dev.setCl_mem]

/-- The region after an executed slot: at the next slot, its core otherwise as it was. -/
theorem Dev.region_execSlot (d : Dev) (c : ClusterId) (r : RegionIx) (p : SlotPlan) (fill : List Granule) :
    ∃ x : Region, x.core = (d.region c r).core ∧
      (d.execSlot c r p fill).region c r = x.nextSlot (decide ((d.region c r).w ≤ (d.region c r).slot + 1)) := by
  obtain ⟨cl, hcl, h⟩ := d.execSlot_eq c r p fill
  refine ⟨vget cl.fab.regions r, congrArg Prod.fst hcl, ?_⟩
  rw [h, Dev.region_fireAll, Dev.region, Dev.cl_setCl_same]
  exact vget_vset_same _ _ _

/-! ### One cycle of a region (05 R168, R175, R176) -/

/-- A frozen region runs again. -/
def Region.unfrozen (x : Region) : Region := if x.st = .frozen then { x with st := .running, fcause := 0 } else x

/-- A region that runs or is frozen, and stands at no weir, comes to its slot. -/
theorem Region.atSlot {x : Region} (hweir : x.weir = .none) (hst : x.st = .running ∨ x.st = .frozen) :
    (x.weir != .none || !(x.st = .running || x.st = .stopping || x.st = .frozen)) = false := by
  rcases hst with h | h <;> simp [hweir, h]

/-- No PREEMPT stops a region that is frozen, or at whose ports none is due with a kernel busy (05 R192). -/
theorem Dev.no_preempt {d : Dev} {c : ClusterId} {r : RegionIx}
    (h : (d.region c r).st = .frozen ∨ ((d.region c r).busy && d.preemptDue c r) = false) :
    (decide ((d.region c r).st = .running) && (d.region c r).busy && d.preemptDue c r) = false := by
  rcases h with h | h
  · simp [h]
  · rw [Bool.and_assoc, h, Bool.and_false]

section
variable {d d0 d1 : Dev} {c : ClusterId} {r : RegionIx} {p : SlotPlan} {fill : List Granule} {fs : List RFault}
  (hpre : (d.region c r).st = .frozen ∨ ((d.region c r).busy && d.preemptDue c r) = false)
  (hw : d.passWeir c r = ([], d0)) (hweir : (d0.region c r).weir = .none)
  (hst : (d0.region c r).st = .running ∨ (d0.region c r).st = .frozen) (hp : d0.planSlot c r = (p, d1))
include hpre hw hweir hst hp

/-- A slot that lacks nothing and meets no fault is executed. -/
theorem Dev.cycleRegion_executes (hs : p.stalls = []) (ht : d1.takeStores c r (moveRim (d0.region c r).rim) p.stores = (fill, fs))
    (hf : firstFault (p.faults ++ fs) = none) :
    d.cycleRegion c r = (d1.execSlot c r p fill).modRegion c r Region.unfrozen := by
  unfold Dev.cycleRegion
  rw [if_neg (Bool.eq_false_iff.mp (Dev.no_preempt hpre))]
  simp only [hw]
  simp only [List.isEmpty_nil, Bool.not_true, Region.atSlot hweir hst, hp, hs, ht, hf, Bool.false_eq_true, if_false]
  rfl

/-- A slot that lacks something freezes the region, and what it has read is not counted. -/
theorem Dev.cycleRegion_freezes (hs : p.stalls ≠ []) (hf : firstFault p.walked = none) :
    d.cycleRegion c r = (d1.uncount d0).freeze c r p.stalls := by
  unfold Dev.cycleRegion
  rw [if_neg (Bool.eq_false_iff.mp (Dev.no_preempt hpre))]
  simp only [hw]
  simp only [List.isEmpty_nil, Bool.not_true, Region.atSlot hweir hst, hp, hf, Bool.false_eq_true, if_false]
  cases h : p.stalls with
  | nil => exact absurd h hs
  | cons a l => rfl

end

theorem Region.unfrozen_eq {x : Region} (hst : x.st = .running ∨ x.st = .frozen) :
    ∃ n, x.unfrozen = { x with st := .running, fcause := n } := by
  rcases hst with h | h
  · refine ⟨x.fcause, ?_⟩
    rw [Region.unfrozen, if_neg (by simp [h]), ← h]
  · exact ⟨0, if_pos h⟩

section
variable {c : ClusterId} {r : RegionIx}

/-- After its executed slot a region runs, at the next slot modulo W, and of its rounds and kernels nothing has changed (05 R168). -/
theorem Dev.region_executed (d : Dev) (p : SlotPlan) (fill : List Granule) (hst : (d.region c r).st = .running ∨ (d.region c r).st = .frozen) :
    let y := d.region c r
    let z := ((d.execSlot c r p fill).modRegion c r Region.unfrozen).region c r
    z.st = .running ∧ z.slot = (if y.w ≤ y.slot + 1 then 0 else y.slot + 1) ∧ z.weir = (if y.w ≤ y.slot + 1 then .whole else .none) ∧
      z.cyc = y.cyc + 1 ∧ z.round = y.round ∧ z.period = y.period ∧
      ∀ n, (vget z.kernels n).st = (vget y.kernels n).st ∧ (vget z.kernels n).sp = (vget y.kernels n).sp ∧
        (vget z.kernels n).iters = (vget y.kernels n).iters := by
  intro y z
  obtain ⟨x, hx, hslot⟩ := d.region_execSlot c r p fill
  have hxst : x.st = y.st := Region.field_of_core Region.st (fun _ => rfl) hx
  have hs : x.slot = y.slot := Region.field_of_core Region.slot (fun _ => rfl) hx
  have hc : x.cyc = y.cyc := Region.field_of_core Region.cyc (fun _ => rfl) hx
  have hround : x.round = y.round := Region.field_of_core Region.round (fun _ => rfl) hx
  have hperiod : x.period = y.period := Region.field_of_core Region.period (fun _ => rfl) hx
  obtain ⟨n, hn⟩ := (x.nextSlot (decide (y.w ≤ y.slot + 1))).unfrozen_eq (by rw [← hxst] at hst; exact hst)
  have hz : z = _ := (Dev.region_modRegion_same _).trans ((congrArg Region.unfrozen hslot).trans hn)
  rw [hz]
  refine ⟨rfl, ?_, ?_, congrArg (· + 1) hc, hround, hperiod, fun n => ?_⟩
  · simp [Region.nextSlot, hs]
  · simp [Region.nextSlot]
  · have hk := Region.unmarked_of_core hx n
    exact ⟨Kernel.field_of_unmarked Kernel.st (fun _ => rfl) hk, Kernel.field_of_unmarked Kernel.sp (fun _ => rfl) hk,
      Kernel.field_of_unmarked Kernel.iters (fun _ => rfl) hk⟩

theorem Dev.freeze_of_not_stopping {d : Dev} (h : (d.region c r).st ≠ .stopping) (l : List Nat) :
    d.freeze c r l = d.modRegion c r (fun x => { x with st := .frozen, fcause := lowest l }) := if_neg h

/-- A PREEMPT's being due does not rest on what a region's freezing changes. -/
theorem Dev.preemptDue_modRegion {d : Dev} {f : Region → Region} (h : (f (d.region c r)).graphPre = (d.region c r).graphPre) :
    (d.modRegion c r f).preemptDue c r = d.preemptDue c r := by
  simp only [Dev.preemptDue, Dev.region_modRegion_same, h]
  simp only [Dev.modRegion, Dev.cl_modCl_same]

/-- A frozen region at its slot resumes by a cycle (05 R176), after which it stops where a PREEMPT is due and it is still frozen. -/
theorem Dev.resumeRegion_of_cycle {d e : Dev} (hst : (d.region c r).st = .frozen) (hw : (d.region c r).weir = .none)
    (he : d.cycleRegion c r = e) (hp : ((e.region c r).st = .frozen && (e.region c r).busy && e.preemptDue c r) = false) :
    d.resumeRegion c r = e := by
  have ht : d.tryResume c r = e := by
    simp [Dev.tryResume, hst, hw, he]
  simp only [Dev.resumeRegion, ht, hp, Bool.false_eq_true, if_false]

end

/-! ### The wrap of a kernel (05 R170, R171) -/

/-- A kernel whose first stage has its predicate has a stage to run. -/
theorem Kernel.stages_ne_zero {cfg : KernCfg} {sp : BitVec 8} (hs : 1 ≤ cfg.s) (h0 : sp.getLsbD 0 = true) : cfg.stages sp ≠ 0#8 := by
  intro h
  have hbit := congrArg (fun v => v.getLsbD 0) h
  simp only [KernCfg.stages, BitVec.getLsbD_and, h0, BitVec.getLsbD_ofNat, Nat.testBit_two_pow_sub_one] at hbit
  simp at hbit
  omega

/-- A running kernel with iterations left starts one: its predicates shift in a 1 (02 R51). -/
theorem Kernel.wrap_starts {k : Kernel} {cfg : KernCfg} (need : Nat) (hc : k.cfg = some cfg) (hst : k.st = .running) (hx : k.exit_ = false)
    (hn : k.noTrip = false) (ht : k.trips ≠ 0#32) (hs : 1 ≤ cfg.s) :
    k.wrap need = { k with sp := k.sp <<< 1 ||| 1, periods := k.periods + 1, iters := k.iters + 1, trips := k.trips - 1 } := by
  have hon : cfg.stages (k.sp <<< 1 ||| 1#8) ≠ 0#8 := Kernel.stages_ne_zero hs (by simp)
  simp [Kernel.wrap, hc, hst, hx, hn, ht, hon]

/-- The predicates of a kernel that starts an iteration: 1 for its first stage, for each other stage that of the stage before (02 R51). -/
theorem getLsbD_shiftIn (sp : BitVec 8) : (sp <<< 1 ||| 1).getLsbD 0 = true ∧ ∀ i < 8, 0 < i → (sp <<< 1 ||| 1).getLsbD i = sp.getLsbD (i - 1) := by
  refine ⟨by simp, fun i hi h0 => ?_⟩
  have h1 : (1 : BitVec 8).getLsbD i = false := by simp [Nat.ne_of_gt h0]
  have hge : ¬ i < 1 := by omega
  rw [BitVec.getLsbD_or, BitVec.getLsbD_shiftLeft, h1]
  simp [hi, hge]

/-! ### A region that stops (05 R189) -/

/-- What a stop takes of a map that it reads with rb: the bytes, or zeros where they cannot be read (12 R398). -/
def readOrZeros (rb : Ctx → Word → Nat → UA (List Byte × Bool)) (x : Ctx) (ga : Word) (n : Nat) (d : Dev) : List Byte × Bool × Dev :=
  match rb x ga n d with
  | (.ok v, d) => (v.1, false, d)
  | (.error _, d) => (List.replicate n 0, true, d)

theorem Dev.region_readOrZeros {rb : Ctx → Word → Nat → UA (List Byte × Bool)} {c : ClusterId} {r : RegionIx}
    (h : ∀ x ga n d, (rb x ga n d).2.region c r = d.region c r) (x : Ctx) (ga : Word) (n : Nat) (d : Dev) :
    (readOrZeros rb x ga n d).2.2.region c r = d.region c r := by
  have hd := h x ga n d
  unfold readOrZeros
  split
  all_goals
    rename_i he
    rw [he] at hd
    exact hd

section
variable (d : Dev) (c : ClusterId) (r : RegionIx)

theorem Dev.coreAt_settleFlights : (d.settleFlights c r).coreAt c r = d.coreAt c r := by
  refine Dev.coreAt_setCl ?_
  rw [foldl_keeps (Cluster.coreAt r), Cluster.coreAt_modReg]
  case h => exact fun _ => rfl
  case h => exact fun cl f => cl.coreAt_land r _

theorem Dev.coreAt_modAgen (g : AgIx) (f : Agen → Agen) : (d.modAgen c g f).coreAt c r = d.coreAt c r := Dev.coreAt_modCl rfl

theorem Dev.coreAt_mapNodes (f : MNode → MNode) :
    (d.modCl c (fun cl => { cl with fab := { cl.fab with nodes := cl.fab.nodes.map f } })).coreAt c r = d.coreAt c r := Dev.coreAt_modCl rfl

theorem Dev.coreAt_mapPorts (f : Port → Port) :
    (d.modCl c (fun cl => { cl with fab := { cl.fab with ports := cl.fab.ports.map f } })).coreAt c r = d.coreAt c r := Dev.coreAt_modCl rfl

theorem Dev.coreAt_recordTake (g : AgIx) (t : TakeRec) : (d.recordTake c g t).coreAt c r = d.coreAt c r := d.coreAt_modAgen c r g _

theorem Dev.coreAt_collect (g : AgIx) (n : Fin 4) (take : Bool) (base : Nat) (v : AgVec) :
    (d.collect c g n take base v).2.coreAt c r = d.coreAt c r := by
  refine foldl_keeps (fun acc : AgVec × Dev => acc.2.coreAt c r) (fun acc p => ?_) _ _
  have hdrop : ∀ f : Req → Bool, (acc.2.modCl c (fun cl => { cl with reqs := cl.reqs.filter f })).coreAt c r = acc.2.coreAt c r :=
    fun f => Dev.coreAt_modCl rfl
  dsimp only
  split
  · split
    · rfl
    · exact hdrop _
    · exact hdrop _
    · simp only [apply_ite (Dev.coreAt c r), Dev.coreAt_recordTake, hdrop, ite_self]
  · rfl

theorem Dev.coreAt_collectBlock (g : AgIx) (n : Fin 4) : (d.collectBlock c g n).coreAt c r = d.coreAt c r := by
  unfold Dev.collectBlock
  split
  · rfl
  · split
    · rfl
    · refine (Dev.coreAt_modAgen _ c r _ _).trans ?_
      exact foldl_keeps (fun acc : List AgVec × Dev × Nat => acc.2.1.coreAt c r) (fun acc v => acc.2.1.coreAt_collect c r _ _ _ _ _) _ _

theorem Dev.coreAt_collectAll : (d.collectAll c r).coreAt c r = d.coreAt c r := by
  refine foldl_keeps (Dev.coreAt c r) (fun d g => ?_) _ _
  split
  · exact foldl_keeps (Dev.coreAt c r) (fun d n => d.coreAt_collectBlock c r g n) _ _
  · rfl

theorem Dev.coreAt_cancelReq (tag : Nat) : (d.cancelReq c tag).coreAt c r = d.coreAt c r := by
  obtain ⟨w, hw⟩ := d.cl_cancelReq c tag
  have hcl : ((d.cancelReq c tag).cl c).coreAt r = (d.cl c).coreAt r := by
    rw [hw]
    exact congrArg Prod.fst (Dev.coreAt_modCl (d := d) (c := c) (r := r) rfl)
  rw [Dev.coreAt, hcl, Dev.cancelReq_mem, Dev.coreAt]

theorem Dev.coreAt_cancelGens : (d.cancelGens c r).coreAt c r = d.coreAt c r :=
  (foldl_keeps (Dev.coreAt c r) (fun d t => d.coreAt_cancelReq c r t) _ _).trans (d.coreAt_collectAll c r)

/-- The entries of a cluster's step table that are tied to a region, each with its number. -/
def Dev.tiedEntries (d : Dev) (c : ClusterId) (r : RegionIx) : List (StepEntry × Nat) :=
  (d.cl c).step.entries.toList.zipIdx.filter (fun e => e.1.tiedTo r)

/-- The step-sequencer part is taken entry by entry, and each entry's reads leave the region as it is. The proof gives readBytes another name
first: unfolded, its granules would be evaluated. -/
theorem Dev.tieSteps_eq : ∃ (f : List TiedRec × Dev → StepEntry × Nat → List TiedRec × Dev) (m : EngQueue → EngQueue)
    (recs : List TiedRec) (ks : List Cmd), (∀ acc e, (f acc e).2.region c r = acc.2.region c r) ∧
      d.tieSteps c r = (((d.tiedEntries c r).foldl f ([], d)).2.modQ c 6 m).modRegion c r (fun y => { y with tied := recs, tiedCmds := ks }) := by
  have hread := Dev.region_readBytes (c := c) (r := r)
  obtain ⟨rb, hrb⟩ : ∃ rb, readBytes = rb := ⟨_, rfl⟩
  unfold Dev.tieSteps
  rw [hrb] at hread ⊢
  refine ⟨_, _, _, _, fun acc e => ?_, rfl⟩
  exact (Dev.region_readOrZeros hread _ _ _ _).trans (Dev.region_readOrZeros hread _ _ _ _)

@[simp] theorem Dev.modQ_mem (q : QueueIx) (f : EngQueue → EngQueue) : (d.modQ c q f).mem = d.mem := rfl
@[simp] theorem Dev.region_modQ (q : QueueIx) (f : EngQueue → EngQueue) : (d.modQ c q f).region c r = d.region c r := Dev.region_modCl rfl c r

/-- The step-sequencer part is read; but for it, the region stays as it is (12 R398). -/
theorem Dev.core_tieSteps : ((d.tieSteps c r).region c r).core = (d.region c r).core := by
  obtain ⟨f, m, recs, ks, hf, he⟩ := d.tieSteps_eq c r
  have hfold := foldl_keeps (fun acc : List TiedRec × Dev => acc.2.region c r) hf (d.tiedEntries c r) ([], d)
  rw [he, Dev.region_modRegion_same, Dev.region_modQ, ← hfold]
  rfl

/-- Where no entry of the step table is tied to the region, nothing is read. -/
theorem Dev.tieSteps_mem (h : ∀ e ∈ (d.cl c).step.entries.toList, e.tiedTo r = false) : (d.tieSteps c r).mem = d.mem := by
  have hnil : d.tiedEntries c r = [] := by
    refine List.filter_eq_nil_iff.mpr fun e he => ?_
    simp [h e.1 (List.fst_mem_of_mem_zipIdx he)]
  obtain ⟨f, m, recs, ks, -, he⟩ := d.tieSteps_eq c r
  rw [he, Dev.modRegion_mem, Dev.modQ_mem, hnil, List.foldl_nil]

/-- A region as a stop leaves it (05 R189, 14 R437): STOPPED, and each kernel of it with the state that it has recorded. -/
def Region.halted (x : Region) : Region := { x with
  st := .stopped
  fcause := 0
  stop := false
  preempted := false
  graphPre := x.graphPre && !x.preempted
  origin := x.weir = .none
  kernels := x.kernels.map (fun k => if k.cfg.isNone then k else { k with was := k.recorded, st := .stopped }) }

/-- A stop settles what is in flight, gives up what generators and nodes have begun, takes the step-sequencer part and halts the region. -/
theorem Dev.stopped_eq : ∃ e : Dev, e.coreAt c r = d.coreAt c r ∧ d.stopped_ c r = (e.tieSteps c r).modRegion c r Region.halted := by
  refine ⟨_, ?_, rfl⟩
  rw [apply_ite (Dev.coreAt c r), Dev.coreAt_mapPorts, ite_self, Dev.coreAt_mapNodes,
    foldl_keeps (Dev.coreAt c r) (fun e g => e.coreAt_modAgen c r g _), Dev.coreAt_cancelGens, Dev.coreAt_settleFlights]

/-- What a stop at a weir leaves of a region (05 R189). -/
theorem Dev.region_stopped : ∃ x : Region, x.core = (d.region c r).core ∧ (d.stopped_ c r).region c r = x.halted := by
  obtain ⟨e, he, h⟩ := d.stopped_eq c r
  refine ⟨_, (e.core_tieSteps c r).trans (congrArg (fun z => z.1.1) he), ?_⟩
  rw [h, Dev.region_modRegion_same]

/-- Where no entry of the step table is tied to the region, a stop leaves memory as it is. -/
theorem Dev.stopped_mem (hn : ∀ e ∈ (d.cl c).step.entries.toList, e.tiedTo r = false) : (d.stopped_ c r).mem = d.mem := by
  obtain ⟨e, he, h⟩ := d.stopped_eq c r
  have hstep : (e.cl c).step = (d.cl c).step := congrArg (fun z => z.1.2) he
  rw [h, Dev.modRegion_mem, Dev.tieSteps_mem e c r (by rwa [hstep])]
  exact congrArg Prod.snd he

end

section
variable {d : Dev} {c : ClusterId} {r : RegionIx}

/-- A region that stands at its weir with a stop due, nothing draining and its nodes and tied commands at a boundary, stops. -/
theorem Dev.stopRegion_of_due (hst : (d.region c r).st = .stopping) (hw : (d.region c r).weir = .wrap) (hs : (d.region c r).stop = true)
    (hc : (d.region c r).commit = none) (hd : (d.region c r).drain = none) (hn : d.nodeBusy c r = false) (ht : d.tiedBusy c r = false) :
    d.stopRegion c r = d.stopped_ c r := by
  simp [Dev.stopRegion, Dev.reportCommit, Region.stopDue, hst, hw, hs, hc, hd, hn, ht]

/-- A configured kernel of a halted region is STOPPED, with the state that it has recorded. -/
theorem Region.halted_kernel {x y : Region} (h : x.core = y.core) {n : Fin 4} (hc : (vget y.kernels n).cfg.isSome = true) :
    (vget x.halted.kernels n).st = .stopped ∧ (vget x.halted.kernels n).was = (vget y.kernels n).recorded := by
  have hk := Region.unmarked_of_core h n
  rw [← Kernel.field_of_unmarked Kernel.cfg (fun _ => rfl) hk, ← Option.isNone_eq_false_iff] at hc
  have hhalt : vget x.halted.kernels n = { vget x.kernels n with was := (vget x.kernels n).recorded, st := .stopped } :=
    (vget_map _ x.kernels n).trans (if_neg (by simp [hc]))
  rw [hhalt]
  exact ⟨rfl, Kernel.field_of_unmarked Kernel.recorded (fun _ => rfl) hk⟩

end

/-! ### The events of a region -/

section
variable {s : State} {c : ClusterId} {r : RegionIx}

theorem exec_regionCycle (h : (s.dev.region c r).st = .running) :
    exec (.regionCycle c r) s = .next (s.after (s.dev.cycleRegion c r)) := by
  show execRegionCycle c r s = _
  simp only [execRegionCycle, h]
  rfl
theorem exec_regionResume : exec (.regionResume c r) s = .next (s.after (s.dev.resumeRegion c r)) := rfl
theorem exec_regionStop : exec (.regionStop c r) s = .next (s.after (s.dev.stopRegion c r)) := rfl

end

/-- Settles O37: a cycle executes its slot or freezes by the equations for `cycleRegion`, a resumption is such a cycle, a kernel's wrap is
`wrap_starts`, and a stop is `stopRegion_of_due`. -/
theorem regionSteps : Obligations.RegionSteps := by
  unfold Obligations.RegionSteps
  intro s c r d0 d1 p fill fs k cfg need x y moved froze
  refine ⟨fun hw hweir hp hst0 hy ht => ?slot, fun hc hst hx hn ht hs _ => ?wrap, fun hst hweir hstop hc hd hn ht => ?stop⟩
  case slot =>
    have hmoved : x.st = .running ∨ x.st = .frozen → moved (s.after ((d1.execSlot c r p fill).modRegion c r Region.unfrozen)) := fun hst => by
      obtain ⟨hrun, hslot, hweir, hcyc, hround, hperiod, hkern⟩ := d1.region_executed p fill (hy ▸ hst)
      exact ⟨rfl, hrun, hslot, hweir, hcyc, hround, hperiod, .of_mem_eq (d1.execSlot_mem c r p fill), hkern⟩
    have hnext : x.st = .running ∨ x.st = .frozen → (d0.region c r).st = .running ∨ (d0.region c r).st = .frozen := fun h => by rwa [hst0]
    refine ⟨fun hst hpre => ⟨fun hs hf => ?_, fun hs hf => ?_⟩, fun hst hweirx => ⟨fun hs hf => ?_, fun hs hf hdue => ?_⟩⟩
    · refine ⟨_, exec_regionCycle hst, ?_⟩
      rw [Dev.cycleRegion_executes (.inr hpre) hw hweir (hnext (.inl hst)) hp hs ht hf]
      exact hmoved (.inl hst)
    · refine ⟨_, exec_regionCycle hst, ?_⟩
      rw [Dev.cycleRegion_freezes (.inr hpre) hw hweir (hnext (.inl hst)) hp hs hf]
      exact congrArg s.after (Dev.freeze_of_not_stopping (d := d1.uncount d0) (hy.trans hst ▸ nofun) p.stalls)
    · refine ⟨_, exec_regionResume, ?_⟩
      rw [Dev.resumeRegion_of_cycle hst hweirx (Dev.cycleRegion_executes (.inl hst) hw hweir (hnext (.inr hst)) hp hs ht hf)]
      · exact hmoved (.inr hst)
      · obtain ⟨hrun, -⟩ := d1.region_executed p fill (hy ▸ Or.inr hst)
        rw [hrun]
        rfl
    · have hfreeze := Dev.freeze_of_not_stopping (d := d1.uncount d0) (c := c) (r := r) (hy.trans hst ▸ nofun) p.stalls
      refine ⟨_, exec_regionResume, ?_⟩
      rw [Dev.resumeRegion_of_cycle hst hweirx ((Dev.cycleRegion_freezes (.inl hst) hw hweir (hnext (.inr hst)) hp hs hf).trans hfreeze)]
      · rfl
      · rw [Dev.region_modRegion_same, Dev.preemptDue_modRegion rfl, Bool.and_assoc]
        exact (congrArg (_ && ·) hdue).trans (Bool.and_false _)
  case wrap =>
    intro k'
    have hk : k' = _ := Kernel.wrap_starts need hc hst hx hn ht hs
    obtain ⟨h0, hi⟩ := getLsbD_shiftIn k.sp
    rw [hk]
    exact ⟨hst, rfl, rfl, rfl, h0, hi⟩
  case stop =>
    refine ⟨_, exec_regionStop, ?_⟩
    rw [Dev.stopRegion_of_due hst hweir hstop hc hd hn ht]
    obtain ⟨z, hz, hstopped⟩ := s.dev.region_stopped c r
    have hround : z.round = x.round := Region.field_of_core Region.round (fun _ => rfl) hz
    have hslot : z.slot = x.slot := Region.field_of_core Region.slot (fun _ => rfl) hz
    show _ ∧ _
    simp only [State.after, hstopped]
    exact ⟨rfl, rfl, hround, hslot, fun h => .of_mem_eq (s.dev.stopped_mem c r h), fun n hc => Region.halted_kernel hz hc⟩

end Sys2Proof.Machine

/-! A floating-point instruction of a strand that raises an enabled flag (06 R206, R207; 09 R320): what FPFLAGS then holds, the trap, and
the flags with which each instruction ends. -/

namespace Sys2Proof.Machine

/-! ### A byte of FPFLAGS -/

theorem fpByte_setFpByte_same (w : Word) {i : Nat} (hi : i < 8) (v : Nat) : fpByte (setFpByte w i v) i = v % 256 := by
  simp only [fpByte, setFpByte, bits, BitVec.toNat_ofNat]
  have hi : i = 0 ∨ i = 1 ∨ i = 2 ∨ i = 3 ∨ i = 4 ∨ i = 5 ∨ i = 6 ∨ i = 7 := by omega
  obtain rfl | rfl | rfl | rfl | rfl | rfl | rfl | rfl := hi <;> omega

/-! ### The end of an instruction that raises an enabled flag -/

section
variable (s : State) (fl : Flags)

/-- The flags raised that the strand's byte of FPTRAPEN enables. -/
def State.enabledFlags : Flags := BitVec.ofNat 5 (fpByte (s.dev.cl s.curC).fpTrapEn (4 + s.curK.val)) &&& fl

/-- The device with the flags raised set in the strand's byte of FPFLAGS. -/
def State.withFlags : Dev :=
  s.dev.modCl s.curC fun x => { x with fpFlags := setFpByte x.fpFlags (4 + s.curK.val) (fpByte x.fpFlags (4 + s.curK.val) ||| fl.toNat) }

/-- The strand traps with FP_TRAP for the enabled flags that it raised, writes no f register, and has set its flags. -/
def FloatTrap (t : State) : Prop :=
  Traps .fpTrap 0 (BitVec.ofNat 64 (s.enabledFlags fl).toNat) s.me.pc (s.after (s.withFlags fl)) t ∧ t.me.f = s.me.f ∧
    fpByte (t.dev.cl s.curC).fpFlags (4 + s.curK.val) = (fpByte (s.dev.cl s.curC).fpFlags (4 + s.curK.val) ||| fl.toNat) % 256

theorem State.me_withFlags : (s.after (s.withFlags fl)).me = s.me := by
  simp [State.me, State.after, State.withFlags, Dev.strand]

theorem fpByte_withFlags : fpByte ((s.withFlags fl).cl s.curC).fpFlags (4 + s.curK.val) =
    (fpByte (s.dev.cl s.curC).fpFlags (4 + s.curK.val) ||| fl.toNat) % 256 := by
  rw [State.withFlags, Dev.cl_modCl_same]
  exact fpByte_setFpByte_same _ (by omega) _

variable {s fl}

/-- With an enabled flag among those raised, an FOP instruction traps, whatever its result. -/
theorem State.fop_of_enabled (sr : Bool) (write : Strand → Strand) (h : s.enabledFlags fl ≠ 0) :
    s.fop sr fl write = (s.after (s.withFlags fl)).trapHere .fpTrap 0 (BitVec.ofNat 64 (s.enabledFlags fl).toNat) := by
  have hen : ((s.withFlags fl).cl s.curC).fpTrapEn = (s.dev.cl s.curC).fpTrapEn := by
    rw [State.withFlags, Dev.cl_modCl_same]
  rw [BitVec.ofNat_toNat]
  simp only [State.enabledFlags, ← hen] at h ⊢
  exact if_pos (bne_iff_ne.mpr h)

/-- The instruction ends as an FOP instruction that raises the flags (06 R207): it traps or completes by `State.fop`. -/
def EndsFop (s : State) (i : Instr) (fl : Flags) : Prop := ∃ sr write, exec i s = .next (s.fop sr fl write)

/-- One of the flags raised is enabled: the strand traps with FP_TRAP. -/
theorem EndsFop.floatTrap {i : Instr} (hi : EndsFop s i fl) (h : s.enabledFlags fl ≠ 0) : Answers i s (FloatTrap s fl) := by
  obtain ⟨sr, write, hexec⟩ := hi
  have htrap := trapHere_spec (s.after (s.withFlags fl)) .fpTrap 0 (BitVec.ofNat 64 (s.enabledFlags fl).toNat)
  rw [State.me_withFlags] at htrap
  refine ⟨_, hexec.trans (congrArg _ (State.fop_of_enabled sr write h)), htrap, ?_, ?_⟩
  · simp only [State.trapHere, State.modMe_me, Strand.enterTrap_f, State.me_withFlags]
  · rw [← fpByte_withFlags s fl]
    exact congrArg (fpByte · _) (Dev.cl_modStrand_fpFlags (s.withFlags fl) s.curC s.curC s.curK _)

end

/-! ### The flags of each instruction -/

/-- An instruction whose result is FP32 in f[d] (09 R320). -/
theorem endsFop_of_fopF {s : State} {i : Instr} {d : FReg} {m : BitVec 3} {r : Nat × Flags} (h : exec i s = s.fopF d m r) :
    EndsFop s i r.2 := ⟨_, _, h⟩

theorem fOf_val (r : FReg) (h : r.val < 32) : fOf ⟨r.val, h⟩ = r := Fin.ext (Nat.mod_eq_of_lt r.isLt)

section
variable (s : State) (m : BitVec 3)

/-- FCVT of kinds 0 and 1 (09 R320), to an integer of 64 or of 32 bits; AUX[2] is SAT. -/
theorem endsFop_fcvt_toInt (g : GReg) (a : FReg) (h : a.val < 32) {x : BitVec 3} {n : Nat} {sat : Bool}
    (hx : (x, n, sat) ∈ [((0 : BitVec 3), 64, false), (4, 64, true), (1, 32, false), (5, 32, true)]) :
    EndsFop s (.fcvt g ⟨a.val, h⟩ x m) (fvToInt n (s.fopMode m) (lfsrStep s.me.slfsr) sat (s.fv a)).2 := by
  rw [← congrArg s.fv (fOf_val a h)]
  simp only [List.mem_cons, Prod.mk.injEq, List.not_mem_nil, or_false] at hx
  obtain ⟨rfl, rfl, rfl⟩ | ⟨rfl, rfl, rfl⟩ | ⟨rfl, rfl, rfl⟩ | ⟨rfl, rfl, rfl⟩ := hx <;> exact ⟨_, _, rfl⟩

/-- FCVT of kind 2 (09 R320), from an integer of 64 bits. -/
theorem endsFop_fcvt_ofInt64 (d g : GReg) : EndsFop s (.fcvt d g 2 m) (intToFv .f32 (s.fopRnd m false) (s.g g).toInt).2 :=
  ⟨_, _, rfl⟩

/-- FCVT of kind 3 (09 R320), from an integer of 32 bits. -/
theorem endsFop_fcvt_ofInt32 (d g : GReg) :
    EndsFop s (.fcvt d g 3 m) (intToFv .f32 (s.fopRnd m false) ((s.g g).setWidth 32).toInt).2 := ⟨_, _, rfl⟩

end

/-- Only a NaN compares as unordered. -/
theorem fvCmp_isNone_iff (a b : FV) : (fvCmp a b).isNone = true ↔ a = .nan ∨ b = .nan := by
  cases a <;> cases b <;> simp [fvCmp]

/-- FCMP (09 R320) raises NV where SIG meets a NaN, and no other flag. -/
theorem endsFop_fcmp (s : State) (g : GReg) (a b : FReg) (c : BitVec 3) (sig : Bool) :
    EndsFop s (.fcmp g a b c sig) (if sig = true ∧ (s.fv a = .nan ∨ s.fv b = .nan) then 1 else 0) := by
  simp only [← fvCmp_isNone_iff, ← Bool.and_eq_true]
  exact ⟨_, _, rfl⟩

/-- Settles O19: each instruction ends as an FOP instruction with its own flags, and any that so ends with one of them enabled traps. -/
theorem floatTraps : Obligations.FloatTraps := by
  intro s d a b g m c sig _ mode rnd cl i va vb nv f hf hit hhit
  suffices hends : EndsFop s f.1 f.2 from hends.floatTrap hhit
  clear hit hhit
  revert f
  simp only [List.forall_mem_cons]
  refine ⟨?fadd, ?fsub, ?fmul, ?ffma, ?fdiv, ?fsqrt, ?ofInt64, ?ofInt32, ?toInt64, ?toInt64Sat, ?toInt32, ?toInt32Sat, ?fcmp,
    List.forall_mem_nil _⟩
  case fadd | fsub | fmul | ffma | fdiv | fsqrt => exact endsFop_of_fopF rfl
  case ofInt64 => exact endsFop_fcvt_ofInt64 s m _ g
  case ofInt32 => exact endsFop_fcvt_ofInt32 s m _ g
  case toInt64 | toInt64Sat | toInt32 | toInt32Sat => exact endsFop_fcvt_toInt s m g a _ (by decide)
  case fcmp => exact endsFop_fcmp s g a b c sig

end Sys2Proof.Machine

/-! The immediate forms and LI64 (07 R231, R236; 09 R301, R302): an instruction that ends in `writeG` writes its register and nothing else,
so each form turns on its value alone, which is stated here as arithmetic on numbers. -/

namespace Sys2Proof.Machine

/-! ### Values as arithmetic on numbers -/

section
variable (x y : Word) (n : Nat)

theorem add_eq_ofInt : x + y = BitVec.ofInt 64 (x.toInt + y.toInt) := by
  rw [BitVec.ofInt_add, BitVec.ofInt_toInt, BitVec.ofInt_toInt]

theorem and_eq_ofNat : x &&& y = BitVec.ofNat 64 (x.toNat &&& y.toNat) := by
  simp [BitVec.ofNat_and]

theorem or_eq_ofNat : x ||| y = BitVec.ofNat 64 (x.toNat ||| y.toNat) := by
  simp [BitVec.ofNat_or]

theorem xor_eq_ofNat : x ^^^ y = BitVec.ofNat 64 (x.toNat ^^^ y.toNat) := by
  simp [BitVec.ofNat_xor]

theorem shiftLeft_eq_ofNat : x <<< n = BitVec.ofNat 64 (x.toNat * 2 ^ n) := by
  rw [← Nat.shiftLeft_eq]
  rfl

theorem ushiftRight_eq_ofNat : x >>> n = BitVec.ofNat 64 (x.toNat / 2 ^ n) := by
  rw [← Nat.shiftRight_eq_div_pow, ← BitVec.toNat_ushiftRight, BitVec.ofNat_toNat, BitVec.setWidth_eq]

theorem sshiftRight_eq_ofInt : x.sshiftRight n = BitVec.ofInt 64 (x.toInt / 2 ^ n) := by
  rw [BitVec.sshiftRight, Int.shiftRight_eq_div_pow]
  norm_cast

theorem boolW_slt : boolW (x.slt y) = if x.toInt < y.toInt then 1 else 0 := by
  simp [boolW, BitVec.slt]

theorem boolW_ult : boolW (x.ult y) = if x.toNat < y.toNat then 1 else 0 := by
  simp [boolW, BitVec.ult]

end

/-! ### The extensions of an immediate (07 R231) -/

section
variable (i : BitVec 16)

@[simp] theorem toInt_sext16 : (sext16 i).toInt = i.toInt := BitVec.toInt_signExtend_of_le (by decide)

@[simp] theorem toNat_zext16 : (zext16 i).toNat = i.toNat := BitVec.toNat_setWidth_of_le (by decide)

/-- What LIH adds (09 R301). -/
theorem sext16_shiftLeft_16 : sext16 i <<< 16 = BitVec.ofInt 64 (i.toInt * 2 ^ 16) := by
  rw [BitVec.shiftLeft_eq_mul_twoPow, BitVec.ofInt_mul]
  rfl

end

/-! ### The halves of LI64 (09 R302) -/

/-- The value that LI64 writes with H = 1. -/
def highHalf (i : BitVec 32) (old : Word) : Word := BitVec.ofNat 64 (i.toNat * 2 ^ 32 + old.toNat % 2 ^ 32)

theorem toNat_highHalf (i : BitVec 32) (old : Word) : (highHalf i old).toNat = i.toNat * 2 ^ 32 + old.toNat % 2 ^ 32 := by
  rw [highHalf, BitVec.toNat_ofNat, Nat.mod_eq_of_lt (by omega)]

/-! ### What the instructions write -/

section
variable {s t : State} {i : Instr} {d : GReg} {v w n : Word}

/-- An instruction that ends in `writeG` writes that value and nothing else. -/
theorem answers_writeG (h : exec i s = .next (s.writeG d v)) (hv : v = w) : Answers i s (WritesG d w 4 s) :=
  ⟨_, h, hv ▸ writeG_spec s d v⟩

theorem WritesG.g_eq (h : WritesG d v n s t) : t.g d = if d = 0 then 0 else v := by
  obtain ⟨⟨-, -, hg, -⟩, -⟩ := h
  exact hg

/-- The value written may be named by what register d reads afterwards: g0 reads 0 whatever was written. -/
theorem WritesG.g_self (h : WritesG d v n s t) : WritesG d (t.g d) n s t := by
  have hd : t.g d = if d = 0 then 0 else t.g d := by
    rw [h.g_eq]
    split <;> rfl
  obtain ⟨⟨hpc, hstate, -, hregs, hrest⟩, hothers⟩ := h
  exact ⟨⟨hpc, hstate, hd, hregs, hrest⟩, hothers⟩

end

theorem exec_li64_high (s : State) (d : GReg) (i : BitVec 32) :
    exec (.li64 d true i) s = .next (s.modMe fun st => (st.setG d (highHalf i (s.g d))).advance 8) := rfl

/-- Each immediate form writes the value that its register form would write with the extended immediate. -/
theorem immediateForms_answer : Claim.ImmediateForms := by
  intro s d a i sh x
  refine ⟨answers_writeG rfl ?addi, answers_writeG rfl ?andi, answers_writeG rfl ?ori, answers_writeG rfl ?xori, answers_writeG rfl ?slti,
    answers_writeG rfl ?sltiu, answers_writeG rfl ?slli, answers_writeG rfl ?srli, answers_writeG rfl ?srai, answers_writeG rfl ?lih⟩
  case addi => rw [add_eq_ofInt, toInt_sext16]
  case andi => rw [and_eq_ofNat, toNat_zext16]
  case ori => rw [or_eq_ofNat, toNat_zext16]
  case xori => rw [xor_eq_ofNat, toNat_zext16]
  case slti => rw [boolW_slt, toInt_sext16]
  case sltiu => exact boolW_ult x (sext16 i)
  case slli => exact shiftLeft_eq_ofNat x sh.toNat
  case srli => exact ushiftRight_eq_ofNat x sh.toNat
  case srai => exact sshiftRight_eq_ofInt x sh.toNat
  case lih => rw [sext16_shiftLeft_16, BitVec.ofInt_add, BitVec.ofInt_toInt]

/-- LI64 writes the extended immediate, or the upper half of its register. -/
theorem li64Halves_answer : Claim.Li64Halves := by
  intro s d i
  refine ⟨⟨_, rfl, modMe_setG_advance s d _ 8⟩, ?high⟩
  case high =>
    have hw := modMe_setG_advance s d (highHalf i (s.g d)) 8
    refine ⟨_, exec_li64_high s d i, hw.g_self, fun hd => ?_⟩
    rw [hw.g_eq, if_neg hd, toNat_highHalf]
    omega

/-- Settles O2: every instruction named ends by writing one register, with the value that the lemmas above state as arithmetic. -/
theorem immediateForms : Obligations.ImmediateForms := ⟨immediateForms_answer, li64Halves_answer⟩

end Sys2Proof.Machine

/-! Words of the encoding tables, and words that they refuse (07 R230 to R236). -/

namespace Sys2Proof

/-- Words that are no instruction, each with the reason: a major opcode or a function that no table assigns, or a field that is reserved or
out of its table. -/
def refusedWords : List (Nat × Reject) :=
  [(0x00000000, .unassignedMajor), (0x94000000, .unassignedMajor), (0x04642818, .unassignedFunction), (0x20C600C3, .badField),
    (0x5405031B, .badField), (0x7C640007, .badField), (0x85880007, .badField), (0x902218C7, .badField), (0xFC03C001, .badField)]

theorem decode_refusedWords : ∀ x ∈ refusedWords, decode x.1 0 = .error x.2 := by
  simp only [refusedWords, List.forall_mem_cons, List.not_mem_nil, false_implies, implies_true, and_true]
  and_intros
  all_goals rfl

/-- Settles O57: each word that decodes is the encoding of its instruction, which `decodeEncode` decodes again; each refused word has its
reason above. -/
theorem knownWordsDecode : Obligations.KnownWordsDecode := by
  obtain ⟨hdecode, -⟩ := decodeEncode
  refine ⟨fun x hx => ?words, rfl, fun w hw => ?refused⟩
  case words =>
    obtain ⟨hwf, henc⟩ : x.2.wf = true ∧ encode x.2 = some (x.1, 0) := by
      revert x
      decide
    obtain ⟨-, -, hword⟩ := hdecode x.2 x.1 0 hwf henc
    exact hword
  case refused =>
    have hmem : w ∈ refusedWords.map Prod.fst := hw
    obtain ⟨x, hx, rfl⟩ := List.mem_map.mp hmem
    exact ⟨_, decode_refusedWords x hx⟩

end Sys2Proof
